-- ==== Sys2Proof/Word.lean ====
section
/-! DEFINITION. The words of the Isalor X2 (R6, R24, R31) and the finite maps that hold sparse state. -/

namespace Sys2Proof

/-- A byte of memory, scratch or a line. -/
abbrev Byte := BitVec 8
/-- A general register, `%item`, `%tpc` and every other 32-bit value (R24). -/
abbrev W32 := BitVec 32
/-- A 64-bit value: a register pair, `%tcmp`, `%tval`, a control store word. -/
abbrev W64 := BitVec 64

/-- A finite map from numbers: key and value pairs, keys rising. A key that is not listed has the default that
the reader names. -/
abbrev AMap (α : Type) := List (Nat × α)

namespace AMap

/-- The value listed at `k`, if any. -/
def find? {α : Type} : AMap α → Nat → Option α
  | [], _ => none
  | (j, v) :: m, k => if j = k then some v else find? m k

/-- The value at `k`, or `d` where none is listed. -/
def get {α : Type} (m : AMap α) (d : α) (k : Nat) : α := (m.find? k).getD d

/-- Lists `v` at `k`, in place of what was listed there, keeping the keys rising. -/
def put {α : Type} : AMap α → Nat → α → AMap α
  | [], k, v => [(k, v)]
  | (j, w) :: m, k, v =>
    if j = k then (k, v) :: m
    else if k < j then (k, v) :: (j, w) :: m
    else (j, w) :: put m k v

/-- Lists nothing at `k`. -/
def del {α : Type} (m : AMap α) (k : Nat) : AMap α := m.filter fun e => e.1 != k

/-- The keys, rising. -/
def keys {α : Type} (m : AMap α) : List Nat := m.map Prod.fst

theorem find?_put_same {α : Type} (m : AMap α) (k : Nat) (v : α) : (m.put k v).find? k = some v := by
  induction m with
  | nil => simp [put, find?]
  | cons e m ih =>
    obtain ⟨j, w⟩ := e
    simp only [put]
    split
    · simp [find?]
    · split
      · simp [find?]
      · rename_i h _; simp [find?, h, ih]

theorem find?_put_ne {α : Type} (m : AMap α) {k j : Nat} (v : α) (h : j ≠ k) :
    (m.put k v).find? j = m.find? j := by
  have h' : k ≠ j := fun e => h e.symm
  induction m with
  | nil => simp [put, find?, h']
  | cons e m ih =>
    obtain ⟨i, w⟩ := e
    simp only [put]
    split
    · rename_i hi; subst hi; simp [find?, h']
    · split
      · simp [find?, h']
      · simp [find?, ih]

@[simp] theorem get_put_same {α : Type} (m : AMap α) (d : α) (k : Nat) (v : α) : (m.put k v).get d k = v := by
  simp [get, find?_put_same]

theorem get_put_ne {α : Type} (m : AMap α) (d : α) {k j : Nat} (v : α) (h : j ≠ k) :
    (m.put k v).get d j = m.get d j := by
  simp [get, find?_put_ne m v h]

end AMap
end Sys2Proof
end

