-- ==== Sys2Proof/Syntax.lean ====
section
/-! DEFINITION. The instructions, micro-ops and device steps of the Isalor X2: `Instr` has one constructor per row
of spec/opcode_table.json. Operand types admit only what R72 to R87 and R206 to R211 admit where a type can say
it; what is left (even registers of pairs, ranges) is checked by `WellFormed`. -/

namespace Sys2Proof

/-- A general register number (R79). -/
abbrev Reg := BitVec 8
/-- A predicate number (R26). -/
abbrev PredNo := BitVec 3

/-- A guard: PG.N and PG.P of R75, R76. -/
structure Guard where
  neg : Bool
  p   : PredNo
  deriving DecidableEq, Repr, Inhabited

/-- The guard of every C-form instruction, PG = 0b0111 (R73). -/
def Guard.always : Guard := ⟨false, 7⟩

/-- A line register, or one way of it (`Ln:wk`), by R79. -/
structure LineOp where
  reg : BitVec 4
  way : Option (BitVec 2)
  deriving DecidableEq, Repr, Inhabited

/-- Operand B of an X form (R80): a register, IMM32, or the 64-bit literal. -/
inductive OpB where
  | reg (r : Reg)
  | imm (v : W32)
  | lit (v : W64)
  deriving DecidableEq, Repr, Inhabited

/-- Rounding modes, coded as in R77. -/
inductive RM where
  | rne | rz | ru | rd
  deriving DecidableEq, Repr, Inhabited

/-- The type codes of R78. -/
inductive Ty where
  | none | b8 | b16 | b32 | b64 | i4 | i8 | i16 | i32 | i64 | n8 | n16 | n32 | n64
  | fp32 | fp16 | bf16 | fp8e4 | fp8e5 | fp4 | lns6 | lns12
  deriving DecidableEq, Repr, Inhabited

/-- Type set I of R80. -/
inductive IntTy where
  | i32 | n32 | i64 | n64
  deriving DecidableEq, Repr, Inhabited
/-- Type set I32. -/
inductive I32Ty where
  | i32 | n32
  deriving DecidableEq, Repr, Inhabited
/-- The types of `abs` and `neg`. -/
inductive SgnTy where
  | i32 | i64
  deriving DecidableEq, Repr, Inhabited
/-- The types of `lea`, `sig` and `sigw`. -/
inductive NatTy where
  | n32 | n64
  deriving DecidableEq, Repr, Inhabited
/-- Type set Bt. -/
inductive BtTy where
  | b32 | b64
  deriving DecidableEq, Repr, Inhabited
/-- The types of `shr`: Bt and I. -/
inductive ShrTy where
  | b32 | b64 | i32 | n32 | i64 | n64
  deriving DecidableEq, Repr, Inhabited
/-- Type set F. -/
inductive FTy where
  | fp32 | fp16 | bf16
  deriving DecidableEq, Repr, Inhabited
/-- The packed 16-bit float types. -/
inductive F16Ty where
  | fp16 | bf16
  deriving DecidableEq, Repr, Inhabited
/-- Type set Ln. -/
inductive LnTy where
  | lns6 | lns12
  deriving DecidableEq, Repr, Inhabited
/-- The types of `cvt` (R109). -/
inductive CvtTy where
  | i32 | n32 | i64 | n64 | fp32 | fp16 | bf16
  deriving DecidableEq, Repr, Inhabited
/-- The types of `pk8` and `unp8`. -/
inductive Pk8Ty where
  | fp8e4 | fp8e5 | i8 | n8
  deriving DecidableEq, Repr, Inhabited
/-- The types of `pk4` and `unp4`. -/
inductive Pk4Ty where
  | fp4 | i4
  deriving DecidableEq, Repr, Inhabited
/-- The types of `scal`. -/
inductive ScalTy where
  | lns6 | fp4 | fp8e4 | fp8e5
  deriving DecidableEq, Repr, Inhabited
/-- The types of `lde` and `ste`. -/
inductive ElTy where
  | fp32 | fp16 | bf16 | i32
  deriving DecidableEq, Repr, Inhabited
/-- The key types of `match`. -/
inductive MatchTy where
  | b32 | fp32
  deriving DecidableEq, Repr, Inhabited

/-- The six ordered conditions, OP 0 to 5 of `setp` and `bcmp`. -/
inductive Cond where
  | eq | ne | lt | le | gt | ge
  deriving DecidableEq, Repr, Inhabited

/-- The accepted condition and type pairs of `setp` (R81). -/
inductive SetpTest where
  | int  (c : Cond) (t : IntTy)
  | bits (ne : Bool) (t : BtTy)
  | fp   (c : Cond)
  | nan
  | num
  deriving DecidableEq, Repr, Inhabited

/-- The arithmetic combining operations. -/
inductive ArithOp where
  | add | min | max
  deriving DecidableEq, Repr, Inhabited
/-- The bitwise combining operations. -/
inductive BitOp where
  | and | or | xor
  deriving DecidableEq, Repr, Inhabited
/-- I and `.fp32`: the types of add, min and max of `atom`, `red` and `tred`. -/
inductive NumTy where
  | int (t : IntTy)
  | fp32
  deriving DecidableEq, Repr, Inhabited
/-- I32 and `.fp32`: the types of add, min and max of `cred` and `cscan`. -/
inductive Num32 where
  | i32 | n32 | fp32
  deriving DecidableEq, Repr, Inhabited
/-- Operations of `red` (R83). -/
inductive RedOp where
  | arith (o : ArithOp) (t : NumTy)
  | bits  (o : BitOp) (t : BtTy)
  deriving DecidableEq, Repr, Inhabited
/-- Operations of `atom` (R83). -/
inductive AtomOp where
  | red  (o : RedOp)
  | exch (t : BtTy)
  | cas  (t : BtTy)
  deriving DecidableEq, Repr, Inhabited
/-- Operations of `tred` (R84). -/
inductive TredOp where
  | arith (o : ArithOp) (t : NumTy)
  | bits  (o : BitOp)
  deriving DecidableEq, Repr, Inhabited
/-- Operations of `cred` and `cscan` (R84). -/
inductive CrOp where
  | arith (o : ArithOp) (t : Num32)
  | bits  (o : BitOp)
  deriving DecidableEq, Repr, Inhabited

/-- Access sizes of `ld` and `st`. -/
inductive Size where
  | b | h | w | d | x
  deriving DecidableEq, Repr, Inhabited
/-- Modes of `open` (R118). -/
inductive OpenMode where
  | r | w | rw
  deriving DecidableEq, Repr, Inhabited
/-- Modes of `shfl`. -/
inductive ShflMode where
  | idx | up | down | xor
  deriving DecidableEq, Repr, Inhabited
/-- Modes of `vote` with their destination. -/
inductive VoteDst where
  | all  (p : PredNo)
  | any  (p : PredNo)
  | ball (d : Reg)
  | eq   (p : PredNo)
  deriving DecidableEq, Repr, Inhabited
/-- The fields of `hld`. -/
inductive HldField where
  | base | len | flags
  deriving DecidableEq, Repr, Inhabited
/-- The special registers of R31. -/
inductive SReg where
  | item | lane | crew | quad | core | die | age | clock | tcmp | team | ostat | tpc | tcause | tval
  deriving DecidableEq, Repr, Inhabited

/-- A write of the host to the register window (R256, R317): its channel and SEQ, and the value. -/
structure RegWrite where
  chan  : Nat
  seq   : Nat
  value : W64
  deriving DecidableEq, Repr, Inhabited

/-- Thresholds of `wait`; `none` is a class that is not enabled (R86). -/
structure WaitSet where
  o : Option (BitVec 6)
  h : Option (BitVec 6)
  c : Option (BitVec 6)
  m : Option (BitVec 6)
  s : Option (BitVec 6)
  deriving DecidableEq, Repr, Inhabited

/-- A source select of a micro-op (R207). -/
abbrev Sel := BitVec 4
/-- A temporary `q0` to `q7` (R46). -/
abbrev QReg := BitVec 3
/-- Variants of the micro-op `cmp` (R208). -/
inductive UCmp where
  | eq | ne | ltI | leI | ltN | leN | ltF | leF
  deriving DecidableEq, Repr, Inhabited
/-- Variants of the micro-op `cvt` (R208), those that round with their mode. -/
inductive UCvt where
  | i32fp32 (rm : RM) | fp32i32 (rm : RM) | n32fp32 (rm : RM) | fp32n32 (rm : RM)
  | lenc6 | lenc12 | scal6 | fscale (rm : RM)
  deriving DecidableEq, Repr, Inhabited
/-- Variants of the micro-op `pack` (R208). -/
inductive UPack where
  | bf16 | fp16 | fp8e4 | fp8e5
  deriving DecidableEq, Repr, Inhabited
/-- Targets of the micro-op `wr` (R212). -/
inductive UWr where
  | vd | vdh | pd
  deriving DecidableEq, Repr, Inhabited

/-- The detail codes of R89. -/
inductive Detail where
  | lineCross | guard | opcode | form | modifier | reserved | register | target | seamUnbound | privilege
  deriving DecidableEq, Repr, Inhabited

/-- Where an uncorrectable error strikes (R299). -/
inductive ErrorSite where
  | register (core slot reg : Nat)
  | frame (core frame word : Nat)
  | scratch (core word : Nat)
  | home (pa16 : Nat)
  | icache (core key : Nat)
  | controlStore (core word : Nat)
  deriving DecidableEq, Repr, Inhabited

/-- What a request from a peer device or from the host asks at a home (R251, R256). -/
inductive OuterOp where
  | read  (size : Size)
  | readLine
  | write (size : Size) (data : List Byte)
  | writeLine (data : List Byte) (mask : List Bool)
  | atom  (op : AtomOp) (operand operand2 : W64)
  | red   (op : RedOp) (operand : W64)
  | sig   (t : NatTy) (operand : W64)
  | sigw  (t : NatTy) (least : W64)
  deriving DecidableEq, Repr, Inhabited

/-- Where a request of a peer comes from (R245, R250, R252): its source agent, that agent's die, and the port of this
device by which it enters and its answer leaves. -/
structure PeerSource where
  agent : Nat
  die   : Nat
  port  : Nat
  deriving DecidableEq, Repr, Inhabited

/-- One row of spec/opcode_table.json each. Thread instructions act on the bundle that the picker formed, micro-ops on
the running seam, and the other rows on the core, slot, request, module or launch that their arguments name. -/
inductive Instr where
  -- C forms (R74)
  | nopC
  | movB32C (d b : Reg)
  | movB32Clit (d : Reg) (lit : W32)
  | movB32Imm8C (d : Reg) (i : BitVec 8)
  | addI32C (d a b : Reg)
  | addI32Clit (d a : Reg) (lit : W32)
  | addI32Imm8C (d a : Reg) (i : BitVec 8)
  | subI32C (d a b : Reg)
  | subI32Clit (d a : Reg) (lit : W32)
  | mulI32C (d a b : Reg)
  | mulI32Clit (d a : Reg) (lit : W32)
  | andB32C (d a b : Reg)
  | andB32Clit (d a : Reg) (lit : W32)
  | andB32Imm8C (d a : Reg) (i : BitVec 8)
  | orB32C (d a b : Reg)
  | orB32Clit (d a : Reg) (lit : W32)
  | xorB32C (d a b : Reg)
  | xorB32Clit (d a : Reg) (lit : W32)
  | shlB32Imm8C (d a : Reg) (i : BitVec 8)
  | shrB32Imm8C (d a : Reg) (i : BitVec 8)
  | shrI32Imm8C (d a : Reg) (i : BitVec 8)
  | shlB32C (d a b : Reg)
  | shlB32Clit (d a : Reg) (lit : W32)
  | shrB32C (d a b : Reg)
  | shrB32Clit (d a : Reg) (lit : W32)
  | minI32C (d a b : Reg)
  | minI32Clit (d a : Reg) (lit : W32)
  | maxI32C (d a b : Reg)
  | maxI32Clit (d a : Reg) (lit : W32)
  | popcB32C (d a : Reg)
  | clzB32C (d a : Reg)
  | leaN32C (d a b : Reg)
  | leaN32Clit (d a : Reg) (lit : W32)
  | faddFp32C (d a b : Reg)
  | faddFp32Clit (d a : Reg) (lit : W32)
  | fmulFp32C (d a b : Reg)
  | fmulFp32Clit (d a : Reg) (lit : W32)
  | fminFp32C (d a b : Reg)
  | fminFp32Clit (d a : Reg) (lit : W32)
  | fmaxFp32C (d a b : Reg)
  | fmaxFp32Clit (d a : Reg) (lit : W32)
  | faddBf16C (d a b : Reg)
  | faddBf16Clit (d a : Reg) (lit : W32)
  | fmulBf16C (d a b : Reg)
  | fmulBf16Clit (d a : Reg) (lit : W32)
  | cvtFp32I32C (d a : Reg)
  | cvtI32Fp32C (d a : Reg)
  | setpEqB32C (p : PredNo) (a b : Reg)
  | setpEqB32Clit (p : PredNo) (a : Reg) (lit : W32)
  | setpNeB32C (p : PredNo) (a b : Reg)
  | setpNeB32Clit (p : PredNo) (a : Reg) (lit : W32)
  | setpLtI32C (p : PredNo) (a b : Reg)
  | setpLtI32Clit (p : PredNo) (a : Reg) (lit : W32)
  | setpGeI32C (p : PredNo) (a b : Reg)
  | setpGeI32Clit (p : PredNo) (a : Reg) (lit : W32)
  | setpLtN32C (p : PredNo) (a b : Reg)
  | setpLtN32Clit (p : PredNo) (a : Reg) (lit : W32)
  | setpGeN32C (p : PredNo) (a b : Reg)
  | setpGeN32Clit (p : PredNo) (a : Reg) (lit : W32)
  | setpLtFp32C (p : PredNo) (a b : Reg)
  | setpLtFp32Clit (p : PredNo) (a : Reg) (lit : W32)
  | setpGeFp32C (p : PredNo) (a b : Reg)
  | setpGeFp32Clit (p : PredNo) (a : Reg) (lit : W32)
  | pandC (d a b : PredNo)
  | porC (d a b : PredNo)
  | pxorC (d a b : PredNo)
  | pandnC (d a b : PredNo)
  | pmovC (d a : PredNo)
  | pnotC (d a : PredNo)
  | ldBC (d : Reg) (la : LineOp) (b : Reg)
  | ldHC (d : Reg) (la : LineOp) (b : Reg)
  | ldWC (d : Reg) (la : LineOp) (b : Reg)
  | ldDC (d : Reg) (la : LineOp) (b : Reg)
  | stBC (la : LineOp) (b d : Reg)
  | stHC (la : LineOp) (b d : Reg)
  | stWC (la : LineOp) (b d : Reg)
  | stDC (la : LineOp) (b d : Reg)
  | recallC (la : LineOp)
  | flushC (la : LineOp)
  | exitC
  | retC (a : Reg)
  | voteAnyC (d a : PredNo)
  | voteAllC (d a : PredNo)
  | voteBallC (d : Reg) (a : PredNo)
  | electC (d : PredNo)
  | shflIdxC (d a b : Reg)
  | shflXorC (d a : Reg) (i : BitVec 8)
  | mfsC (d : Reg) (sr : SReg)
  | pauseC
  | illegalInstruction (why : Detail)
  -- X forms, R81
  | add (g : Guard) (t : IntTy) (d a : Reg) (b : OpB)
  | sub (g : Guard) (t : IntTy) (d a : Reg) (b : OpB)
  | mul (g : Guard) (t : IntTy) (d a : Reg) (b : OpB)
  | mulhi (g : Guard) (t : I32Ty) (d a : Reg) (b : OpB)
  | mad (g : Guard) (t : IntTy) (d a : Reg) (b : OpB) (c : Reg)
  | madw (g : Guard) (t : I32Ty) (d a : Reg) (b : OpB) (c : Reg)
  | min (g : Guard) (t : IntTy) (d a : Reg) (b : OpB)
  | max (g : Guard) (t : IntTy) (d a : Reg) (b : OpB)
  | abs (g : Guard) (t : SgnTy) (d a : Reg)
  | neg (g : Guard) (t : SgnTy) (d a : Reg)
  | lea (g : Guard) (t : NatTy) (d a : Reg) (b : OpB) (sh : BitVec 3)
  | and (g : Guard) (t : BtTy) (d a : Reg) (b : OpB)
  | or (g : Guard) (t : BtTy) (d a : Reg) (b : OpB)
  | xor (g : Guard) (t : BtTy) (d a : Reg) (b : OpB)
  | not (g : Guard) (t : BtTy) (d a : Reg)
  | andn (g : Guard) (t : BtTy) (d a : Reg) (b : OpB)
  | shl (g : Guard) (t : BtTy) (d a : Reg) (b : OpB)
  | shr (g : Guard) (t : ShrTy) (d a : Reg) (b : OpB)
  | rot (g : Guard) (d a : Reg) (b : OpB)
  | popc (g : Guard) (t : BtTy) (d a : Reg)
  | clz (g : Guard) (t : BtTy) (d a : Reg)
  | brev (g : Guard) (d a : Reg)
  | bfe (g : Guard) (t : I32Ty) (d a : Reg) (b : OpB) (c : Reg)
  | bfi (g : Guard) (d a : Reg) (b : OpB) (c : Reg)
  | sel (g : Guard) (t : BtTy) (d a : Reg) (b : OpB) (c : PredNo)
  | mov (g : Guard) (t : BtTy) (d : Reg) (b : OpB)
  | setp (g : Guard) (test : SetpTest) (p : PredNo) (a : Reg) (b : OpB)
  | pand (g : Guard) (d a b : PredNo)
  | por (g : Guard) (d a b : PredNo)
  | pxor (g : Guard) (d a b : PredNo)
  | pandn (g : Guard) (d a b : PredNo)
  | pmov (g : Guard) (d a : PredNo)
  | pnot (g : Guard) (d a : PredNo)
  -- R82
  | fadd (g : Guard) (t : FTy) (rm : RM) (d a : Reg) (b : OpB)
  | fsub (g : Guard) (t : FTy) (rm : RM) (d a : Reg) (b : OpB)
  | fmul (g : Guard) (t : FTy) (rm : RM) (d a : Reg) (b : OpB)
  | fma (g : Guard) (t : FTy) (rm : RM) (d a : Reg) (b : OpB) (c : Reg)
  | fmin (g : Guard) (t : FTy) (d a : Reg) (b : OpB)
  | fmax (g : Guard) (t : FTy) (d a : Reg) (b : OpB)
  | fabs (g : Guard) (t : FTy) (d a : Reg)
  | fneg (g : Guard) (t : FTy) (d a : Reg)
  | fcsgn (g : Guard) (t : FTy) (d a : Reg) (b : OpB)
  | fscale (g : Guard) (rm : RM) (d a : Reg) (b : OpB)
  | fclamp (g : Guard) (t : FTy) (rm : RM) (d a : Reg) (b : OpB) (c : Reg)
  | frnd (g : Guard) (t : FTy) (rm : RM) (d a : Reg)
  | frcp (g : Guard) (rm : RM) (d a : Reg)
  | fsqrt (g : Guard) (rm : RM) (d a : Reg)
  | frsqrt (g : Guard) (rm : RM) (d a : Reg)
  | fexp2 (g : Guard) (rm : RM) (d a : Reg)
  | flog2 (g : Guard) (rm : RM) (d a : Reg)
  | fsin (g : Guard) (rm : RM) (d a : Reg)
  | fcos (g : Guard) (rm : RM) (d a : Reg)
  | fdot2 (g : Guard) (t : F16Ty) (rm : RM) (d a : Reg) (b : OpB) (c : Reg)
  | lmul (g : Guard) (t : LnTy) (rm : RM) (d a : Reg) (b : OpB)
  | lmac (g : Guard) (t : LnTy) (rm : RM) (d a : Reg) (b : OpB) (c : Reg)
  | cvt (g : Guard) (dst src : CvtTy) (rm : RM) (d a : Reg)
  | cvtp (g : Guard) (t : F16Ty) (rm : RM) (d a : Reg) (b : OpB)
  | cvtx (g : Guard) (t : F16Ty) (rm : RM) (d a : Reg) (k : BitVec 1)
  | pk8 (g : Guard) (t : Pk8Ty) (rm : RM) (d a : Reg) (b : OpB) (h : BitVec 1)
  | unp8 (g : Guard) (t : Pk8Ty) (d a : Reg) (k : BitVec 2)
  | pk4 (g : Guard) (t : Pk4Ty) (rm : RM) (d a : Reg) (b : OpB) (h : BitVec 2)
  | unp4 (g : Guard) (t : Pk4Ty) (d a : Reg) (n : BitVec 3)
  | lenc (g : Guard) (t : LnTy) (d a : Reg)
  | ldec (g : Guard) (t : LnTy) (d a : Reg)
  | scal (g : Guard) (t : ScalTy) (d a : Reg)
  | perm (g : Guard) (d a : Reg) (b : OpB) (c : Reg)
  | prmt (g : Guard) (d a : Reg) (b : OpB) (c : Reg)
  | bswp (g : Guard) (d a : Reg)
  | bcmp (g : Guard) (c : Cond) (d a : Reg) (b : OpB)
  | bsub (g : Guard) (d a : Reg) (b : OpB)
  -- R83
  | openLine (g : Guard) (mode : OpenMode) (sc : BitVec 2) (l : BitVec 4) (p : PredNo) (h : BitVec 12) (a : Reg)
  | sopen (g : Guard) (l : BitVec 4) (p : PredNo) (a : Reg)
  | recallLine (g : Guard) (la : LineOp)
  | flush (g : Guard) (la : LineOp)
  | ld (g : Guard) (sz : Size) (d : Reg) (la : LineOp) (b : Reg) (off : BitVec 7)
  | st (g : Guard) (sz : Size) (la : LineOp) (b d : Reg) (off : BitVec 7)
  | lde (g : Guard) (t : ElTy) (d : Reg) (la : LineOp) (b : Reg) (off : BitVec 7)
  | ste (g : Guard) (t : ElTy) (la : LineOp) (b d : Reg) (off : BitVec 7)
  | atom (g : Guard) (op : AtomOp) (d : Reg) (la : LineOp) (b c : Reg)
  | red (g : Guard) (op : RedOp) (la : LineOp) (b d : Reg)
  | pfd (g : Guard) (h : BitVec 12) (a : Reg)
  -- R84
  | bra (g : Guard) (off : W32)
  | call (g : Guard) (off : W32)
  | callImport (g : Guard) (entry : BitVec 12)
  | callx (g : Guard) (a : Reg)
  | jmpx (g : Guard) (a : Reg)
  | ret (g : Guard) (a : Reg)
  | exit (g : Guard)
  | nop (g : Guard)
  | join (g : Guard) (p : PredNo) (b : OpB)
  | leave (g : Guard) (p : PredNo) (b : OpB)
  | tbar (g : Guard) (p : PredNo) (a : Reg) (b : OpB)
  | tred (g : Guard) (op : TredOp) (d a : Reg) (b : OpB)
  | tbcast (g : Guard) (d a : Reg) (b : OpB) (c : Reg)
  | shfl (g : Guard) (mode : ShflMode) (d a : Reg) (b : OpB) (c : PredNo)
  | vote (g : Guard) (dst : VoteDst) (a : PredNo)
  | matchLanes (g : Guard) (t : MatchTy) (d a : Reg)
  | confl (g : Guard) (d a : Reg)
  | cred (g : Guard) (op : CrOp) (d a : Reg)
  | cscan (g : Guard) (op : CrOp) (excl : Bool) (d a : Reg)
  | elect (g : Guard) (p : PredNo)
  -- R86
  | mma (g : Guard) (a : Reg)
  | mload (g : Guard) (a : Reg)
  | talloc (g : Guard) (t : BitVec 6) (a : Reg)
  | tfree (g : Guard) (t : BitVec 6)
  | tstat (g : Guard) (d : Reg) (t : BitVec 6)
  | copy (g : Guard) (a : Reg)
  | wait (g : Guard) (w : WaitSet)
  | sig (g : Guard) (t : NatTy) (la : LineOp) (b d : Reg)
  | sigw (g : Guard) (t : NatTy) (la : LineOp) (b d : Reg)
  | stkgive (g : Guard) (p : PredNo) (a : Reg) (b : OpB)
  | stkown (g : Guard) (p : PredNo) (a : Reg)
  | tmset (g : Guard) (a : Reg)
  | trap (g : Guard) (code : W32)
  | bkpt (g : Guard) (tag : W32)
  | rteRetry (g : Guard)
  | rteSkip (g : Guard)
  | rteExit (g : Guard)
  | mfs (g : Guard) (d : Reg) (sr : SReg)
  | mts (g : Guard) (sr : SReg) (a : Reg)
  | icinv (g : Guard) (a : Reg)
  | pfi (g : Guard) (a : Reg)
  | pause (g : Guard)
  | hld (g : Guard) (f : HldField) (d : Reg) (h : BitVec 12)
  | seamld (g : Guard) (a b : Reg)
  | xseam (g : Guard) (n : BitVec 6) (d a b c : Reg) (p : PredNo) (imm : W32)
  -- micro-ops, R208
  | uopEnd
  | uopAdd (q : QReg) (a b : Sel) (k : W32)
  | uopSub (q : QReg) (a b : Sel) (k : W32)
  | uopMul (q : QReg) (a b : Sel) (k : W32)
  | uopMad (q : QReg) (a b c : Sel) (k : W32)
  | uopAnd (q : QReg) (a b : Sel) (k : W32)
  | uopOr (q : QReg) (a b : Sel) (k : W32)
  | uopXor (q : QReg) (a b : Sel) (k : W32)
  | uopShl (q : QReg) (a b : Sel) (k : W32)
  | uopShr (arith : Bool) (q : QReg) (a b : Sel) (k : W32)
  | uopSel (q : QReg) (a b c : Sel) (k : W32)
  | uopCmp (t : UCmp) (q : QReg) (a b : Sel) (k : W32)
  | uopFadd (rm : RM) (q : QReg) (a b : Sel) (k : W32)
  | uopFmul (rm : RM) (q : QReg) (a b : Sel) (k : W32)
  | uopFma (rm : RM) (q : QReg) (a b c : Sel) (k : W32)
  | uopFmin (q : QReg) (a b : Sel) (k : W32)
  | uopFmax (q : QReg) (a b : Sel) (k : W32)
  | uopLmul (t : LnTy) (q : QReg) (a b : Sel) (k : W32)
  | uopLtab (t : LnTy) (el : BitVec 2) (q : QReg) (a : Sel) (k : W32)
  | uopCvt (f : UCvt) (q : QReg) (a b : Sel) (k : W32)
  | uopPack (f : UPack) (rm : RM) (q : QReg) (a b : Sel) (k : W32)
  | uopLld (q : QReg) (a : Sel) (off : BitVec 7) (la : LineOp)
  | uopLst (a b : Sel) (off : BitVec 7) (la : LineOp)
  | uopShfl (mode : ShflMode) (q : QReg) (a b : Sel) (k : W32)
  | uopBrf (z : Bool) (a : Sel) (t : BitVec 6)
  | uopLoop (bounded : Bool) (a : Sel) (last : BitVec 6) (cnt : BitVec 5)
  | uopWr (t : UWr) (a : Sel) (k : W32)
  -- steps of slots, line store and homes
  | parkedHandlerEntry (core slot : Nat)
  | haltReachesMember (core parked member : Nat)
  | timerTrap (core slot : Nat)
  | pauseExpiry (core slot : Nat)
  | exitRetire (core slot : Nat)
  | fillArrives (core frame : Nat)
  | abandonedFillArrives (core frame : Nat)
  | tokenWaitMet (core wid : Nat)
  | detectorFire (core : Nat)
  | instructionFetch (core slot : Nat) (again : Bool)
  | fillRead (id : Nat)
  | writeBack (id : Nat)
  | homeRead (id : Nat)
  | homeWrite (id : Nat)
  | atomicRequest (id : Nat)
  | reductionRequest (id : Nat)
  | sigRequest (id : Nat)
  | sigwRead (id : Nat)
  | sigwResend (id : Nat)
  | engineLineRead (core op line : Nat)
  | engineLineWrite (core op line : Nat)
  | walkRead (core wid : Nat)
  | sumDelivery (id : Nat)
  | requestEntryFree (id : Nat)
  | reply (id : Nat) (outer : Option (List Byte))
  -- links
  | windowAcknowledge (die agent seq : Nat)
  | flitReceive (m dir : Nat) (crcOk formOk : Bool)
  | retryRequest (m dir : Nat)
  | ackTimeout (m dir : Nat)
  | moduleRetrainComplete (m : Nat) (lowOk highOk : Bool)
  | handOverControl (stack : Nat)
  | handoverDrain (stack : Nat)
  | handoverClose (stack : Nat)
  | handoverSwitch (stack : Nat)
  | peerRequest (peer : Nat) (src : PeerSource) (seq pa : Nat) (op : OuterOp)
  | peerTimeout (id : Nat)
  | hostMemoryRead (chan seq pa : Nat) (op : OuterOp)
  | hostMemoryWrite (chan seq pa : Nat) (op : OuterOp)
  | hostRegisterRead (chan seq off : Nat)
  | hostRegisterWrite (off : Nat) (v : RegWrite)
  | dclLinkLoss
  -- platform
  | deviceReset (v : RegWrite)
  | msgbaseWrite (v : RegWrite)
  | msgidxConsWrite (v : RegWrite)
  | plimWrite (v : RegWrite)
  | tlimWrite (v : RegWrite)
  | dlineWrite (v : RegWrite)
  | powerOn
  | stackTraining (failed : Option Nat)
  | d2dTraining (lowBad highBad : List Nat)
  | knanosStart (moved : Option (BitVec 8))
  | thermalTrip (die : Nat)
  | fatalError (kind die part : Nat)
  | managementCoreTimeout (die : Nat)
  | registerLaunchQueue
  | registerContext
  | preEmpt
  | squallResetCommand
  | installObject (images : List (Nat × List W64))
  | importSwitch
  | writeDomainTable
  | moduleUp (lowOk highOk : Bool)
  | getVersion
  | getCapabilities
  | negotiateAlgorithms
  | getDigests
  | getCertificate
  | challenge
  | getMeasurements
  | spdmUnsupportedRequest
  | commandUnknown
  | commandReply
  | messageWrite
  -- scheduling
  | launchQueuePoll (queue : Nat)
  | launchRecordRead (queue : Nat)
  | quiesceMoves (lrec : Nat)
  | knanosBind (lrec core entry : Nat) (crews : List Nat) (macros : BitVec 16)
  | bindSetupDone (core entry : Nat)
  | powerThermalReading (power energy temp0 temp1 : Nat)
  | claim (core : Nat)
  | claimPerform (core entry : Nat)
  | claimReply (core entry : Nat)
  | preEmption (lrec : Nat)
  | deadlineExpiry (lrec : Nat)
  | unbind (core entry : Nat)
  | launchCounterZero (core entry : Nat)
  | preEmptionSave (lrec : Nat)
  | launchCompletion (lrec : Nat)
  | completionWordAdd (lrec : Nat)
  | completionMessage (lrec : Nat)
  | squallReset (ctx : Nat)
  | resetRecordWrite (ctx : Nat)
  | copyComplete (core op : Nat)
  | mloadComplete (core op : Nat)
  | mmaComplete (core op : Nat)
  | tfreeEffect (core op : Nat)
  | macroSelfTest (core mac : Nat) (good : Bool)
  | importAdopt (core ctx : Nat)
  | importSwitchComplete (ctx : Nat)
  | objectFree (ctx idx : Nat)
  | cmdpaWrite (v : RegWrite)
  | combinedRequestLeaves (core quad : Nat)
  | uncorrectableError (site : ErrorSite)
  | macroFenceClear (core mac : Nat)
  | dclRecovery (x8 : Bool)
  deriving DecidableEq, Repr, Inhabited

/-- What moves next: a quadrant's next bundle, the next micro-op of a slot's seam, a device step, or time. -/
inductive Turn where
  | issue (core quad : Nat)
  | uop (core slot : Nat)
  | event (i : Instr)
  | tick
  deriving DecidableEq, Repr, Inhabited

end Sys2Proof
end

