-- ==== Sys2Proof/WellFormed.lean ====
section
/-! DEFINITION. What an instruction must satisfy beyond its type: register pairs (R24, R79), immediates whose
reserved bits are zero (R80, R85), a guard that is not 0b1111 (R76), a `wait` that names a class (R86), and the
fields of micro-ops (R206 to R211). -/

namespace Sys2Proof

/-! How many registers an operand of a type names: two under a 64-bit type (R79). -/

def IntTy.wide : IntTy → Bool
  | .i32 | .n32 => false
  | .i64 | .n64 => true
def IntTy.cnt (t : IntTy) : Nat := if t.wide then 2 else 1
def SgnTy.cnt : SgnTy → Nat
  | .i32 => 1
  | .i64 => 2
def NatTy.cnt : NatTy → Nat
  | .n32 => 1
  | .n64 => 2
def BtTy.cnt : BtTy → Nat
  | .b32 => 1
  | .b64 => 2
def ShrTy.cnt : ShrTy → Nat
  | .b32 | .i32 | .n32 => 1
  | .b64 | .i64 | .n64 => 2
def I32Ty.cnt (_ : I32Ty) : Nat := 1
def CvtTy.cnt : CvtTy → Nat
  | .i64 | .n64 => 2
  | .i32 | .n32 | .fp32 | .fp16 | .bf16 => 1
def NumTy.cnt : NumTy → Nat
  | .int t => t.cnt
  | .fp32 => 1
def SetpTest.cnt : SetpTest → Nat
  | .int _ t => t.cnt
  | .bits _ t => t.cnt
  | .fp _ | .nan | .num => 1
def RedOp.cnt : RedOp → Nat
  | .arith _ t => t.cnt
  | .bits _ t => t.cnt
def AtomOp.cnt : AtomOp → Nat
  | .red o => o.cnt
  | .exch t | .cas t => t.cnt
/-- Registers of the operand `vC` of `atom`: twice the width for `cas` (R137). -/
def AtomOp.srcCnt : AtomOp → Nat
  | .red o => o.cnt
  | .exch t => t.cnt
  | .cas t => 2 * t.cnt
def TredOp.cnt : TredOp → Nat
  | .arith _ t => t.cnt
  | .bits _ => 1
def Size.cnt : Size → Nat
  | .b | .h | .w => 1
  | .d => 2
  | .x => 4
/-- Special registers of 64 bits name a pair (R31). -/
def SReg.cnt : SReg → Nat
  | .clock | .tcmp | .team | .tval => 2
  | .item | .lane | .crew | .quad | .core | .die | .age | .ostat | .tpc | .tcause => 1

/-- The registers that operand B names, if it is a register. -/
def OpB.uses : OpB → Nat → List (Reg × Nat)
  | .reg r, n => [(r, n)]
  | .imm _, _ => []
  | .lit _, _ => []

def VoteDst.uses (wide : Bool) : VoteDst → List (Reg × Nat)
  | .ball d => [(d, if wide then 2 else 1)]
  | .all _ | .any _ | .eq _ => []

/-- The general registers an instruction names: the first register of each operand and how many follow from it.
`wide` says that the width unit has 64 lanes, which widens lane masks (R165). `call` and `callx` write `v253` (R148).
An operand of n registers begins at a multiple of n (R79, R137). -/
def Instr.regUses (wide : Bool) : Instr → List (Reg × Nat)
  | .nopC => []
  | .movB32C d b => [(d, 1), (b, 1)]
  | .movB32Clit d _ => [(d, 1)]
  | .movB32Imm8C d _ => [(d, 1)]
  | .addI32C d a b => [(d, 1), (a, 1), (b, 1)]
  | .addI32Clit d a _ => [(d, 1), (a, 1)]
  | .addI32Imm8C d a _ => [(d, 1), (a, 1)]
  | .subI32C d a b => [(d, 1), (a, 1), (b, 1)]
  | .subI32Clit d a _ => [(d, 1), (a, 1)]
  | .mulI32C d a b => [(d, 1), (a, 1), (b, 1)]
  | .mulI32Clit d a _ => [(d, 1), (a, 1)]
  | .andB32C d a b => [(d, 1), (a, 1), (b, 1)]
  | .andB32Clit d a _ => [(d, 1), (a, 1)]
  | .andB32Imm8C d a _ => [(d, 1), (a, 1)]
  | .orB32C d a b => [(d, 1), (a, 1), (b, 1)]
  | .orB32Clit d a _ => [(d, 1), (a, 1)]
  | .xorB32C d a b => [(d, 1), (a, 1), (b, 1)]
  | .xorB32Clit d a _ => [(d, 1), (a, 1)]
  | .shlB32Imm8C d a _ => [(d, 1), (a, 1)]
  | .shrB32Imm8C d a _ => [(d, 1), (a, 1)]
  | .shrI32Imm8C d a _ => [(d, 1), (a, 1)]
  | .shlB32C d a b => [(d, 1), (a, 1), (b, 1)]
  | .shlB32Clit d a _ => [(d, 1), (a, 1)]
  | .shrB32C d a b => [(d, 1), (a, 1), (b, 1)]
  | .shrB32Clit d a _ => [(d, 1), (a, 1)]
  | .minI32C d a b => [(d, 1), (a, 1), (b, 1)]
  | .minI32Clit d a _ => [(d, 1), (a, 1)]
  | .maxI32C d a b => [(d, 1), (a, 1), (b, 1)]
  | .maxI32Clit d a _ => [(d, 1), (a, 1)]
  | .popcB32C d a => [(d, 1), (a, 1)]
  | .clzB32C d a => [(d, 1), (a, 1)]
  | .leaN32C d a b => [(d, 1), (a, 1), (b, 1)]
  | .leaN32Clit d a _ => [(d, 1), (a, 1)]
  | .faddFp32C d a b => [(d, 1), (a, 1), (b, 1)]
  | .faddFp32Clit d a _ => [(d, 1), (a, 1)]
  | .fmulFp32C d a b => [(d, 1), (a, 1), (b, 1)]
  | .fmulFp32Clit d a _ => [(d, 1), (a, 1)]
  | .fminFp32C d a b => [(d, 1), (a, 1), (b, 1)]
  | .fminFp32Clit d a _ => [(d, 1), (a, 1)]
  | .fmaxFp32C d a b => [(d, 1), (a, 1), (b, 1)]
  | .fmaxFp32Clit d a _ => [(d, 1), (a, 1)]
  | .faddBf16C d a b => [(d, 1), (a, 1), (b, 1)]
  | .faddBf16Clit d a _ => [(d, 1), (a, 1)]
  | .fmulBf16C d a b => [(d, 1), (a, 1), (b, 1)]
  | .fmulBf16Clit d a _ => [(d, 1), (a, 1)]
  | .cvtFp32I32C d a => [(d, 1), (a, 1)]
  | .cvtI32Fp32C d a => [(d, 1), (a, 1)]
  | .setpEqB32C _ a b => [(a, 1), (b, 1)]
  | .setpEqB32Clit _ a _ => [(a, 1)]
  | .setpNeB32C _ a b => [(a, 1), (b, 1)]
  | .setpNeB32Clit _ a _ => [(a, 1)]
  | .setpLtI32C _ a b => [(a, 1), (b, 1)]
  | .setpLtI32Clit _ a _ => [(a, 1)]
  | .setpGeI32C _ a b => [(a, 1), (b, 1)]
  | .setpGeI32Clit _ a _ => [(a, 1)]
  | .setpLtN32C _ a b => [(a, 1), (b, 1)]
  | .setpLtN32Clit _ a _ => [(a, 1)]
  | .setpGeN32C _ a b => [(a, 1), (b, 1)]
  | .setpGeN32Clit _ a _ => [(a, 1)]
  | .setpLtFp32C _ a b => [(a, 1), (b, 1)]
  | .setpLtFp32Clit _ a _ => [(a, 1)]
  | .setpGeFp32C _ a b => [(a, 1), (b, 1)]
  | .setpGeFp32Clit _ a _ => [(a, 1)]
  | .pandC _ _ _ => []
  | .porC _ _ _ => []
  | .pxorC _ _ _ => []
  | .pandnC _ _ _ => []
  | .pmovC _ _ => []
  | .pnotC _ _ => []
  | .ldBC d _ b => [(d, 1), (b, 1)]
  | .ldHC d _ b => [(d, 1), (b, 1)]
  | .ldWC d _ b => [(d, 1), (b, 1)]
  | .ldDC d _ b => [(d, 2), (b, 1)]
  | .stBC _ b d => [(b, 1), (d, 1)]
  | .stHC _ b d => [(b, 1), (d, 1)]
  | .stWC _ b d => [(b, 1), (d, 1)]
  | .stDC _ b d => [(b, 1), (d, 2)]
  | .recallC _ => []
  | .flushC _ => []
  | .exitC => []
  | .retC a => [(a, 1)]
  | .voteAnyC _ _ => []
  | .voteAllC _ _ => []
  | .voteBallC d _ => [(d, (if wide then 2 else 1))]
  | .electC _ => []
  | .shflIdxC d a b => [(d, 1), (a, 1), (b, 1)]
  | .shflXorC d a _ => [(d, 1), (a, 1)]
  | .mfsC d sr => [(d, sr.cnt)]
  | .pauseC => []
  | .illegalInstruction _ => []
  | .add _ t d a b => [(d, t.cnt), (a, t.cnt)] ++ b.uses t.cnt
  | .sub _ t d a b => [(d, t.cnt), (a, t.cnt)] ++ b.uses t.cnt
  | .mul _ t d a b => [(d, t.cnt), (a, t.cnt)] ++ b.uses t.cnt
  | .mulhi _ _ d a b => [(d, 1), (a, 1)] ++ b.uses 1
  | .mad _ t d a b c => [(d, t.cnt), (a, t.cnt), (c, t.cnt)] ++ b.uses t.cnt
  | .madw _ _ d a b c => [(d, 2), (a, 1), (c, 2)] ++ b.uses 1
  | .min _ t d a b => [(d, t.cnt), (a, t.cnt)] ++ b.uses t.cnt
  | .max _ t d a b => [(d, t.cnt), (a, t.cnt)] ++ b.uses t.cnt
  | .abs _ t d a => [(d, t.cnt), (a, t.cnt)]
  | .neg _ t d a => [(d, t.cnt), (a, t.cnt)]
  | .lea _ t d a b _ => [(d, t.cnt), (a, t.cnt)] ++ b.uses t.cnt
  | .and _ t d a b => [(d, t.cnt), (a, t.cnt)] ++ b.uses t.cnt
  | .or _ t d a b => [(d, t.cnt), (a, t.cnt)] ++ b.uses t.cnt
  | .xor _ t d a b => [(d, t.cnt), (a, t.cnt)] ++ b.uses t.cnt
  | .not _ t d a => [(d, t.cnt), (a, t.cnt)]
  | .andn _ t d a b => [(d, t.cnt), (a, t.cnt)] ++ b.uses t.cnt
  | .shl _ t d a b => [(d, t.cnt), (a, t.cnt)] ++ b.uses t.cnt
  | .shr _ t d a b => [(d, t.cnt), (a, t.cnt)] ++ b.uses t.cnt
  | .rot _ d a b => [(d, 1), (a, 1)] ++ b.uses 1
  | .popc _ t d a => [(d, t.cnt), (a, t.cnt)]
  | .clz _ t d a => [(d, t.cnt), (a, t.cnt)]
  | .brev _ d a => [(d, 1), (a, 1)]
  | .bfe _ _ d a b c => [(d, 1), (a, 1), (c, 1)] ++ b.uses 1
  | .bfi _ d a b c => [(d, 1), (a, 1), (c, 1)] ++ b.uses 1
  | .sel _ t d a b _ => [(d, t.cnt), (a, t.cnt)] ++ b.uses t.cnt
  | .mov _ t d b => [(d, t.cnt)] ++ b.uses t.cnt
  | .setp _ test _ a b => [(a, test.cnt)] ++ b.uses test.cnt
  | .pand _ _ _ _ => []
  | .por _ _ _ _ => []
  | .pxor _ _ _ _ => []
  | .pandn _ _ _ _ => []
  | .pmov _ _ _ => []
  | .pnot _ _ _ => []
  | .fadd _ _ _ d a b => [(d, 1), (a, 1)] ++ b.uses 1
  | .fsub _ _ _ d a b => [(d, 1), (a, 1)] ++ b.uses 1
  | .fmul _ _ _ d a b => [(d, 1), (a, 1)] ++ b.uses 1
  | .fma _ _ _ d a b c => [(d, 1), (a, 1), (c, 1)] ++ b.uses 1
  | .fmin _ _ d a b => [(d, 1), (a, 1)] ++ b.uses 1
  | .fmax _ _ d a b => [(d, 1), (a, 1)] ++ b.uses 1
  | .fabs _ _ d a => [(d, 1), (a, 1)]
  | .fneg _ _ d a => [(d, 1), (a, 1)]
  | .fcsgn _ _ d a b => [(d, 1), (a, 1)] ++ b.uses 1
  | .fscale _ _ d a b => [(d, 1), (a, 1)] ++ b.uses 1
  | .fclamp _ _ _ d a b c => [(d, 1), (a, 1), (c, 1)] ++ b.uses 1
  | .frnd _ _ _ d a => [(d, 1), (a, 1)]
  | .frcp _ _ d a => [(d, 1), (a, 1)]
  | .fsqrt _ _ d a => [(d, 1), (a, 1)]
  | .frsqrt _ _ d a => [(d, 1), (a, 1)]
  | .fexp2 _ _ d a => [(d, 1), (a, 1)]
  | .flog2 _ _ d a => [(d, 1), (a, 1)]
  | .fsin _ _ d a => [(d, 1), (a, 1)]
  | .fcos _ _ d a => [(d, 1), (a, 1)]
  | .fdot2 _ _ _ d a b c => [(d, 1), (a, 1), (c, 1)] ++ b.uses 1
  | .lmul _ _ _ d a b => [(d, 1), (a, 1)] ++ b.uses 1
  | .lmac _ _ _ d a b c => [(d, 1), (a, 1), (c, 1)] ++ b.uses 1
  | .cvt _ dst src _ d a => [(d, dst.cnt), (a, src.cnt)]
  | .cvtp _ _ _ d a b => [(d, 1), (a, 1)] ++ b.uses 1
  | .cvtx _ _ _ d a _ => [(d, 1), (a, 1)]
  | .pk8 _ _ _ d a b _ => [(d, 1), (a, 1)] ++ b.uses 1
  | .unp8 _ _ d a _ => [(d, 1), (a, 1)]
  | .pk4 _ _ _ d a b _ => [(d, 1), (a, 1)] ++ b.uses 1
  | .unp4 _ _ d a _ => [(d, 1), (a, 1)]
  | .lenc _ _ d a => [(d, 1), (a, 1)]
  | .ldec _ _ d a => [(d, 1), (a, 1)]
  | .scal _ _ d a => [(d, 1), (a, 1)]
  | .perm _ d a b c => [(d, 1), (a, 2), (c, 2)] ++ b.uses 1
  | .prmt _ d a b c => [(d, 1), (a, 1), (c, 1)] ++ b.uses 1
  | .bswp _ d a => [(d, 1), (a, 1)]
  | .bcmp _ _ d a b => [(d, 1), (a, 1)] ++ b.uses 1
  | .bsub _ d a b => [(d, 1), (a, 1)] ++ b.uses 1
  | .openLine _ _ _ _ _ _ a => [(a, 1)]
  | .sopen _ _ _ a => [(a, 1)]
  | .recallLine _ _ => []
  | .flush _ _ => []
  | .ld _ sz d _ b _ => [(d, sz.cnt), (b, 1)]
  | .st _ sz _ b d _ => [(b, 1), (d, sz.cnt)]
  | .lde _ _ d _ b _ => [(d, 1), (b, 1)]
  | .ste _ _ _ b d _ => [(b, 1), (d, 1)]
  | .atom _ op d _ b c => [(d, op.cnt), (b, 1), (c, op.srcCnt)]
  | .red _ op _ b d => [(b, 1), (d, op.cnt)]
  | .pfd _ _ a => [(a, 1)]
  | .bra _ _ => []
  | .call _ _ => [(253, 1)]
  | .callImport _ _ => [(253, 1)]
  | .callx _ a => [(a, 1), (253, 1)]
  | .jmpx _ a => [(a, 1)]
  | .ret _ a => [(a, 1)]
  | .exit _ => []
  | .nop _ => []
  | .join _ _ b => b.uses 1
  | .leave _ _ b => b.uses 1
  | .tbar _ _ a b => [(a, 1)] ++ b.uses 1
  | .tred _ op d a b => [(d, op.cnt), (a, op.cnt)] ++ b.uses 1
  | .tbcast _ d a b c => [(d, 1), (a, 1), (c, 1)] ++ b.uses 1
  | .shfl _ _ d a b _ => [(d, 1), (a, 1)] ++ b.uses 1
  | .vote _ dst _ => dst.uses wide
  | .matchLanes _ _ d a => [(d, (if wide then 2 else 1)), (a, 1)]
  | .confl _ d a => [(d, (if wide then 2 else 1)), (a, 1)]
  | .cred _ _ d a => [(d, 1), (a, 1)]
  | .cscan _ _ _ d a => [(d, 1), (a, 1)]
  | .elect _ _ => []
  | .mma _ a => [(a, 1)]
  | .mload _ a => [(a, 1)]
  | .talloc _ _ a => [(a, 2)]
  | .tfree _ _ => []
  | .tstat _ d _ => [(d, 2)]
  | .copy _ a => [(a, 1)]
  | .wait _ _ => []
  | .sig _ t _ b d => [(b, 1), (d, t.cnt)]
  | .sigw _ t _ b d => [(b, 1), (d, t.cnt)]
  | .stkgive _ _ a b => [(a, 1)] ++ b.uses 1
  | .stkown _ _ a => [(a, 1)]
  | .tmset _ a => [(a, 2)]
  | .trap _ _ => []
  | .bkpt _ _ => []
  | .rteRetry _ => []
  | .rteSkip _ => []
  | .rteExit _ => []
  | .mfs _ d sr => [(d, sr.cnt)]
  | .mts _ sr a => [(a, sr.cnt)]
  | .icinv _ a => [(a, 1)]
  | .pfi _ a => [(a, 1)]
  | .pause _ => []
  | .hld _ _ d _ => [(d, 2)]
  | .seamld _ a b => [(a, 1), (b, 1)]
  | .xseam _ _ d a b c _ _ => [(d, 2), (a, 1), (b, 1), (c, 1)]  | _ => []

/-- Every operand of n registers begins at a multiple of n: what can be said of detail REGISTER without the slot. -/
def Instr.regsAligned (i : Instr) : Bool := (i.regUses false).all fun u => u.1.toNat % u.2 == 0

/-- A guard other than 0b1111 (R76). -/
def Guard.ok (g : Guard) : Bool := !(g.neg && g.p == 7)

/-- A 32-bit operand B given by the literal has literal bits 63:32 zero (R80). -/
def OpB.ok (b : OpB) (n : Nat) : Bool :=
  match b with
  | .reg _ | .imm _ => true
  | .lit v => n == 2 || v >>> 32 == 0

/-- The special registers that `mts` accepts (R31). -/
def SReg.writable : SReg → Bool
  | .tcmp | .tpc | .tcause | .tval => true
  | .item | .lane | .crew | .quad | .core | .die | .age | .clock | .team | .ostat => false

/-- Of the variants of the micro-op `cvt`, only `fscale` reads SB. -/
def UCvt.usesB : UCvt → Bool
  | .fscale _ => true
  | .i32fp32 _ | .fp32i32 _ | .n32fp32 _ | .fp32n32 _ | .lenc6 | .lenc12 | .scal6 => false

/-- K is zero unless a source select names it (R206, R207). -/
def kOk (k : W32) (sels : List Sel) : Bool := k == 0 || sels.contains 14

/-- Operands of micro-ops (R206 to R211), of immediates (R80, R85) and of `wait` (R86). -/
def Instr.fieldsOk : Instr → Bool
  | .add g t _ _ b => g.ok && b.ok t.cnt
  | .sub g t _ _ b => g.ok && b.ok t.cnt
  | .mul g t _ _ b => g.ok && b.ok t.cnt
  | .mulhi g _ _ _ b => g.ok && b.ok 1
  | .mad g t _ _ b _ => g.ok && b.ok t.cnt
  | .madw g _ _ _ b _ => g.ok && b.ok 1
  | .min g t _ _ b => g.ok && b.ok t.cnt
  | .max g t _ _ b => g.ok && b.ok t.cnt
  | .abs g _ _ _ => g.ok
  | .neg g _ _ _ => g.ok
  | .lea g t _ _ b _ => g.ok && b.ok t.cnt
  | .and g t _ _ b => g.ok && b.ok t.cnt
  | .or g t _ _ b => g.ok && b.ok t.cnt
  | .xor g t _ _ b => g.ok && b.ok t.cnt
  | .not g _ _ _ => g.ok
  | .andn g t _ _ b => g.ok && b.ok t.cnt
  | .shl g t _ _ b => g.ok && b.ok t.cnt
  | .shr g t _ _ b => g.ok && b.ok t.cnt
  | .rot g _ _ b => g.ok && b.ok 1
  | .popc g _ _ _ => g.ok
  | .clz g _ _ _ => g.ok
  | .brev g _ _ => g.ok
  | .bfe g _ _ _ b _ => g.ok && b.ok 1
  | .bfi g _ _ b _ => g.ok && b.ok 1
  | .sel g t _ _ b _ => g.ok && b.ok t.cnt
  | .mov g t _ b => g.ok && b.ok t.cnt
  | .setp g test _ _ b => g.ok && b.ok test.cnt
  | .pand g _ _ _ => g.ok
  | .por g _ _ _ => g.ok
  | .pxor g _ _ _ => g.ok
  | .pandn g _ _ _ => g.ok
  | .pmov g _ _ => g.ok
  | .pnot g _ _ => g.ok
  | .fadd g _ _ _ _ b => g.ok && b.ok 1
  | .fsub g _ _ _ _ b => g.ok && b.ok 1
  | .fmul g _ _ _ _ b => g.ok && b.ok 1
  | .fma g _ _ _ _ b _ => g.ok && b.ok 1
  | .fmin g _ _ _ b => g.ok && b.ok 1
  | .fmax g _ _ _ b => g.ok && b.ok 1
  | .fabs g _ _ _ => g.ok
  | .fneg g _ _ _ => g.ok
  | .fcsgn g _ _ _ b => g.ok && b.ok 1
  | .fscale g _ _ _ b => g.ok && b.ok 1
  | .fclamp g _ _ _ _ b _ => g.ok && b.ok 1
  | .frnd g _ _ _ _ => g.ok
  | .frcp g _ _ _ => g.ok
  | .fsqrt g _ _ _ => g.ok
  | .frsqrt g _ _ _ => g.ok
  | .fexp2 g _ _ _ => g.ok
  | .flog2 g _ _ _ => g.ok
  | .fsin g _ _ _ => g.ok
  | .fcos g _ _ _ => g.ok
  | .fdot2 g _ _ _ _ b _ => g.ok && b.ok 1
  | .lmul g _ _ _ _ b => g.ok && b.ok 1
  | .lmac g _ _ _ _ b _ => g.ok && b.ok 1
  | .cvt g dst src _ _ _ => g.ok && dst != src
  | .cvtp g _ _ _ _ b => g.ok && b.ok 1
  | .cvtx g _ _ _ _ _ => g.ok
  | .pk8 g _ _ _ _ b _ => g.ok && b.ok 1
  | .unp8 g _ _ _ _ => g.ok
  | .pk4 g _ _ _ _ b _ => g.ok && b.ok 1
  | .unp4 g _ _ _ _ => g.ok
  | .lenc g _ _ _ => g.ok
  | .ldec g _ _ _ => g.ok
  | .scal g _ _ _ => g.ok
  | .perm g _ _ b _ => g.ok && b.ok 1
  | .prmt g _ _ b _ => g.ok && b.ok 1
  | .bswp g _ _ => g.ok
  | .bcmp g _ _ _ b => g.ok && b.ok 1
  | .bsub g _ _ b => g.ok && b.ok 1
  | .openLine g _ _ _ _ _ _ => g.ok
  | .sopen g _ _ _ => g.ok
  | .recallLine g _ => g.ok
  | .flush g _ => g.ok
  | .ld g _ _ _ _ _ => g.ok
  | .st g _ _ _ _ _ => g.ok
  | .lde g _ _ _ _ _ => g.ok
  | .ste g _ _ _ _ _ => g.ok
  | .atom g _ _ _ _ _ => g.ok
  | .red g _ _ _ _ => g.ok
  | .pfd g _ _ => g.ok
  | .bra g off => g.ok && (off &&& 3) == 0
  | .call g off => g.ok && (off &&& 3) == 0
  | .callImport g _ => g.ok
  | .callx g _ => g.ok
  | .jmpx g _ => g.ok
  | .ret g _ => g.ok
  | .exit g => g.ok
  | .nop g => g.ok
  | .join g _ b => g.ok && b.ok 1
  | .leave g _ b => g.ok && b.ok 1
  | .tbar g _ _ b => g.ok && b.ok 1
  | .tred g _ _ _ b => g.ok && b.ok 1
  | .tbcast g _ _ b _ => g.ok && b.ok 1
  | .shfl g _ _ _ b _ => g.ok && b.ok 1
  | .vote g _ _ => g.ok
  | .matchLanes g _ _ _ => g.ok
  | .confl g _ _ => g.ok
  | .cred g _ _ _ => g.ok
  | .cscan g _ _ _ _ => g.ok
  | .elect g _ => g.ok
  | .mma g _ => g.ok
  | .mload g _ => g.ok
  | .talloc g _ _ => g.ok
  | .tfree g _ => g.ok
  | .tstat g _ _ => g.ok
  | .copy g _ => g.ok
  | .wait g w => g.ok && (w.o.isSome || w.h.isSome || w.c.isSome || w.m.isSome || w.s.isSome)
  | .sig g _ _ _ _ => g.ok
  | .sigw g _ _ _ _ => g.ok
  | .stkgive g _ _ b => g.ok && b.ok 1
  | .stkown g _ _ => g.ok
  | .tmset g _ => g.ok
  | .trap g _ => g.ok
  | .bkpt g _ => g.ok
  | .rteRetry g => g.ok
  | .rteSkip g => g.ok
  | .rteExit g => g.ok
  | .mfs g _ _ => g.ok
  | .mts g sr _ => g.ok && sr.writable
  | .icinv g _ => g.ok
  | .pfi g _ => g.ok
  | .pause g => g.ok
  | .hld g _ _ _ => g.ok
  | .seamld g _ _ => g.ok
  | .xseam g _ _ _ _ _ _ _ => g.ok
  | .uopAdd _ a b k => kOk k [a, b]
  | .uopSub _ a b k => kOk k [a, b]
  | .uopMul _ a b k => kOk k [a, b]
  | .uopMad _ a b c k => kOk k [a, b, c]
  | .uopAnd _ a b k => kOk k [a, b]
  | .uopOr _ a b k => kOk k [a, b]
  | .uopXor _ a b k => kOk k [a, b]
  | .uopShl _ a b k => kOk k [a, b]
  | .uopShr _ _ a b k => kOk k [a, b]
  | .uopSel _ a b c k => kOk k [a, b, c]
  | .uopCmp _ _ a b k => kOk k [a, b]
  | .uopFadd _ _ a b k => kOk k [a, b]
  | .uopFmul _ _ a b k => kOk k [a, b]
  | .uopFma _ _ a b c k => kOk k [a, b, c]
  | .uopFmin _ a b k => kOk k [a, b]
  | .uopFmax _ a b k => kOk k [a, b]
  | .uopLmul _ _ a b k => kOk k [a, b]
  | .uopLtab t el _ a k => kOk k [a] && (t == .lns6 || el.toNat <= 1)
  | .uopCvt f _ a b k => (f.usesB || b == 0) && kOk k (if f.usesB then [a, b] else [a])
  | .uopPack _ _ _ a b k => kOk k [a, b]
  | .uopShfl _ _ a b k => kOk k [a, b]
  | .uopLoop bounded a _ cnt => (bounded || a == 0) && 1 <= cnt.toNat && cnt.toNat <= 16
  | .uopWr _ a k => kOk k [a]
  | _ => true

/-- A well-formed instruction: one whose encoding is no illegal instruction for reasons of its own words
(R76, R79, R80, R85, R86, R206 to R211). -/
def Instr.wf (i : Instr) : Bool := i.fieldsOk && i.regsAligned

end Sys2Proof
end

