-- ==== Sys2Proof/Decode.lean ====
section
/-! DEFINITION. Decoding, total on any bytes and refusing with the detail code of R89, and encoding. Both go through
the fields of the C form (R72) and of the X form (R75); micro-ops go through those of R206. -/

namespace Sys2Proof

/-! Type codes (R78), set by set, and their numbers. -/

def IntTy.ofCode (c : BitVec 5) : Option IntTy :=
  match c.toNat with
  | 0x08 => some .i32
  | 0x0C => some .n32
  | 0x09 => some .i64
  | 0x0D => some .n64
  | _ => none
def IntTy.code : IntTy → BitVec 5
  | .i32 => 0x08
  | .n32 => 0x0C
  | .i64 => 0x09
  | .n64 => 0x0D
def I32Ty.ofCode (c : BitVec 5) : Option I32Ty :=
  match c.toNat with
  | 0x08 => some .i32
  | 0x0C => some .n32
  | _ => none
def I32Ty.code : I32Ty → BitVec 5
  | .i32 => 0x08
  | .n32 => 0x0C
def SgnTy.ofCode (c : BitVec 5) : Option SgnTy :=
  match c.toNat with
  | 0x08 => some .i32
  | 0x09 => some .i64
  | _ => none
def SgnTy.code : SgnTy → BitVec 5
  | .i32 => 0x08
  | .i64 => 0x09
def NatTy.ofCode (c : BitVec 5) : Option NatTy :=
  match c.toNat with
  | 0x0C => some .n32
  | 0x0D => some .n64
  | _ => none
def NatTy.code : NatTy → BitVec 5
  | .n32 => 0x0C
  | .n64 => 0x0D
def BtTy.ofCode (c : BitVec 5) : Option BtTy :=
  match c.toNat with
  | 0x03 => some .b32
  | 0x04 => some .b64
  | _ => none
def BtTy.code : BtTy → BitVec 5
  | .b32 => 0x03
  | .b64 => 0x04
def ShrTy.ofCode (c : BitVec 5) : Option ShrTy :=
  match c.toNat with
  | 0x03 => some .b32
  | 0x04 => some .b64
  | 0x08 => some .i32
  | 0x0C => some .n32
  | 0x09 => some .i64
  | 0x0D => some .n64
  | _ => none
def ShrTy.code : ShrTy → BitVec 5
  | .b32 => 0x03
  | .b64 => 0x04
  | .i32 => 0x08
  | .n32 => 0x0C
  | .i64 => 0x09
  | .n64 => 0x0D
def FTy.ofCode (c : BitVec 5) : Option FTy :=
  match c.toNat with
  | 0x0E => some .fp32
  | 0x0F => some .fp16
  | 0x10 => some .bf16
  | _ => none
def FTy.code : FTy → BitVec 5
  | .fp32 => 0x0E
  | .fp16 => 0x0F
  | .bf16 => 0x10
def F16Ty.ofCode (c : BitVec 5) : Option F16Ty :=
  match c.toNat with
  | 0x0F => some .fp16
  | 0x10 => some .bf16
  | _ => none
def F16Ty.code : F16Ty → BitVec 5
  | .fp16 => 0x0F
  | .bf16 => 0x10
def LnTy.ofCode (c : BitVec 5) : Option LnTy :=
  match c.toNat with
  | 0x14 => some .lns6
  | 0x15 => some .lns12
  | _ => none
def LnTy.code : LnTy → BitVec 5
  | .lns6 => 0x14
  | .lns12 => 0x15
def CvtTy.ofCode (c : BitVec 5) : Option CvtTy :=
  match c.toNat with
  | 0x08 => some .i32
  | 0x0C => some .n32
  | 0x09 => some .i64
  | 0x0D => some .n64
  | 0x0E => some .fp32
  | 0x0F => some .fp16
  | 0x10 => some .bf16
  | _ => none
def CvtTy.code : CvtTy → BitVec 5
  | .i32 => 0x08
  | .n32 => 0x0C
  | .i64 => 0x09
  | .n64 => 0x0D
  | .fp32 => 0x0E
  | .fp16 => 0x0F
  | .bf16 => 0x10
def Pk8Ty.ofCode (c : BitVec 5) : Option Pk8Ty :=
  match c.toNat with
  | 0x11 => some .fp8e4
  | 0x12 => some .fp8e5
  | 0x06 => some .i8
  | 0x0A => some .n8
  | _ => none
def Pk8Ty.code : Pk8Ty → BitVec 5
  | .fp8e4 => 0x11
  | .fp8e5 => 0x12
  | .i8 => 0x06
  | .n8 => 0x0A
def Pk4Ty.ofCode (c : BitVec 5) : Option Pk4Ty :=
  match c.toNat with
  | 0x13 => some .fp4
  | 0x05 => some .i4
  | _ => none
def Pk4Ty.code : Pk4Ty → BitVec 5
  | .fp4 => 0x13
  | .i4 => 0x05
def ScalTy.ofCode (c : BitVec 5) : Option ScalTy :=
  match c.toNat with
  | 0x14 => some .lns6
  | 0x13 => some .fp4
  | 0x11 => some .fp8e4
  | 0x12 => some .fp8e5
  | _ => none
def ScalTy.code : ScalTy → BitVec 5
  | .lns6 => 0x14
  | .fp4 => 0x13
  | .fp8e4 => 0x11
  | .fp8e5 => 0x12
def ElTy.ofCode (c : BitVec 5) : Option ElTy :=
  match c.toNat with
  | 0x0E => some .fp32
  | 0x0F => some .fp16
  | 0x10 => some .bf16
  | 0x08 => some .i32
  | _ => none
def ElTy.code : ElTy → BitVec 5
  | .fp32 => 0x0E
  | .fp16 => 0x0F
  | .bf16 => 0x10
  | .i32 => 0x08
def MatchTy.ofCode (c : BitVec 5) : Option MatchTy :=
  match c.toNat with
  | 0x03 => some .b32
  | 0x0E => some .fp32
  | _ => none
def MatchTy.code : MatchTy → BitVec 5
  | .b32 => 0x03
  | .fp32 => 0x0E
def Num32.ofCode (c : BitVec 5) : Option Num32 :=
  match c.toNat with
  | 0x08 => some .i32
  | 0x0C => some .n32
  | 0x0E => some .fp32
  | _ => none
def Num32.code : Num32 → BitVec 5
  | .i32 => 0x08
  | .n32 => 0x0C
  | .fp32 => 0x0E
/-- Special register numbers (R31). -/
def SReg.ofNumber (n : BitVec 8) : Option SReg :=
  match n.toNat with
  | 0x00 => some .item
  | 0x01 => some .lane
  | 0x02 => some .crew
  | 0x03 => some .quad
  | 0x04 => some .core
  | 0x05 => some .die
  | 0x06 => some .age
  | 0x07 => some .clock
  | 0x08 => some .tcmp
  | 0x09 => some .team
  | 0x0A => some .ostat
  | 0x0B => some .tpc
  | 0x0C => some .tcause
  | 0x0D => some .tval
  | _ => none
def SReg.number : SReg → BitVec 8
  | .item => 0x00
  | .lane => 0x01
  | .crew => 0x02
  | .quad => 0x03
  | .core => 0x04
  | .die => 0x05
  | .age => 0x06
  | .clock => 0x07
  | .tcmp => 0x08
  | .team => 0x09
  | .ostat => 0x0A
  | .tpc => 0x0B
  | .tcause => 0x0C
  | .tval => 0x0D

def RM.code : RM → BitVec 2
  | .rne => 0
  | .rz => 1
  | .ru => 2
  | .rd => 3
def rmOf (c : BitVec 2) : RM :=
  match c.toNat with
  | 0 => .rne
  | 1 => .rz
  | 2 => .ru
  | _ => .rd

/-! ## Fields and words -/

/-- The fields of a C form (R72), with its literal. -/
structure CFields where
  cop : BitVec 6
  d   : BitVec 8 := 0
  a   : BitVec 8 := 0
  b   : BitVec 8 := 0
  lit : Option W64 := none
  deriving DecidableEq, Repr

/-- The fields of an X form (R75, R77), with its literal. -/
structure XFields where
  xop : BitVec 10
  g   : Guard := .always
  d   : BitVec 8 := 0
  a   : BitVec 8 := 0
  b   : BitVec 8 := 0
  c   : BitVec 8 := 0
  xf  : BitVec 4 := 0
  op  : BitVec 4 := 0
  bi  : Bool := false
  rm  : BitVec 2 := 0
  ty  : BitVec 5 := 0
  imm : W32 := 0
  lit : Option W64 := none
  deriving DecidableEq, Repr

/-- An encoding as fields. -/
inductive Enc where
  | c (f : CFields)
  | x (f : XFields)
  deriving DecidableEq, Repr

/-- A literal's words, bits 31:0 first (R70). -/
def litWords : Option W64 → List W32
  | none => []
  | some v => [v.extractLsb' 0 32, v.extractLsb' 32 32]

/-- The words of an encoding (R70, R72, R75, R77). -/
def Enc.words : Enc → List W32
  | .c f => (f.b ++ f.a ++ f.d ++ f.cop ++ BitVec.ofBool false ++ BitVec.ofBool f.lit.isSome : BitVec 32) :: litWords f.lit
  | .x f =>
    (f.a ++ f.d ++ BitVec.ofBool f.g.neg ++ f.g.p ++ f.xop ++ BitVec.ofBool true ++ BitVec.ofBool f.lit.isSome : BitVec 32) ::
    (f.xf ++ f.op ++ BitVec.ofBool f.bi ++ f.rm ++ f.ty ++ f.c ++ f.b : BitVec 32) ::
    f.imm :: litWords f.lit

/-- The number of words of an encoding, by bits 1:0 of its first word (R70, R91). -/
def lengthWords (w0 : W32) : Nat :=
  match (w0.extractLsb' 0 2).toNat with
  | 0 => 1
  | 1 => 3
  | 2 => 3
  | _ => 5

/-- A literal from its two words. -/
def litOf (lo hi : W32) : W64 := hi ++ lo

/-- The fields of an encoding whose words are at hand; `none` when words are missing. -/
def Enc.ofWords : List W32 → Option Enc
  | [] => none
  | w0 :: ws =>
    let cf (l : Option W64) : Enc :=
      .c ⟨w0.extractLsb' 2 6, w0.extractLsb' 8 8, w0.extractLsb' 16 8, w0.extractLsb' 24 8, l⟩
    let xf (w1 w2 : W32) (l : Option W64) : Enc :=
      .x ⟨w0.extractLsb' 2 10, ⟨w0.getLsbD 15, w0.extractLsb' 12 3⟩, w0.extractLsb' 16 8, w0.extractLsb' 24 8,
        w1.extractLsb' 0 8, w1.extractLsb' 8 8, w1.extractLsb' 28 4, w1.extractLsb' 24 4, w1.getLsbD 23,
        w1.extractLsb' 21 2, w1.extractLsb' 16 5, w2, l⟩
    match w0.getLsbD 1, w0.getLsbD 0, ws with
    | false, false, _ => some (cf none)
    | false, true, lo :: hi :: _ => some (cf (some (litOf lo hi)))
    | true, false, w1 :: w2 :: _ => some (xf w1 w2 none)
    | true, true, w1 :: w2 :: lo :: hi :: _ => some (xf w1 w2 (some (litOf lo hi)))
    | _, _, _ => none

/-- The little-endian bytes of words (R5). -/
def bytesOfWords : List W32 → List Byte
  | [] => []
  | w :: ws => w.extractLsb' 0 8 :: w.extractLsb' 8 8 :: w.extractLsb' 16 8 :: w.extractLsb' 24 8 :: bytesOfWords ws

/-- The words that bytes hold, whole words only. -/
def wordsOfBytes : List Byte → List W32
  | b0 :: b1 :: b2 :: b3 :: bs => (b3 ++ b2 ++ b1 ++ b0 : BitVec 32) :: wordsOfBytes bs
  | _ => []

/-! ## Operand fields (R79) -/

def isPred (x : BitVec 8) : Bool := x.extractLsb' 3 5 == 0
def predOf (x : BitVec 8) : PredNo := x.extractLsb' 0 3
def predField (p : PredNo) : BitVec 8 := (0 : BitVec 5) ++ p
def isTile (x : BitVec 8) : Bool := x.extractLsb' 6 2 == 0
/-- Bit 7 zero, and the way zero when W is 0. -/
def isLine (x : BitVec 8) : Bool := !x.getLsbD 7 && (x.getLsbD 6 || x.extractLsb' 4 2 == 0)
def lineOf (x : BitVec 8) : LineOp :=
  ⟨x.extractLsb' 0 4, if x.getLsbD 6 then some (x.extractLsb' 4 2) else none⟩
def lineField (l : LineOp) : BitVec 8 :=
  match l.way with
  | none => (0 : BitVec 4) ++ l.reg
  | some w => BitVec.ofBool false ++ BitVec.ofBool true ++ w ++ l.reg
def targetField (l : BitVec 4) (p : PredNo) : BitVec 8 := l ++ BitVec.ofBool false ++ p

def CFields.zA (f : CFields) : Bool := f.a == 0
def CFields.zB (f : CFields) : Bool := f.b == 0
def CFields.zD (f : CFields) : Bool := f.d == 0
def XFields.zA (f : XFields) : Bool := f.a == 0
def XFields.zB (f : XFields) : Bool := f.b == 0
def XFields.zC (f : XFields) : Bool := f.c == 0
def XFields.zD (f : XFields) : Bool := f.d == 0
def XFields.zI (f : XFields) : Bool := f.imm == 0

/-- Operand B as R80 reads it. -/
def XFields.opB (f : XFields) : OpB :=
  if f.bi then
    match f.lit with
    | some v => .lit v
    | none => .imm f.imm
  else .reg f.b

/-- The fields behind operand B are zero where R80 reserves them; `n` is the registers of the operand's type. -/
def XFields.bOk (f : XFields) (n : Nat) : Bool :=
  if f.bi then
    f.b == 0 &&
      match f.lit with
      | some v => f.imm == 0 && (n == 2 || v >>> 32 == 0)
      | none => true
  else f.imm == 0

/-- Puts operand B into the fields (R80). -/
def XFields.withB (f : XFields) : OpB → XFields
  | .reg r => { f with b := r }
  | .imm v => { f with bi := true, imm := v }
  | .lit v => { f with bi := true, lit := some v }

/-! ## Checks in the order of R89 -/

/-- MODIFIER, then RESERVED, then what REGISTER says of the instruction alone. -/
def chk (modOk resOk : Bool) (i : Instr) : Except Detail Instr :=
  if !modOk then .error .modifier
  else if !resOk then .error .reserved
  else if !i.regsAligned then .error .register
  else .ok i

/-- A type that the instruction does not define is MODIFIER. -/
def withTy {α : Type} (o : Option α) (k : α → Except Detail Instr) : Except Detail Instr :=
  match o with
  | none => .error .modifier
  | some t => k t

/-- A special register number not in R31 is REGISTER, after MODIFIER and RESERVED. -/
def withSReg (resOk : Bool) (n : BitVec 8) (k : SReg → Except Detail Instr) : Except Detail Instr :=
  if !resOk then .error .reserved
  else
    match SReg.ofNumber n with
    | none => .error .register
    | some s => k s

/-! ## The C form (R74) -/

/-- C form without literal. -/
def decodeC0 (f : CFields) : Except Detail Instr :=
  match f.cop.toNat with
  | 0x01 => chk true (f.zA && f.zB && f.zD) (.nopC)
  | 0x02 => chk true (f.zA) (.movB32C f.d f.b)
  | 0x03 => chk true (f.zA) (.movB32Imm8C f.d f.b)
  | 0x04 => chk true true (.addI32C f.d f.a f.b)
  | 0x05 => chk true true (.addI32Imm8C f.d f.a f.b)
  | 0x06 => chk true true (.subI32C f.d f.a f.b)
  | 0x07 => chk true true (.mulI32C f.d f.a f.b)
  | 0x08 => chk true true (.andB32C f.d f.a f.b)
  | 0x09 => chk true true (.andB32Imm8C f.d f.a f.b)
  | 0x0A => chk true true (.orB32C f.d f.a f.b)
  | 0x0B => chk true true (.xorB32C f.d f.a f.b)
  | 0x0C => chk true true (.shlB32Imm8C f.d f.a f.b)
  | 0x0D => chk true true (.shrB32Imm8C f.d f.a f.b)
  | 0x0E => chk true true (.shrI32Imm8C f.d f.a f.b)
  | 0x0F => chk true true (.shlB32C f.d f.a f.b)
  | 0x10 => chk true true (.shrB32C f.d f.a f.b)
  | 0x11 => chk true true (.minI32C f.d f.a f.b)
  | 0x12 => chk true true (.maxI32C f.d f.a f.b)
  | 0x13 => chk true (f.zB) (.popcB32C f.d f.a)
  | 0x14 => chk true (f.zB) (.clzB32C f.d f.a)
  | 0x15 => chk true true (.leaN32C f.d f.a f.b)
  | 0x16 => chk true true (.faddFp32C f.d f.a f.b)
  | 0x17 => chk true true (.fmulFp32C f.d f.a f.b)
  | 0x18 => chk true true (.fminFp32C f.d f.a f.b)
  | 0x19 => chk true true (.fmaxFp32C f.d f.a f.b)
  | 0x1A => chk true true (.faddBf16C f.d f.a f.b)
  | 0x1B => chk true true (.fmulBf16C f.d f.a f.b)
  | 0x1C => chk true (f.zB) (.cvtFp32I32C f.d f.a)
  | 0x1D => chk true (f.zB) (.cvtI32Fp32C f.d f.a)
  | 0x1E => chk true (isPred f.d) (.setpEqB32C (predOf f.d) f.a f.b)
  | 0x1F => chk true (isPred f.d) (.setpNeB32C (predOf f.d) f.a f.b)
  | 0x20 => chk true (isPred f.d) (.setpLtI32C (predOf f.d) f.a f.b)
  | 0x21 => chk true (isPred f.d) (.setpGeI32C (predOf f.d) f.a f.b)
  | 0x22 => chk true (isPred f.d) (.setpLtN32C (predOf f.d) f.a f.b)
  | 0x23 => chk true (isPred f.d) (.setpGeN32C (predOf f.d) f.a f.b)
  | 0x24 => chk true (isPred f.d) (.setpLtFp32C (predOf f.d) f.a f.b)
  | 0x25 => chk true (isPred f.d) (.setpGeFp32C (predOf f.d) f.a f.b)
  | 0x26 => chk true (isPred f.d && isPred f.a && isPred f.b) (.pandC (predOf f.d) (predOf f.a) (predOf f.b))
  | 0x27 => chk true (isPred f.d && isPred f.a && isPred f.b) (.porC (predOf f.d) (predOf f.a) (predOf f.b))
  | 0x28 => chk true (isPred f.d && isPred f.a && isPred f.b) (.pxorC (predOf f.d) (predOf f.a) (predOf f.b))
  | 0x29 => chk true (isPred f.d && isPred f.a && isPred f.b) (.pandnC (predOf f.d) (predOf f.a) (predOf f.b))
  | 0x2A => chk true (isPred f.d && isPred f.a && f.zB) (.pmovC (predOf f.d) (predOf f.a))
  | 0x2B => chk true (isPred f.d && isPred f.a && f.zB) (.pnotC (predOf f.d) (predOf f.a))
  | 0x2C => chk true (isLine f.a) (.ldBC f.d (lineOf f.a) f.b)
  | 0x2D => chk true (isLine f.a) (.ldHC f.d (lineOf f.a) f.b)
  | 0x2E => chk true (isLine f.a) (.ldWC f.d (lineOf f.a) f.b)
  | 0x2F => chk true (isLine f.a) (.ldDC f.d (lineOf f.a) f.b)
  | 0x30 => chk true (isLine f.a) (.stBC (lineOf f.a) f.b f.d)
  | 0x31 => chk true (isLine f.a) (.stHC (lineOf f.a) f.b f.d)
  | 0x32 => chk true (isLine f.a) (.stWC (lineOf f.a) f.b f.d)
  | 0x33 => chk true (isLine f.a) (.stDC (lineOf f.a) f.b f.d)
  | 0x34 => chk true (isLine f.a && f.zB && f.zD) (.recallC (lineOf f.a))
  | 0x35 => chk true (isLine f.a && f.zB && f.zD) (.flushC (lineOf f.a))
  | 0x36 => chk true (f.zA && f.zB && f.zD) (.exitC)
  | 0x37 => chk true (f.zB && f.zD) (.retC f.a)
  | 0x38 => chk true (isPred f.d && isPred f.a && f.zB) (.voteAnyC (predOf f.d) (predOf f.a))
  | 0x39 => chk true (isPred f.d && isPred f.a && f.zB) (.voteAllC (predOf f.d) (predOf f.a))
  | 0x3A => chk true (isPred f.a && f.zB) (.voteBallC f.d (predOf f.a))
  | 0x3B => chk true (isPred f.d && f.zA && f.zB) (.electC (predOf f.d))
  | 0x3C => chk true true (.shflIdxC f.d f.a f.b)
  | 0x3D => chk true true (.shflXorC f.d f.a f.b)
  | 0x3E => withSReg f.zB f.a fun sr => chk true true (.mfsC f.d sr)
  | 0x3F => chk true (f.zA && f.zB && f.zD) (.pauseC)
  | _ => .error .opcode

/-- C form with literal (R73): bits 63:32 are reserved, and a COP not marked "lit" is FORM. -/
def decodeCLit (f : CFields) (v : W64) : Except Detail Instr :=
  let lo : W32 := v.extractLsb' 0 32
  let hi : W32 := v.extractLsb' 32 32
  match f.cop.toNat with
  | 0x00 => .error .opcode
  | 0x02 => chk true (f.zA && f.zB && hi == 0) (.movB32Clit f.d lo)
  | 0x04 => chk true (f.zB && hi == 0) (.addI32Clit f.d f.a lo)
  | 0x06 => chk true (f.zB && hi == 0) (.subI32Clit f.d f.a lo)
  | 0x07 => chk true (f.zB && hi == 0) (.mulI32Clit f.d f.a lo)
  | 0x08 => chk true (f.zB && hi == 0) (.andB32Clit f.d f.a lo)
  | 0x0A => chk true (f.zB && hi == 0) (.orB32Clit f.d f.a lo)
  | 0x0B => chk true (f.zB && hi == 0) (.xorB32Clit f.d f.a lo)
  | 0x0F => chk true (f.zB && hi == 0) (.shlB32Clit f.d f.a lo)
  | 0x10 => chk true (f.zB && hi == 0) (.shrB32Clit f.d f.a lo)
  | 0x11 => chk true (f.zB && hi == 0) (.minI32Clit f.d f.a lo)
  | 0x12 => chk true (f.zB && hi == 0) (.maxI32Clit f.d f.a lo)
  | 0x15 => chk true (f.zB && hi == 0) (.leaN32Clit f.d f.a lo)
  | 0x16 => chk true (f.zB && hi == 0) (.faddFp32Clit f.d f.a lo)
  | 0x17 => chk true (f.zB && hi == 0) (.fmulFp32Clit f.d f.a lo)
  | 0x18 => chk true (f.zB && hi == 0) (.fminFp32Clit f.d f.a lo)
  | 0x19 => chk true (f.zB && hi == 0) (.fmaxFp32Clit f.d f.a lo)
  | 0x1A => chk true (f.zB && hi == 0) (.faddBf16Clit f.d f.a lo)
  | 0x1B => chk true (f.zB && hi == 0) (.fmulBf16Clit f.d f.a lo)
  | 0x1E => chk true (isPred f.d && f.zB && hi == 0) (.setpEqB32Clit (predOf f.d) f.a lo)
  | 0x1F => chk true (isPred f.d && f.zB && hi == 0) (.setpNeB32Clit (predOf f.d) f.a lo)
  | 0x20 => chk true (isPred f.d && f.zB && hi == 0) (.setpLtI32Clit (predOf f.d) f.a lo)
  | 0x21 => chk true (isPred f.d && f.zB && hi == 0) (.setpGeI32Clit (predOf f.d) f.a lo)
  | 0x22 => chk true (isPred f.d && f.zB && hi == 0) (.setpLtN32Clit (predOf f.d) f.a lo)
  | 0x23 => chk true (isPred f.d && f.zB && hi == 0) (.setpGeN32Clit (predOf f.d) f.a lo)
  | 0x24 => chk true (isPred f.d && f.zB && hi == 0) (.setpLtFp32Clit (predOf f.d) f.a lo)
  | 0x25 => chk true (isPred f.d && f.zB && hi == 0) (.setpGeFp32Clit (predOf f.d) f.a lo)
  | _ => .error .form

def decodeC (f : CFields) : Except Detail Instr :=
  match f.lit with
  | none => decodeC0 f
  | some v => decodeCLit f v

/-! ## The X form (R81 to R88) -/

/-- The assigned XOPs: those outside the ranges of R88. -/
def xopAssigned (n : Nat) : Bool :=
  !((0x00B ≤ n && n ≤ 0x00F) || (0x020 ≤ n && n ≤ 0x027) || (0x02E ≤ n && n ≤ 0x03F) || (0x054 ≤ n && n ≤ 0x057)
    || (0x05A ≤ n && n ≤ 0x05F) || (0x06A ≤ n && n ≤ 0x06F) || (0x075 ≤ n && n ≤ 0x07F) || (0x08B ≤ n && n ≤ 0x0BF)
    || (0x0CC ≤ n && n ≤ 0x0DF) || (0x0E7 ≤ n && n ≤ 0x0FF) || (0x10C ≤ n && n ≤ 0x11F) || (0x12A ≤ n && n ≤ 0x3BF))

/-- The XOPs whose operand B may be an immediate (B* in R81 to R86). -/
def xopStar (n : Nat) : Bool :=
  [0x000, 0x001, 0x002, 0x003, 0x004, 0x005, 0x006, 0x007, 0x00A, 0x010, 0x011, 0x012, 0x014, 0x015, 0x016, 0x017, 0x01B, 0x01C, 0x01D, 0x01E, 0x01F, 0x040, 0x041, 0x042, 0x043, 0x044, 0x045, 0x048, 0x049, 0x04A, 0x053, 0x058, 0x059, 0x061, 0x063, 0x065, 0x070, 0x071, 0x073, 0x074, 0x0C7, 0x0C8, 0x0C9, 0x0CA, 0x0CB, 0x0E0, 0x109].contains n

/-- Detail FORM (R80, R85, R88): a literal where none is defined, a literal with BI = 0, and `call` by import
without its literal. -/
def XFields.formBad (f : XFields) : Bool :=
  if f.xop.toNat == 0x0C1 then f.lit.isSome != (f.op == 1)
  else f.lit.isSome && !(xopStar f.xop.toNat && f.bi)

def Cond.ofCode (c : BitVec 4) : Option Cond :=
  match c.toNat with
  | 0 => some .eq
  | 1 => some .ne
  | 2 => some .lt
  | 3 => some .le
  | 4 => some .gt
  | 5 => some .ge
  | _ => none
def Cond.code : Cond → BitVec 4
  | .eq => 0
  | .ne => 1
  | .lt => 2
  | .le => 3
  | .gt => 4
  | .ge => 5

/-- Condition and type of `setp` (R81). -/
def SetpTest.ofCode (op : BitVec 4) (ty : BitVec 5) : Option SetpTest :=
  match IntTy.ofCode ty, BtTy.ofCode ty, Cond.ofCode op with
  | some t, _, some c => some (.int c t)
  | _, some t, some .eq => some (.bits false t)
  | _, some t, some .ne => some (.bits true t)
  | none, none, some c => if ty == 0x0E then some (.fp c) else none
  | none, none, none =>
    if ty == 0x0E && op == 6 then some .nan
    else if ty == 0x0E && op == 7 then some .num
    else none
  | _, _, _ => none
def SetpTest.op : SetpTest → BitVec 4
  | .int c _ | .fp c => c.code
  | .bits ne _ => if ne then 1 else 0
  | .nan => 6
  | .num => 7
def SetpTest.ty : SetpTest → BitVec 5
  | .int _ t => t.code
  | .bits _ t => t.code
  | .fp _ | .nan | .num => 0x0E

def ArithOp.ofCode (op : BitVec 4) : Option ArithOp :=
  match op.toNat with
  | 0 => some .add
  | 1 => some .min
  | 2 => some .max
  | _ => none
def ArithOp.code : ArithOp → BitVec 4
  | .add => 0
  | .min => 1
  | .max => 2
def BitOp.ofCode (op : BitVec 4) : Option BitOp :=
  match op.toNat with
  | 3 => some .and
  | 4 => some .or
  | 5 => some .xor
  | _ => none
def BitOp.code : BitOp → BitVec 4
  | .and => 3
  | .or => 4
  | .xor => 5
def NumTy.ofCode (ty : BitVec 5) : Option NumTy :=
  match IntTy.ofCode ty with
  | some t => some (.int t)
  | none => if ty == 0x0E then some .fp32 else none
def NumTy.code : NumTy → BitVec 5
  | .int t => t.code
  | .fp32 => 0x0E

/-- Operation and type of `red` (R83). -/
def RedOp.ofCode (op : BitVec 4) (ty : BitVec 5) : Option RedOp :=
  match ArithOp.ofCode op, BitOp.ofCode op with
  | some o, _ => (NumTy.ofCode ty).map (.arith o)
  | none, some o => (BtTy.ofCode ty).map (.bits o)
  | none, none => none
def RedOp.op : RedOp → BitVec 4
  | .arith o _ => o.code
  | .bits o _ => o.code
def RedOp.ty : RedOp → BitVec 5
  | .arith _ t => t.code
  | .bits _ t => t.code
/-- Operation and type of `atom` (R83). -/
def AtomOp.ofCode (op : BitVec 4) (ty : BitVec 5) : Option AtomOp :=
  if op == 6 then (BtTy.ofCode ty).map .exch
  else if op == 7 then (BtTy.ofCode ty).map .cas
  else (RedOp.ofCode op ty).map .red
def AtomOp.op : AtomOp → BitVec 4
  | .red o => o.op
  | .exch _ => 6
  | .cas _ => 7
def AtomOp.ty : AtomOp → BitVec 5
  | .red o => o.ty
  | .exch t | .cas t => t.code
/-- Operation and type of `tred` (R84). -/
def TredOp.ofCode (op : BitVec 4) (ty : BitVec 5) : Option TredOp :=
  match ArithOp.ofCode op, BitOp.ofCode op with
  | some o, _ => (NumTy.ofCode ty).map (.arith o)
  | none, some o => if ty == 0x03 then some (.bits o) else none
  | none, none => none
def TredOp.op : TredOp → BitVec 4
  | .arith o _ => o.code
  | .bits o => o.code
def TredOp.ty : TredOp → BitVec 5
  | .arith _ t => t.code
  | .bits _ => 0x03
/-- Operation and type of `cred` and `cscan` (R84). -/
def CrOp.ofCode (op : BitVec 4) (ty : BitVec 5) : Option CrOp :=
  match ArithOp.ofCode op, BitOp.ofCode op with
  | some o, _ => (Num32.ofCode ty).map (.arith o)
  | none, some o => if ty == 0x03 then some (.bits o) else none
  | none, none => none
def CrOp.op : CrOp → BitVec 4
  | .arith o _ => o.code
  | .bits o => o.code
def CrOp.ty : CrOp → BitVec 5
  | .arith _ t => t.code
  | .bits _ => 0x03

def Size.ofCode (op : BitVec 4) : Option Size :=
  match op.toNat with
  | 0 => some .b
  | 1 => some .h
  | 2 => some .w
  | 3 => some .d
  | 4 => some .x
  | _ => none
def Size.code : Size → BitVec 4
  | .b => 0
  | .h => 1
  | .w => 2
  | .d => 3
  | .x => 4
def OpenMode.ofCode (op : BitVec 4) : Option OpenMode :=
  match op.toNat with
  | 1 => some .r
  | 2 => some .w
  | 3 => some .rw
  | _ => none
def OpenMode.code : OpenMode → BitVec 4
  | .r => 1
  | .w => 2
  | .rw => 3
def ShflMode.ofCode (op : BitVec 4) : Option ShflMode :=
  match op.toNat with
  | 0 => some .idx
  | 1 => some .up
  | 2 => some .down
  | 3 => some .xor
  | _ => none
def ShflMode.code : ShflMode → BitVec 4
  | .idx => 0
  | .up => 1
  | .down => 2
  | .xor => 3
def HldField.ofCode (op : BitVec 4) : Option HldField :=
  match op.toNat with
  | 0 => some .base
  | 1 => some .len
  | 2 => some .flags
  | _ => none
def HldField.code : HldField → BitVec 4
  | .base => 0
  | .len => 1
  | .flags => 2

/-- Thresholds of `wait` (R86): class k has its enable in C bit k and its threshold in IMM32[6k + 5 : 6k]. -/
def waitOf (c : BitVec 8) (imm : W32) : WaitSet :=
  let t (k : Nat) : Option (BitVec 6) := if c.getLsbD k then some (imm.extractLsb' (6 * k) 6) else none
  ⟨t 0, t 1, t 2, t 3, t 4⟩
/-- The reserved bits of `wait` are zero. -/
def waitResOk (c : BitVec 8) (imm : W32) : Bool :=
  let z (k : Nat) : Bool := c.getLsbD k || imm.extractLsb' (6 * k) 6 == 0
  c.extractLsb' 5 3 == 0 && imm.extractLsb' 30 2 == 0 && z 0 && z 1 && z 2 && z 3 && z 4
def WaitSet.cField (w : WaitSet) : BitVec 8 :=
  (0 : BitVec 3) ++ BitVec.ofBool w.s.isSome ++ BitVec.ofBool w.m.isSome ++ BitVec.ofBool w.c.isSome
    ++ BitVec.ofBool w.h.isSome ++ BitVec.ofBool w.o.isSome
def WaitSet.imm (w : WaitSet) : W32 :=
  (0 : BitVec 2) ++ w.s.getD 0 ++ w.m.getD 0 ++ w.c.getD 0 ++ w.h.getD 0 ++ w.o.getD 0

/-- `xseam n` (R87): MOD[2:0] is the predicate and MOD[15:3] are reserved. -/
def decodeXseam (f : XFields) : Except Detail Instr :=
  chk true (f.xf == 0 && f.op == 0 && !f.bi && f.rm == 0 && f.ty.extractLsb' 3 2 == 0)
    (.xseam f.g (f.xop.extractLsb' 0 6) f.d f.a f.b f.c (f.ty.extractLsb' 0 3) f.imm)

/-- MOD is zero. -/
def XFields.mod0 (f : XFields) : Bool := f.xf == 0 && f.op == 0 && !f.bi && f.rm == 0 && f.ty == 0
/-- MOD is zero but for TY and OP. -/
def XFields.modTO (f : XFields) : Bool := f.xf == 0 && !f.bi && f.rm == 0

/-- X form whose guard, XOP and form are sound: MODIFIER, RESERVED and REGISTER. DEDUCED: under a 64-bit type the bits
63:32 of a literal are no reserved field of `shl` and `shr`, whose count is read as 32 bits, log entry 65. -/
def decodeXBody (f : XFields) : Except Detail Instr :=
  match f.xop.toNat with
  | 0x000 => withTy (IntTy.ofCode f.ty) fun t => chk ((f.xf == 0) && (f.op == 0) && (f.rm == 0)) (f.bOk t.cnt && f.zC) (.add f.g t f.d f.a f.opB)
  | 0x001 => withTy (IntTy.ofCode f.ty) fun t => chk ((f.xf == 0) && (f.op == 0) && (f.rm == 0)) (f.bOk t.cnt && f.zC) (.sub f.g t f.d f.a f.opB)
  | 0x002 => withTy (IntTy.ofCode f.ty) fun t => chk ((f.xf == 0) && (f.op == 0) && (f.rm == 0)) (f.bOk t.cnt && f.zC) (.mul f.g t f.d f.a f.opB)
  | 0x003 => withTy (I32Ty.ofCode f.ty) fun t => chk ((f.xf == 0) && (f.op == 0) && (f.rm == 0)) (f.bOk 1 && f.zC) (.mulhi f.g t f.d f.a f.opB)
  | 0x004 => withTy (IntTy.ofCode f.ty) fun t => chk ((f.xf == 0) && (f.op == 0) && (f.rm == 0)) (f.bOk t.cnt) (.mad f.g t f.d f.a f.opB f.c)
  | 0x005 => withTy (I32Ty.ofCode f.ty) fun t => chk ((f.xf == 0) && (f.op == 0) && (f.rm == 0)) (f.bOk 1) (.madw f.g t f.d f.a f.opB f.c)
  | 0x006 => withTy (IntTy.ofCode f.ty) fun t => chk ((f.xf == 0) && (f.op == 0) && (f.rm == 0)) (f.bOk t.cnt && f.zC) (.min f.g t f.d f.a f.opB)
  | 0x007 => withTy (IntTy.ofCode f.ty) fun t => chk ((f.xf == 0) && (f.op == 0) && (f.rm == 0)) (f.bOk t.cnt && f.zC) (.max f.g t f.d f.a f.opB)
  | 0x008 => withTy (SgnTy.ofCode f.ty) fun t => chk ((f.xf == 0) && (f.op == 0) && (f.rm == 0) && !f.bi) (f.zB && f.zC && f.zI) (.abs f.g t f.d f.a)
  | 0x009 => withTy (SgnTy.ofCode f.ty) fun t => chk ((f.xf == 0) && (f.op == 0) && (f.rm == 0) && !f.bi) (f.zB && f.zC && f.zI) (.neg f.g t f.d f.a)
  | 0x00A => withTy (NatTy.ofCode f.ty) fun t => chk ((f.xf == 0) && (f.op.toNat < 8) && (f.rm == 0)) (f.bOk t.cnt && f.zC) (.lea f.g t f.d f.a f.opB (f.op.extractLsb' 0 3))
  | 0x010 => withTy (BtTy.ofCode f.ty) fun t => chk ((f.xf == 0) && (f.op == 0) && (f.rm == 0)) (f.bOk t.cnt && f.zC) (.and f.g t f.d f.a f.opB)
  | 0x011 => withTy (BtTy.ofCode f.ty) fun t => chk ((f.xf == 0) && (f.op == 0) && (f.rm == 0)) (f.bOk t.cnt && f.zC) (.or f.g t f.d f.a f.opB)
  | 0x012 => withTy (BtTy.ofCode f.ty) fun t => chk ((f.xf == 0) && (f.op == 0) && (f.rm == 0)) (f.bOk t.cnt && f.zC) (.xor f.g t f.d f.a f.opB)
  | 0x013 => withTy (BtTy.ofCode f.ty) fun t => chk ((f.xf == 0) && (f.op == 0) && (f.rm == 0) && !f.bi) (f.zB && f.zC && f.zI) (.not f.g t f.d f.a)
  | 0x014 => withTy (BtTy.ofCode f.ty) fun t => chk ((f.xf == 0) && (f.op == 0) && (f.rm == 0)) (f.bOk t.cnt && f.zC) (.andn f.g t f.d f.a f.opB)
  | 0x015 => withTy (BtTy.ofCode f.ty) fun t => chk ((f.xf == 0) && (f.op == 0) && (f.rm == 0)) (f.bOk t.cnt && f.zC) (.shl f.g t f.d f.a f.opB)
  | 0x016 => withTy (ShrTy.ofCode f.ty) fun t => chk ((f.xf == 0) && (f.op == 0) && (f.rm == 0)) (f.bOk t.cnt && f.zC) (.shr f.g t f.d f.a f.opB)
  | 0x017 => chk ((f.ty == 0x03) && (f.xf == 0) && (f.op == 0) && (f.rm == 0)) (f.bOk 1 && f.zC) (.rot f.g f.d f.a f.opB)
  | 0x018 => withTy (BtTy.ofCode f.ty) fun t => chk ((f.xf == 0) && (f.op == 0) && (f.rm == 0) && !f.bi) (f.zB && f.zC && f.zI) (.popc f.g t f.d f.a)
  | 0x019 => withTy (BtTy.ofCode f.ty) fun t => chk ((f.xf == 0) && (f.op == 0) && (f.rm == 0) && !f.bi) (f.zB && f.zC && f.zI) (.clz f.g t f.d f.a)
  | 0x01A => chk ((f.ty == 0x03) && (f.xf == 0) && (f.op == 0) && (f.rm == 0) && !f.bi) (f.zB && f.zC && f.zI) (.brev f.g f.d f.a)
  | 0x01B => withTy (I32Ty.ofCode f.ty) fun t => chk ((f.xf == 0) && (f.op == 0) && (f.rm == 0)) (f.bOk 1) (.bfe f.g t f.d f.a f.opB f.c)
  | 0x01C => chk ((f.ty == 0x03) && (f.xf == 0) && (f.op == 0) && (f.rm == 0)) (f.bOk 1) (.bfi f.g f.d f.a f.opB f.c)
  | 0x01D => withTy (BtTy.ofCode f.ty) fun t => chk ((f.xf == 0) && (f.op == 0) && (f.rm == 0)) (f.bOk t.cnt && isPred f.c) (.sel f.g t f.d f.a f.opB (predOf f.c))
  | 0x01E => withTy (BtTy.ofCode f.ty) fun t => chk ((f.xf == 0) && (f.op == 0) && (f.rm == 0)) (f.bOk t.cnt && f.zA && f.zC) (.mov f.g t f.d f.opB)
  | 0x028 => chk ((f.ty == 0x00) && (f.xf == 0) && (f.op == 0) && (f.rm == 0) && !f.bi) (isPred f.d && isPred f.a && isPred f.b && f.zC && f.zI) (.pand f.g (predOf f.d) (predOf f.a) (predOf f.b))
  | 0x029 => chk ((f.ty == 0x00) && (f.xf == 0) && (f.op == 0) && (f.rm == 0) && !f.bi) (isPred f.d && isPred f.a && isPred f.b && f.zC && f.zI) (.por f.g (predOf f.d) (predOf f.a) (predOf f.b))
  | 0x02A => chk ((f.ty == 0x00) && (f.xf == 0) && (f.op == 0) && (f.rm == 0) && !f.bi) (isPred f.d && isPred f.a && isPred f.b && f.zC && f.zI) (.pxor f.g (predOf f.d) (predOf f.a) (predOf f.b))
  | 0x02B => chk ((f.ty == 0x00) && (f.xf == 0) && (f.op == 0) && (f.rm == 0) && !f.bi) (isPred f.d && isPred f.a && isPred f.b && f.zC && f.zI) (.pandn f.g (predOf f.d) (predOf f.a) (predOf f.b))
  | 0x02C => chk ((f.ty == 0x00) && (f.xf == 0) && (f.op == 0) && (f.rm == 0) && !f.bi) (isPred f.d && isPred f.a && f.zB && f.zC && f.zI) (.pmov f.g (predOf f.d) (predOf f.a))
  | 0x02D => chk ((f.ty == 0x00) && (f.xf == 0) && (f.op == 0) && (f.rm == 0) && !f.bi) (isPred f.d && isPred f.a && f.zB && f.zC && f.zI) (.pnot f.g (predOf f.d) (predOf f.a))
  | 0x040 => withTy (FTy.ofCode f.ty) fun t => chk ((f.xf == 0) && (f.op == 0)) (f.bOk 1 && f.zC) (.fadd f.g t (rmOf f.rm) f.d f.a f.opB)
  | 0x041 => withTy (FTy.ofCode f.ty) fun t => chk ((f.xf == 0) && (f.op == 0)) (f.bOk 1 && f.zC) (.fsub f.g t (rmOf f.rm) f.d f.a f.opB)
  | 0x042 => withTy (FTy.ofCode f.ty) fun t => chk ((f.xf == 0) && (f.op == 0)) (f.bOk 1 && f.zC) (.fmul f.g t (rmOf f.rm) f.d f.a f.opB)
  | 0x043 => withTy (FTy.ofCode f.ty) fun t => chk ((f.xf == 0) && (f.op == 0)) (f.bOk 1) (.fma f.g t (rmOf f.rm) f.d f.a f.opB f.c)
  | 0x044 => withTy (FTy.ofCode f.ty) fun t => chk ((f.xf == 0) && (f.op == 0) && (f.rm == 0)) (f.bOk 1 && f.zC) (.fmin f.g t f.d f.a f.opB)
  | 0x045 => withTy (FTy.ofCode f.ty) fun t => chk ((f.xf == 0) && (f.op == 0) && (f.rm == 0)) (f.bOk 1 && f.zC) (.fmax f.g t f.d f.a f.opB)
  | 0x046 => withTy (FTy.ofCode f.ty) fun t => chk ((f.xf == 0) && (f.op == 0) && (f.rm == 0) && !f.bi) (f.zB && f.zC && f.zI) (.fabs f.g t f.d f.a)
  | 0x047 => withTy (FTy.ofCode f.ty) fun t => chk ((f.xf == 0) && (f.op == 0) && (f.rm == 0) && !f.bi) (f.zB && f.zC && f.zI) (.fneg f.g t f.d f.a)
  | 0x048 => withTy (FTy.ofCode f.ty) fun t => chk ((f.xf == 0) && (f.op == 0) && (f.rm == 0)) (f.bOk 1 && f.zC) (.fcsgn f.g t f.d f.a f.opB)
  | 0x049 => chk ((f.ty == 0x0E) && (f.xf == 0) && (f.op == 0)) (f.bOk 1 && f.zC) (.fscale f.g (rmOf f.rm) f.d f.a f.opB)
  | 0x04A => withTy (FTy.ofCode f.ty) fun t => chk ((f.xf == 0) && (f.op == 0)) (f.bOk 1) (.fclamp f.g t (rmOf f.rm) f.d f.a f.opB f.c)
  | 0x04B => withTy (FTy.ofCode f.ty) fun t => chk ((f.xf == 0) && (f.op == 0) && !f.bi) (f.zB && f.zC && f.zI) (.frnd f.g t (rmOf f.rm) f.d f.a)
  | 0x04C => chk ((f.ty == 0x0E) && (f.xf == 0) && (f.op == 0) && !f.bi) (f.zB && f.zC && f.zI) (.frcp f.g (rmOf f.rm) f.d f.a)
  | 0x04D => chk ((f.ty == 0x0E) && (f.xf == 0) && (f.op == 0) && !f.bi) (f.zB && f.zC && f.zI) (.fsqrt f.g (rmOf f.rm) f.d f.a)
  | 0x04E => chk ((f.ty == 0x0E) && (f.xf == 0) && (f.op == 0) && !f.bi) (f.zB && f.zC && f.zI) (.frsqrt f.g (rmOf f.rm) f.d f.a)
  | 0x04F => chk ((f.ty == 0x0E) && (f.xf == 0) && (f.op == 0) && !f.bi) (f.zB && f.zC && f.zI) (.fexp2 f.g (rmOf f.rm) f.d f.a)
  | 0x050 => chk ((f.ty == 0x0E) && (f.xf == 0) && (f.op == 0) && !f.bi) (f.zB && f.zC && f.zI) (.flog2 f.g (rmOf f.rm) f.d f.a)
  | 0x051 => chk ((f.ty == 0x0E) && (f.xf == 0) && (f.op == 0) && !f.bi) (f.zB && f.zC && f.zI) (.fsin f.g (rmOf f.rm) f.d f.a)
  | 0x052 => chk ((f.ty == 0x0E) && (f.xf == 0) && (f.op == 0) && !f.bi) (f.zB && f.zC && f.zI) (.fcos f.g (rmOf f.rm) f.d f.a)
  | 0x053 => withTy (F16Ty.ofCode f.ty) fun t => chk ((f.xf == 0) && (f.op == 0)) (f.bOk 1) (.fdot2 f.g t (rmOf f.rm) f.d f.a f.opB f.c)
  | 0x058 => withTy (LnTy.ofCode f.ty) fun t => chk ((f.xf == 0) && (f.op == 0)) (f.bOk 1 && f.zC) (.lmul f.g t (rmOf f.rm) f.d f.a f.opB)
  | 0x059 => withTy (LnTy.ofCode f.ty) fun t => chk ((f.xf == 0) && (f.op == 0)) (f.bOk 1) (.lmac f.g t (rmOf f.rm) f.d f.a f.opB f.c)
  | 0x061 => withTy (F16Ty.ofCode f.ty) fun t => chk ((f.xf == 0) && (f.op == 0)) (f.bOk 1 && f.zC) (.cvtp f.g t (rmOf f.rm) f.d f.a f.opB)
  | 0x062 => withTy (F16Ty.ofCode f.ty) fun t => chk ((f.xf == 0) && (f.op.toNat < 2) && !f.bi) (f.zB && f.zC && f.zI) (.cvtx f.g t (rmOf f.rm) f.d f.a (f.op.extractLsb' 0 1))
  | 0x063 => withTy (Pk8Ty.ofCode f.ty) fun t => chk ((f.xf == 0) && (f.op.toNat < 2)) (f.bOk 1 && f.zC) (.pk8 f.g t (rmOf f.rm) f.d f.a f.opB (f.op.extractLsb' 0 1))
  | 0x064 => withTy (Pk8Ty.ofCode f.ty) fun t => chk ((f.xf == 0) && (f.op.toNat < 4) && (f.rm == 0) && !f.bi) (f.zB && f.zC && f.zI) (.unp8 f.g t f.d f.a (f.op.extractLsb' 0 2))
  | 0x065 => withTy (Pk4Ty.ofCode f.ty) fun t => chk ((f.xf == 0) && (f.op.toNat < 4)) (f.bOk 1 && f.zC) (.pk4 f.g t (rmOf f.rm) f.d f.a f.opB (f.op.extractLsb' 0 2))
  | 0x066 => withTy (Pk4Ty.ofCode f.ty) fun t => chk ((f.xf == 0) && (f.op.toNat < 8) && (f.rm == 0) && !f.bi) (f.zB && f.zC && f.zI) (.unp4 f.g t f.d f.a (f.op.extractLsb' 0 3))
  | 0x067 => withTy (LnTy.ofCode f.ty) fun t => chk ((f.xf == 0) && (f.op == 0) && (f.rm == 0) && !f.bi) (f.zB && f.zC && f.zI) (.lenc f.g t f.d f.a)
  | 0x068 => withTy (LnTy.ofCode f.ty) fun t => chk ((f.xf == 0) && (f.op == 0) && (f.rm == 0) && !f.bi) (f.zB && f.zC && f.zI) (.ldec f.g t f.d f.a)
  | 0x069 => withTy (ScalTy.ofCode f.ty) fun t => chk ((f.xf == 0) && (f.op == 0) && (f.rm == 0) && !f.bi) (f.zB && f.zC && f.zI) (.scal f.g t f.d f.a)
  | 0x070 => chk ((f.ty == 0x00) && (f.xf == 0) && (f.op == 0) && (f.rm == 0)) (f.bOk 1) (.perm f.g f.d f.a f.opB f.c)
  | 0x071 => chk ((f.ty == 0x00) && (f.xf == 0) && (f.op == 0) && (f.rm == 0)) (f.bOk 1) (.prmt f.g f.d f.a f.opB f.c)
  | 0x072 => chk ((f.ty == 0x00) && (f.xf == 0) && (f.op == 0) && (f.rm == 0) && !f.bi) (f.zB && f.zC && f.zI) (.bswp f.g f.d f.a)
  | 0x074 => chk ((f.ty == 0x0A) && (f.xf == 0) && (f.op == 0) && (f.rm == 0)) (f.bOk 1 && f.zC) (.bsub f.g f.d f.a f.opB)
  | 0x081 => chk ((f.ty == 0x00) && (f.xf == 0) && (f.op == 0) && (f.rm == 0) && !f.bi) ((f.d &&& 0x08 == 0) && f.zB && f.zC && f.zI) (.sopen f.g (f.d.extractLsb' 4 4) (f.d.extractLsb' 0 3) f.a)
  | 0x082 => chk ((f.ty == 0x00) && (f.xf == 0) && (f.op == 0) && (f.rm == 0) && !f.bi) (isLine f.a && f.zD && f.zB && f.zC && f.zI) (.recallLine f.g (lineOf f.a))
  | 0x083 => chk ((f.ty == 0x00) && (f.xf == 0) && (f.op == 0) && (f.rm == 0) && !f.bi) (isLine f.a && f.zD && f.zB && f.zC && f.zI) (.flush f.g (lineOf f.a))
  | 0x086 => withTy (ElTy.ofCode f.ty) fun t => chk ((f.xf == 0) && (f.op == 0) && (f.rm == 0) && !f.bi) (isLine f.a && (f.imm >>> 7 == 0) && f.zC) (.lde f.g t f.d (lineOf f.a) f.b (f.imm.extractLsb' 0 7))
  | 0x087 => withTy (ElTy.ofCode f.ty) fun t => chk ((f.xf == 0) && (f.op == 0) && (f.rm == 0) && !f.bi) (isLine f.a && (f.imm >>> 7 == 0) && f.zC) (.ste f.g t (lineOf f.a) f.b f.d (f.imm.extractLsb' 0 7))
  | 0x08A => chk ((f.ty == 0x00) && (f.xf == 0) && (f.op == 0) && (f.rm == 0) && !f.bi) ((f.imm >>> 12 == 0) && f.zD && f.zB && f.zC) (.pfd f.g (f.imm.extractLsb' 0 12) f.a)
  | 0x0C0 => chk ((f.ty == 0x00) && (f.xf == 0) && (f.op == 0) && (f.rm == 0) && !f.bi) ((f.imm &&& 3 == 0) && f.zD && f.zA && f.zB && f.zC) (.bra f.g f.imm)
  | 0x0C2 => chk ((f.ty == 0x00) && (f.xf == 0) && (f.op == 0) && (f.rm == 0) && !f.bi) (f.zD && f.zB && f.zC && f.zI) (.callx f.g f.a)
  | 0x0C3 => chk ((f.ty == 0x00) && (f.xf == 0) && (f.op == 0) && (f.rm == 0) && !f.bi) (f.zD && f.zB && f.zC && f.zI) (.jmpx f.g f.a)
  | 0x0C4 => chk ((f.ty == 0x00) && (f.xf == 0) && (f.op == 0) && (f.rm == 0) && !f.bi) (f.zD && f.zB && f.zC && f.zI) (.ret f.g f.a)
  | 0x0C5 => chk ((f.ty == 0x00) && (f.xf == 0) && (f.op == 0) && (f.rm == 0) && !f.bi) (f.zD && f.zA && f.zB && f.zC && f.zI) (.exit f.g)
  | 0x0C6 => chk ((f.ty == 0x00) && (f.xf == 0) && (f.op == 0) && (f.rm == 0) && !f.bi) (f.zD && f.zA && f.zB && f.zC && f.zI) (.nop f.g)
  | 0x0C7 => chk ((f.ty == 0x00) && (f.xf == 0) && (f.op == 0) && (f.rm == 0)) (isPred f.d && f.bOk 1 && f.zA && f.zC) (.join f.g (predOf f.d) f.opB)
  | 0x0C8 => chk ((f.ty == 0x00) && (f.xf == 0) && (f.op == 0) && (f.rm == 0)) (isPred f.d && f.bOk 1 && f.zA && f.zC) (.leave f.g (predOf f.d) f.opB)
  | 0x0C9 => chk ((f.ty == 0x00) && (f.xf == 0) && (f.op == 0) && (f.rm == 0)) (isPred f.d && f.bOk 1 && f.zC) (.tbar f.g (predOf f.d) f.a f.opB)
  | 0x0CB => chk ((f.ty == 0x03) && (f.xf == 0) && (f.op == 0) && (f.rm == 0)) (f.bOk 1) (.tbcast f.g f.d f.a f.opB f.c)
  | 0x0E3 => chk ((f.ty == 0x03) && (f.xf == 0) && (f.op == 0) && (f.rm == 0) && !f.bi) (f.zB && f.zC && f.zI) (.confl f.g f.d f.a)
  | 0x0E2 => withTy (MatchTy.ofCode f.ty) fun t => chk ((f.xf == 0) && (f.op == 0) && (f.rm == 0) && !f.bi) (f.zB && f.zC && f.zI) (.matchLanes f.g t f.d f.a)
  | 0x0E6 => chk ((f.ty == 0x00) && (f.xf == 0) && (f.op == 0) && (f.rm == 0) && !f.bi) (isPred f.d && f.zA && f.zB && f.zC && f.zI) (.elect f.g (predOf f.d))
  | 0x100 => chk ((f.ty == 0x00) && (f.xf == 0) && (f.op == 0) && (f.rm == 0) && !f.bi) (f.zD && f.zB && f.zC && f.zI) (.mma f.g f.a)
  | 0x101 => chk ((f.ty == 0x00) && (f.xf == 0) && (f.op == 0) && (f.rm == 0) && !f.bi) (f.zD && f.zB && f.zC && f.zI) (.mload f.g f.a)
  | 0x102 => chk ((f.ty == 0x00) && (f.xf == 0) && (f.op == 0) && (f.rm == 0) && !f.bi) (isTile f.d && f.zB && f.zC && f.zI) (.talloc f.g (f.d.extractLsb' 0 6) f.a)
  | 0x103 => chk ((f.ty == 0x00) && (f.xf == 0) && (f.op == 0) && (f.rm == 0) && !f.bi) (isTile f.d && f.zA && f.zB && f.zC && f.zI) (.tfree f.g (f.d.extractLsb' 0 6))
  | 0x104 => chk ((f.ty == 0x00) && (f.xf == 0) && (f.op == 0) && (f.rm == 0) && !f.bi) (isTile f.a && f.zB && f.zC && f.zI) (.tstat f.g f.d (f.a.extractLsb' 0 6))
  | 0x105 => chk ((f.ty == 0x00) && (f.xf == 0) && (f.op == 0) && (f.rm == 0) && !f.bi) (f.zD && f.zB && f.zC && f.zI) (.copy f.g f.a)
  | 0x107 => withTy (NatTy.ofCode f.ty) fun t => chk ((f.xf == 0) && (f.op == 0) && (f.rm == 0) && !f.bi) (isLine f.a && f.zC && f.zI) (.sig f.g t (lineOf f.a) f.b f.d)
  | 0x108 => withTy (NatTy.ofCode f.ty) fun t => chk ((f.xf == 0) && (f.op == 0) && (f.rm == 0) && !f.bi) (isLine f.a && f.zC && f.zI) (.sigw f.g t (lineOf f.a) f.b f.d)
  | 0x109 => chk ((f.ty == 0x00) && (f.xf == 0) && (f.op == 0) && (f.rm == 0)) (isPred f.d && f.bOk 1 && f.zC) (.stkgive f.g (predOf f.d) f.a f.opB)
  | 0x10A => chk ((f.ty == 0x00) && (f.xf == 0) && (f.op == 0) && (f.rm == 0) && !f.bi) (isPred f.d && f.zB && f.zC && f.zI) (.stkown f.g (predOf f.d) f.a)
  | 0x10B => chk ((f.ty == 0x00) && (f.xf == 0) && (f.op == 0) && (f.rm == 0) && !f.bi) (f.zD && f.zB && f.zC && f.zI) (.tmset f.g f.a)
  | 0x120 => chk ((f.ty == 0x00) && (f.xf == 0) && (f.op == 0) && (f.rm == 0) && !f.bi) (f.zD && f.zA && f.zB && f.zC) (.trap f.g f.imm)
  | 0x122 => chk ((f.ty == 0x00) && (f.xf == 0) && (f.op == 0) && (f.rm == 0) && !f.bi) (f.zD && f.zA && f.zB && f.zC) (.bkpt f.g f.imm)
  | 0x125 => chk ((f.ty == 0x00) && (f.xf == 0) && (f.op == 0) && (f.rm == 0) && !f.bi) (f.zD && f.zB && f.zC && f.zI) (.icinv f.g f.a)
  | 0x126 => chk ((f.ty == 0x00) && (f.xf == 0) && (f.op == 0) && (f.rm == 0) && !f.bi) (f.zD && f.zB && f.zC && f.zI) (.pfi f.g f.a)
  | 0x127 => chk ((f.ty == 0x00) && (f.xf == 0) && (f.op == 0) && (f.rm == 0) && !f.bi) (f.zD && f.zA && f.zB && f.zC && f.zI) (.pause f.g)
  | 0x129 => chk ((f.ty == 0x00) && (f.xf == 0) && (f.op == 0) && (f.rm == 0) && !f.bi) (f.zD && f.zC && f.zI) (.seamld f.g f.a f.b)
  | 0x01F => withTy (SetpTest.ofCode f.op f.ty) fun t =>
      chk (f.xf == 0 && f.rm == 0) (f.bOk t.cnt && isPred f.d && f.zC) (.setp f.g t (predOf f.d) f.a f.opB)
  | 0x060 => withTy (CvtTy.ofCode f.ty) fun t => withTy (CvtTy.ofCode (f.c.extractLsb' 0 5)) fun u =>
      chk (f.xf == 0 && f.op == 0 && !f.bi && t != u) (f.c.extractLsb' 5 3 == 0 && f.zB && f.zI)
        (.cvt f.g t u (rmOf f.rm) f.d f.a)
  | 0x073 => withTy (Cond.ofCode f.op) fun c =>
      chk (f.xf == 0 && f.rm == 0 && f.ty == 0x0A) (f.bOk 1 && f.zC) (.bcmp f.g c f.d f.a f.opB)
  | 0x080 => withTy (OpenMode.ofCode f.op) fun m =>
      chk (f.xf.toNat < 4 && !f.bi && f.rm == 0 && f.ty == 0) (!f.d.getLsbD 3 && f.zB && f.zC && f.imm.extractLsb' 12 20 == 0)
        (.openLine f.g m (f.xf.extractLsb' 0 2) (f.d.extractLsb' 4 4) (f.d.extractLsb' 0 3) (f.imm.extractLsb' 0 12) f.a)
  | 0x084 => withTy (Size.ofCode f.op) fun z =>
      chk (f.modTO && f.ty == 0) (isLine f.a && f.zC && f.imm.extractLsb' 7 25 == 0)
        (.ld f.g z f.d (lineOf f.a) f.b (f.imm.extractLsb' 0 7))
  | 0x085 => withTy (Size.ofCode f.op) fun z =>
      chk (f.modTO && f.ty == 0) (isLine f.a && f.zC && f.imm.extractLsb' 7 25 == 0)
        (.st f.g z (lineOf f.a) f.b f.d (f.imm.extractLsb' 0 7))
  | 0x088 => withTy (AtomOp.ofCode f.op f.ty) fun o =>
      chk f.modTO (isLine f.a && f.zI) (.atom f.g o f.d (lineOf f.a) f.b f.c)
  | 0x089 => withTy (RedOp.ofCode f.op f.ty) fun o =>
      chk f.modTO (isLine f.a && f.zC && f.zI) (.red f.g o (lineOf f.a) f.b f.d)
  | 0x0C1 =>
      match f.lit with
      | none => chk f.mod0 (f.zA && f.zB && f.zC && f.zD && f.imm.extractLsb' 0 2 == 0) (.call f.g f.imm)
      | some v =>
        chk (f.modTO && f.ty == 0) (f.zA && f.zB && f.zC && f.zD && f.zI && v.extractLsb' 12 52 == 0)
          (.callImport f.g (v.extractLsb' 0 12))
  | 0x0CA => withTy (TredOp.ofCode f.op f.ty) fun o =>
      chk (f.xf == 0 && f.rm == 0) (f.bOk 1 && f.zC) (.tred f.g o f.d f.a f.opB)
  | 0x0E0 => withTy (ShflMode.ofCode f.op) fun m =>
      chk (f.xf == 0 && f.rm == 0 && f.ty == 0x03) (f.bOk 1 && isPred f.c) (.shfl f.g m f.d f.a f.opB (predOf f.c))
  | 0x0E1 =>
      match f.op.toNat with
      | 0 => chk (f.modTO && f.ty == 0) (isPred f.d && isPred f.a && f.zB && f.zC && f.zI) (.vote f.g (.all (predOf f.d)) (predOf f.a))
      | 1 => chk (f.modTO && f.ty == 0) (isPred f.d && isPred f.a && f.zB && f.zC && f.zI) (.vote f.g (.any (predOf f.d)) (predOf f.a))
      | 2 => chk (f.modTO && f.ty == 0) (isPred f.a && f.zB && f.zC && f.zI) (.vote f.g (.ball f.d) (predOf f.a))
      | 3 => chk (f.modTO && f.ty == 0) (isPred f.d && isPred f.a && f.zB && f.zC && f.zI) (.vote f.g (.eq (predOf f.d)) (predOf f.a))
      | _ => .error .modifier
  | 0x0E4 => withTy (CrOp.ofCode f.op f.ty) fun o =>
      chk f.modTO (f.zB && f.zC && f.zI) (.cred f.g o f.d f.a)
  | 0x0E5 => withTy (CrOp.ofCode f.op f.ty) fun o =>
      chk (f.xf.extractLsb' 1 3 == 0 && !f.bi && f.rm == 0) (f.zB && f.zC && f.zI) (.cscan f.g o (f.xf.getLsbD 0) f.d f.a)
  | 0x106 =>
      chk (f.mod0 && f.c.extractLsb' 0 5 != 0) (f.zA && f.zB && f.zD && waitResOk f.c f.imm) (.wait f.g (waitOf f.c f.imm))
  | 0x121 =>
      match f.op.toNat with
      | 0 => chk (f.modTO && f.ty == 0) (f.zA && f.zB && f.zC && f.zD && f.zI) (.rteRetry f.g)
      | 1 => chk (f.modTO && f.ty == 0) (f.zA && f.zB && f.zC && f.zD && f.zI) (.rteSkip f.g)
      | 2 => chk (f.modTO && f.ty == 0) (f.zA && f.zB && f.zC && f.zD && f.zI) (.rteExit f.g)
      | _ => .error .modifier
  | 0x123 =>
      if !f.mod0 then .error .modifier
      else withSReg (f.zB && f.zC && f.zI) f.a fun s => chk true true (.mfs f.g f.d s)
  | 0x124 =>
      if !f.mod0 then .error .modifier
      else withSReg (f.zB && f.zC && f.zI) f.d fun s => if s.writable then chk true true (.mts f.g s f.a) else .error .register
  | 0x128 => withTy (HldField.ofCode f.op) fun h =>
      chk (f.modTO && f.ty == 0) (f.zA && f.zB && f.zC && f.imm.extractLsb' 12 20 == 0)
        (.hld f.g h f.d (f.imm.extractLsb' 0 12))
  | n => if 0x3C0 ≤ n then decodeXseam f else .error .opcode

/-- X form, in the order of R89. -/
def decodeX (f : XFields) : Except Detail Instr :=
  if !f.g.ok then .error .guard
  else if !xopAssigned f.xop.toNat then .error .opcode
  else if f.formBad then .error .form
  else decodeXBody f

def Enc.decode : Enc → Except Detail Instr
  | .c f => decodeC f
  | .x f => decodeX f

/-- Decodes the instruction at the head of what is left of a code line; words that the line does not hold are
LINE_CROSS (R71). -/
def decodeWords (ws : List W32) : Except Detail Instr :=
  match Enc.ofWords ws with
  | none => .error .lineCross
  | some e => e.decode

/-- `decodeWords` on bytes. -/
def decode (bs : List Byte) : Except Detail Instr := decodeWords (wordsOfBytes bs)

/-! ## Encoding -/

/-- The fields of an instruction's encoding; `none` for micro-ops, device steps and the illegal instruction. -/
def Instr.enc : Instr → Option Enc
  | .nopC => some <| .c { cop := 0x01 }
  | .movB32C d b => some <| .c { cop := 0x02, d := d, b := b }
  | .movB32Clit d v => some <| .c { cop := 0x02, d := d, lit := some (v.zeroExtend 64) }
  | .movB32Imm8C d i => some <| .c { cop := 0x03, d := d, b := i }
  | .addI32C d a b => some <| .c { cop := 0x04, d := d, a := a, b := b }
  | .addI32Clit d a v => some <| .c { cop := 0x04, d := d, a := a, lit := some (v.zeroExtend 64) }
  | .addI32Imm8C d a i => some <| .c { cop := 0x05, d := d, a := a, b := i }
  | .subI32C d a b => some <| .c { cop := 0x06, d := d, a := a, b := b }
  | .subI32Clit d a v => some <| .c { cop := 0x06, d := d, a := a, lit := some (v.zeroExtend 64) }
  | .mulI32C d a b => some <| .c { cop := 0x07, d := d, a := a, b := b }
  | .mulI32Clit d a v => some <| .c { cop := 0x07, d := d, a := a, lit := some (v.zeroExtend 64) }
  | .andB32C d a b => some <| .c { cop := 0x08, d := d, a := a, b := b }
  | .andB32Clit d a v => some <| .c { cop := 0x08, d := d, a := a, lit := some (v.zeroExtend 64) }
  | .andB32Imm8C d a i => some <| .c { cop := 0x09, d := d, a := a, b := i }
  | .orB32C d a b => some <| .c { cop := 0x0A, d := d, a := a, b := b }
  | .orB32Clit d a v => some <| .c { cop := 0x0A, d := d, a := a, lit := some (v.zeroExtend 64) }
  | .xorB32C d a b => some <| .c { cop := 0x0B, d := d, a := a, b := b }
  | .xorB32Clit d a v => some <| .c { cop := 0x0B, d := d, a := a, lit := some (v.zeroExtend 64) }
  | .shlB32Imm8C d a i => some <| .c { cop := 0x0C, d := d, a := a, b := i }
  | .shrB32Imm8C d a i => some <| .c { cop := 0x0D, d := d, a := a, b := i }
  | .shrI32Imm8C d a i => some <| .c { cop := 0x0E, d := d, a := a, b := i }
  | .shlB32C d a b => some <| .c { cop := 0x0F, d := d, a := a, b := b }
  | .shlB32Clit d a v => some <| .c { cop := 0x0F, d := d, a := a, lit := some (v.zeroExtend 64) }
  | .shrB32C d a b => some <| .c { cop := 0x10, d := d, a := a, b := b }
  | .shrB32Clit d a v => some <| .c { cop := 0x10, d := d, a := a, lit := some (v.zeroExtend 64) }
  | .minI32C d a b => some <| .c { cop := 0x11, d := d, a := a, b := b }
  | .minI32Clit d a v => some <| .c { cop := 0x11, d := d, a := a, lit := some (v.zeroExtend 64) }
  | .maxI32C d a b => some <| .c { cop := 0x12, d := d, a := a, b := b }
  | .maxI32Clit d a v => some <| .c { cop := 0x12, d := d, a := a, lit := some (v.zeroExtend 64) }
  | .popcB32C d a => some <| .c { cop := 0x13, d := d, a := a }
  | .clzB32C d a => some <| .c { cop := 0x14, d := d, a := a }
  | .leaN32C d a b => some <| .c { cop := 0x15, d := d, a := a, b := b }
  | .leaN32Clit d a v => some <| .c { cop := 0x15, d := d, a := a, lit := some (v.zeroExtend 64) }
  | .faddFp32C d a b => some <| .c { cop := 0x16, d := d, a := a, b := b }
  | .faddFp32Clit d a v => some <| .c { cop := 0x16, d := d, a := a, lit := some (v.zeroExtend 64) }
  | .fmulFp32C d a b => some <| .c { cop := 0x17, d := d, a := a, b := b }
  | .fmulFp32Clit d a v => some <| .c { cop := 0x17, d := d, a := a, lit := some (v.zeroExtend 64) }
  | .fminFp32C d a b => some <| .c { cop := 0x18, d := d, a := a, b := b }
  | .fminFp32Clit d a v => some <| .c { cop := 0x18, d := d, a := a, lit := some (v.zeroExtend 64) }
  | .fmaxFp32C d a b => some <| .c { cop := 0x19, d := d, a := a, b := b }
  | .fmaxFp32Clit d a v => some <| .c { cop := 0x19, d := d, a := a, lit := some (v.zeroExtend 64) }
  | .faddBf16C d a b => some <| .c { cop := 0x1A, d := d, a := a, b := b }
  | .faddBf16Clit d a v => some <| .c { cop := 0x1A, d := d, a := a, lit := some (v.zeroExtend 64) }
  | .fmulBf16C d a b => some <| .c { cop := 0x1B, d := d, a := a, b := b }
  | .fmulBf16Clit d a v => some <| .c { cop := 0x1B, d := d, a := a, lit := some (v.zeroExtend 64) }
  | .cvtFp32I32C d a => some <| .c { cop := 0x1C, d := d, a := a }
  | .cvtI32Fp32C d a => some <| .c { cop := 0x1D, d := d, a := a }
  | .setpEqB32C p a b => some <| .c { cop := 0x1E, d := predField p, a := a, b := b }
  | .setpEqB32Clit p a v => some <| .c { cop := 0x1E, d := predField p, a := a, lit := some (v.zeroExtend 64) }
  | .setpNeB32C p a b => some <| .c { cop := 0x1F, d := predField p, a := a, b := b }
  | .setpNeB32Clit p a v => some <| .c { cop := 0x1F, d := predField p, a := a, lit := some (v.zeroExtend 64) }
  | .setpLtI32C p a b => some <| .c { cop := 0x20, d := predField p, a := a, b := b }
  | .setpLtI32Clit p a v => some <| .c { cop := 0x20, d := predField p, a := a, lit := some (v.zeroExtend 64) }
  | .setpGeI32C p a b => some <| .c { cop := 0x21, d := predField p, a := a, b := b }
  | .setpGeI32Clit p a v => some <| .c { cop := 0x21, d := predField p, a := a, lit := some (v.zeroExtend 64) }
  | .setpLtN32C p a b => some <| .c { cop := 0x22, d := predField p, a := a, b := b }
  | .setpLtN32Clit p a v => some <| .c { cop := 0x22, d := predField p, a := a, lit := some (v.zeroExtend 64) }
  | .setpGeN32C p a b => some <| .c { cop := 0x23, d := predField p, a := a, b := b }
  | .setpGeN32Clit p a v => some <| .c { cop := 0x23, d := predField p, a := a, lit := some (v.zeroExtend 64) }
  | .setpLtFp32C p a b => some <| .c { cop := 0x24, d := predField p, a := a, b := b }
  | .setpLtFp32Clit p a v => some <| .c { cop := 0x24, d := predField p, a := a, lit := some (v.zeroExtend 64) }
  | .setpGeFp32C p a b => some <| .c { cop := 0x25, d := predField p, a := a, b := b }
  | .setpGeFp32Clit p a v => some <| .c { cop := 0x25, d := predField p, a := a, lit := some (v.zeroExtend 64) }
  | .pandC d a b => some <| .c { cop := 0x26, d := predField d, a := predField a, b := predField b }
  | .porC d a b => some <| .c { cop := 0x27, d := predField d, a := predField a, b := predField b }
  | .pxorC d a b => some <| .c { cop := 0x28, d := predField d, a := predField a, b := predField b }
  | .pandnC d a b => some <| .c { cop := 0x29, d := predField d, a := predField a, b := predField b }
  | .pmovC d a => some <| .c { cop := 0x2A, d := predField d, a := predField a }
  | .pnotC d a => some <| .c { cop := 0x2B, d := predField d, a := predField a }
  | .ldBC d la b => some <| .c { cop := 0x2C, d := d, a := lineField la, b := b }
  | .ldHC d la b => some <| .c { cop := 0x2D, d := d, a := lineField la, b := b }
  | .ldWC d la b => some <| .c { cop := 0x2E, d := d, a := lineField la, b := b }
  | .ldDC d la b => some <| .c { cop := 0x2F, d := d, a := lineField la, b := b }
  | .stBC la b d => some <| .c { cop := 0x30, d := d, a := lineField la, b := b }
  | .stHC la b d => some <| .c { cop := 0x31, d := d, a := lineField la, b := b }
  | .stWC la b d => some <| .c { cop := 0x32, d := d, a := lineField la, b := b }
  | .stDC la b d => some <| .c { cop := 0x33, d := d, a := lineField la, b := b }
  | .recallC la => some <| .c { cop := 0x34, a := lineField la }
  | .flushC la => some <| .c { cop := 0x35, a := lineField la }
  | .exitC => some <| .c { cop := 0x36 }
  | .retC a => some <| .c { cop := 0x37, a := a }
  | .voteAnyC d a => some <| .c { cop := 0x38, d := predField d, a := predField a }
  | .voteAllC d a => some <| .c { cop := 0x39, d := predField d, a := predField a }
  | .voteBallC d a => some <| .c { cop := 0x3A, d := d, a := predField a }
  | .electC d => some <| .c { cop := 0x3B, d := predField d }
  | .shflIdxC d a b => some <| .c { cop := 0x3C, d := d, a := a, b := b }
  | .shflXorC d a i => some <| .c { cop := 0x3D, d := d, a := a, b := i }
  | .mfsC d sr => some <| .c { cop := 0x3E, d := d, a := sr.number }
  | .pauseC => some <| .c { cop := 0x3F }
  | .add g t d a b => some <| .x (({ xop := 0x000, g := g, ty := t.code, d := d, a := a } : XFields).withB b)
  | .sub g t d a b => some <| .x (({ xop := 0x001, g := g, ty := t.code, d := d, a := a } : XFields).withB b)
  | .mul g t d a b => some <| .x (({ xop := 0x002, g := g, ty := t.code, d := d, a := a } : XFields).withB b)
  | .mulhi g t d a b => some <| .x (({ xop := 0x003, g := g, ty := t.code, d := d, a := a } : XFields).withB b)
  | .mad g t d a b c => some <| .x (({ xop := 0x004, g := g, ty := t.code, d := d, a := a, c := c } : XFields).withB b)
  | .madw g t d a b c => some <| .x (({ xop := 0x005, g := g, ty := t.code, d := d, a := a, c := c } : XFields).withB b)
  | .min g t d a b => some <| .x (({ xop := 0x006, g := g, ty := t.code, d := d, a := a } : XFields).withB b)
  | .max g t d a b => some <| .x (({ xop := 0x007, g := g, ty := t.code, d := d, a := a } : XFields).withB b)
  | .abs g t d a => some <| .x ({ xop := 0x008, g := g, ty := t.code, d := d, a := a })
  | .neg g t d a => some <| .x ({ xop := 0x009, g := g, ty := t.code, d := d, a := a })
  | .lea g t d a b sh => some <| .x (({ xop := 0x00A, g := g, ty := t.code, d := d, a := a, op := sh.zeroExtend 4 } : XFields).withB b)
  | .and g t d a b => some <| .x (({ xop := 0x010, g := g, ty := t.code, d := d, a := a } : XFields).withB b)
  | .or g t d a b => some <| .x (({ xop := 0x011, g := g, ty := t.code, d := d, a := a } : XFields).withB b)
  | .xor g t d a b => some <| .x (({ xop := 0x012, g := g, ty := t.code, d := d, a := a } : XFields).withB b)
  | .not g t d a => some <| .x ({ xop := 0x013, g := g, ty := t.code, d := d, a := a })
  | .andn g t d a b => some <| .x (({ xop := 0x014, g := g, ty := t.code, d := d, a := a } : XFields).withB b)
  | .shl g t d a b => some <| .x (({ xop := 0x015, g := g, ty := t.code, d := d, a := a } : XFields).withB b)
  | .shr g t d a b => some <| .x (({ xop := 0x016, g := g, ty := t.code, d := d, a := a } : XFields).withB b)
  | .rot g d a b => some <| .x (({ xop := 0x017, g := g, ty := 0x03, d := d, a := a } : XFields).withB b)
  | .popc g t d a => some <| .x ({ xop := 0x018, g := g, ty := t.code, d := d, a := a })
  | .clz g t d a => some <| .x ({ xop := 0x019, g := g, ty := t.code, d := d, a := a })
  | .brev g d a => some <| .x ({ xop := 0x01A, g := g, ty := 0x03, d := d, a := a })
  | .bfe g t d a b c => some <| .x (({ xop := 0x01B, g := g, ty := t.code, d := d, a := a, c := c } : XFields).withB b)
  | .bfi g d a b c => some <| .x (({ xop := 0x01C, g := g, ty := 0x03, d := d, a := a, c := c } : XFields).withB b)
  | .sel g t d a b c => some <| .x (({ xop := 0x01D, g := g, ty := t.code, d := d, a := a, c := predField c } : XFields).withB b)
  | .mov g t d b => some <| .x (({ xop := 0x01E, g := g, ty := t.code, d := d } : XFields).withB b)
  | .pand g d a b => some <| .x ({ xop := 0x028, g := g, d := predField d, a := predField a, b := predField b })
  | .por g d a b => some <| .x ({ xop := 0x029, g := g, d := predField d, a := predField a, b := predField b })
  | .pxor g d a b => some <| .x ({ xop := 0x02A, g := g, d := predField d, a := predField a, b := predField b })
  | .pandn g d a b => some <| .x ({ xop := 0x02B, g := g, d := predField d, a := predField a, b := predField b })
  | .pmov g d a => some <| .x ({ xop := 0x02C, g := g, d := predField d, a := predField a })
  | .pnot g d a => some <| .x ({ xop := 0x02D, g := g, d := predField d, a := predField a })
  | .fadd g t rm d a b => some <| .x (({ xop := 0x040, g := g, ty := t.code, rm := rm.code, d := d, a := a } : XFields).withB b)
  | .fsub g t rm d a b => some <| .x (({ xop := 0x041, g := g, ty := t.code, rm := rm.code, d := d, a := a } : XFields).withB b)
  | .fmul g t rm d a b => some <| .x (({ xop := 0x042, g := g, ty := t.code, rm := rm.code, d := d, a := a } : XFields).withB b)
  | .fma g t rm d a b c => some <| .x (({ xop := 0x043, g := g, ty := t.code, rm := rm.code, d := d, a := a, c := c } : XFields).withB b)
  | .fmin g t d a b => some <| .x (({ xop := 0x044, g := g, ty := t.code, d := d, a := a } : XFields).withB b)
  | .fmax g t d a b => some <| .x (({ xop := 0x045, g := g, ty := t.code, d := d, a := a } : XFields).withB b)
  | .fabs g t d a => some <| .x ({ xop := 0x046, g := g, ty := t.code, d := d, a := a })
  | .fneg g t d a => some <| .x ({ xop := 0x047, g := g, ty := t.code, d := d, a := a })
  | .fcsgn g t d a b => some <| .x (({ xop := 0x048, g := g, ty := t.code, d := d, a := a } : XFields).withB b)
  | .fscale g rm d a b => some <| .x (({ xop := 0x049, g := g, ty := 0x0E, rm := rm.code, d := d, a := a } : XFields).withB b)
  | .fclamp g t rm d a b c => some <| .x (({ xop := 0x04A, g := g, ty := t.code, rm := rm.code, d := d, a := a, c := c } : XFields).withB b)
  | .frnd g t rm d a => some <| .x ({ xop := 0x04B, g := g, ty := t.code, rm := rm.code, d := d, a := a })
  | .frcp g rm d a => some <| .x ({ xop := 0x04C, g := g, ty := 0x0E, rm := rm.code, d := d, a := a })
  | .fsqrt g rm d a => some <| .x ({ xop := 0x04D, g := g, ty := 0x0E, rm := rm.code, d := d, a := a })
  | .frsqrt g rm d a => some <| .x ({ xop := 0x04E, g := g, ty := 0x0E, rm := rm.code, d := d, a := a })
  | .fexp2 g rm d a => some <| .x ({ xop := 0x04F, g := g, ty := 0x0E, rm := rm.code, d := d, a := a })
  | .flog2 g rm d a => some <| .x ({ xop := 0x050, g := g, ty := 0x0E, rm := rm.code, d := d, a := a })
  | .fsin g rm d a => some <| .x ({ xop := 0x051, g := g, ty := 0x0E, rm := rm.code, d := d, a := a })
  | .fcos g rm d a => some <| .x ({ xop := 0x052, g := g, ty := 0x0E, rm := rm.code, d := d, a := a })
  | .fdot2 g t rm d a b c => some <| .x (({ xop := 0x053, g := g, ty := t.code, rm := rm.code, d := d, a := a, c := c } : XFields).withB b)
  | .lmul g t rm d a b => some <| .x (({ xop := 0x058, g := g, ty := t.code, rm := rm.code, d := d, a := a } : XFields).withB b)
  | .lmac g t rm d a b c => some <| .x (({ xop := 0x059, g := g, ty := t.code, rm := rm.code, d := d, a := a, c := c } : XFields).withB b)
  | .cvtp g t rm d a b => some <| .x (({ xop := 0x061, g := g, ty := t.code, rm := rm.code, d := d, a := a } : XFields).withB b)
  | .cvtx g t rm d a k => some <| .x ({ xop := 0x062, g := g, ty := t.code, rm := rm.code, d := d, a := a, op := k.zeroExtend 4 })
  | .pk8 g t rm d a b h => some <| .x (({ xop := 0x063, g := g, ty := t.code, rm := rm.code, d := d, a := a, op := h.zeroExtend 4 } : XFields).withB b)
  | .unp8 g t d a k => some <| .x ({ xop := 0x064, g := g, ty := t.code, d := d, a := a, op := k.zeroExtend 4 })
  | .pk4 g t rm d a b h => some <| .x (({ xop := 0x065, g := g, ty := t.code, rm := rm.code, d := d, a := a, op := h.zeroExtend 4 } : XFields).withB b)
  | .unp4 g t d a n => some <| .x ({ xop := 0x066, g := g, ty := t.code, d := d, a := a, op := n.zeroExtend 4 })
  | .lenc g t d a => some <| .x ({ xop := 0x067, g := g, ty := t.code, d := d, a := a })
  | .ldec g t d a => some <| .x ({ xop := 0x068, g := g, ty := t.code, d := d, a := a })
  | .scal g t d a => some <| .x ({ xop := 0x069, g := g, ty := t.code, d := d, a := a })
  | .perm g d a b c => some <| .x (({ xop := 0x070, g := g, d := d, a := a, c := c } : XFields).withB b)
  | .prmt g d a b c => some <| .x (({ xop := 0x071, g := g, d := d, a := a, c := c } : XFields).withB b)
  | .bswp g d a => some <| .x ({ xop := 0x072, g := g, d := d, a := a })
  | .bsub g d a b => some <| .x (({ xop := 0x074, g := g, ty := 0x0A, d := d, a := a } : XFields).withB b)
  | .sopen g l p a => some <| .x ({ xop := 0x081, g := g, d := targetField l p, a := a })
  | .recallLine g la => some <| .x ({ xop := 0x082, g := g, a := lineField la })
  | .flush g la => some <| .x ({ xop := 0x083, g := g, a := lineField la })
  | .lde g t d la b off => some <| .x ({ xop := 0x086, g := g, ty := t.code, d := d, a := lineField la, b := b, imm := off.zeroExtend 32 })
  | .ste g t la b d off => some <| .x ({ xop := 0x087, g := g, ty := t.code, a := lineField la, b := b, d := d, imm := off.zeroExtend 32 })
  | .pfd g h a => some <| .x ({ xop := 0x08A, g := g, imm := h.zeroExtend 32, a := a })
  | .bra g off => some <| .x ({ xop := 0x0C0, g := g, imm := off })
  | .callx g a => some <| .x ({ xop := 0x0C2, g := g, a := a })
  | .jmpx g a => some <| .x ({ xop := 0x0C3, g := g, a := a })
  | .ret g a => some <| .x ({ xop := 0x0C4, g := g, a := a })
  | .exit g => some <| .x ({ xop := 0x0C5, g := g })
  | .nop g => some <| .x ({ xop := 0x0C6, g := g })
  | .join g p b => some <| .x (({ xop := 0x0C7, g := g, d := predField p } : XFields).withB b)
  | .leave g p b => some <| .x (({ xop := 0x0C8, g := g, d := predField p } : XFields).withB b)
  | .tbar g p a b => some <| .x (({ xop := 0x0C9, g := g, d := predField p, a := a } : XFields).withB b)
  | .tbcast g d a b c => some <| .x (({ xop := 0x0CB, g := g, ty := 0x03, d := d, a := a, c := c } : XFields).withB b)
  | .confl g d a => some <| .x ({ xop := 0x0E3, g := g, ty := 0x03, d := d, a := a })
  | .matchLanes g t d a => some <| .x ({ xop := 0x0E2, g := g, ty := t.code, d := d, a := a })
  | .elect g p => some <| .x ({ xop := 0x0E6, g := g, d := predField p })
  | .mma g a => some <| .x ({ xop := 0x100, g := g, a := a })
  | .mload g a => some <| .x ({ xop := 0x101, g := g, a := a })
  | .talloc g tl a => some <| .x ({ xop := 0x102, g := g, d := tl.zeroExtend 8, a := a })
  | .tfree g tl => some <| .x ({ xop := 0x103, g := g, d := tl.zeroExtend 8 })
  | .tstat g d tl => some <| .x ({ xop := 0x104, g := g, d := d, a := tl.zeroExtend 8 })
  | .copy g a => some <| .x ({ xop := 0x105, g := g, a := a })
  | .sig g t la b d => some <| .x ({ xop := 0x107, g := g, ty := t.code, a := lineField la, b := b, d := d })
  | .sigw g t la b d => some <| .x ({ xop := 0x108, g := g, ty := t.code, a := lineField la, b := b, d := d })
  | .stkgive g p a b => some <| .x (({ xop := 0x109, g := g, d := predField p, a := a } : XFields).withB b)
  | .stkown g p a => some <| .x ({ xop := 0x10A, g := g, d := predField p, a := a })
  | .tmset g a => some <| .x ({ xop := 0x10B, g := g, a := a })
  | .trap g v => some <| .x ({ xop := 0x120, g := g, imm := v })
  | .bkpt g v => some <| .x ({ xop := 0x122, g := g, imm := v })
  | .icinv g a => some <| .x ({ xop := 0x125, g := g, a := a })
  | .pfi g a => some <| .x ({ xop := 0x126, g := g, a := a })
  | .pause g => some <| .x ({ xop := 0x127, g := g })
  | .seamld g a b => some <| .x ({ xop := 0x129, g := g, a := a, b := b })
  | .setp g t p a b => some <| .x (({ xop := 0x01F, g := g, op := t.op, ty := t.ty, d := predField p, a := a } : XFields).withB b)
  | .cvt g t u rm d a => some <| .x { xop := 0x060, g := g, ty := t.code, rm := rm.code, d := d, a := a, c := u.code.zeroExtend 8 }
  | .bcmp g c d a b => some <| .x (({ xop := 0x073, g := g, op := c.code, ty := 0x0A, d := d, a := a } : XFields).withB b)
  | .openLine g m sc l p h a =>
    some <| .x { xop := 0x080, g := g, op := m.code, xf := sc.zeroExtend 4, d := targetField l p, a := a, imm := h.zeroExtend 32 }
  | .ld g z d la b off => some <| .x { xop := 0x084, g := g, op := z.code, d := d, a := lineField la, b := b, imm := off.zeroExtend 32 }
  | .st g z la b d off => some <| .x { xop := 0x085, g := g, op := z.code, d := d, a := lineField la, b := b, imm := off.zeroExtend 32 }
  | .atom g o d la b c => some <| .x { xop := 0x088, g := g, op := o.op, ty := o.ty, d := d, a := lineField la, b := b, c := c }
  | .red g o la b d => some <| .x { xop := 0x089, g := g, op := o.op, ty := o.ty, d := d, a := lineField la, b := b }
  | .call g off => some <| .x { xop := 0x0C1, g := g, imm := off }
  | .callImport g e => some <| .x { xop := 0x0C1, g := g, op := 1, lit := some (e.zeroExtend 64) }
  | .tred g o d a b => some <| .x (({ xop := 0x0CA, g := g, op := o.op, ty := o.ty, d := d, a := a } : XFields).withB b)
  | .shfl g m d a b c => some <| .x (({ xop := 0x0E0, g := g, op := m.code, ty := 0x03, d := d, a := a, c := predField c } : XFields).withB b)
  | .vote g (.all p) a => some <| .x { xop := 0x0E1, g := g, d := predField p, a := predField a }
  | .vote g (.any p) a => some <| .x { xop := 0x0E1, g := g, op := 1, d := predField p, a := predField a }
  | .vote g (.ball d) a => some <| .x { xop := 0x0E1, g := g, op := 2, d := d, a := predField a }
  | .vote g (.eq p) a => some <| .x { xop := 0x0E1, g := g, op := 3, d := predField p, a := predField a }
  | .cred g o d a => some <| .x { xop := 0x0E4, g := g, op := o.op, ty := o.ty, d := d, a := a }
  | .cscan g o e d a => some <| .x { xop := 0x0E5, g := g, op := o.op, ty := o.ty, xf := (BitVec.ofBool e).zeroExtend 4, d := d, a := a }
  | .wait g w => some <| .x { xop := 0x106, g := g, c := w.cField, imm := w.imm }
  | .rteRetry g => some <| .x { xop := 0x121, g := g }
  | .rteSkip g => some <| .x { xop := 0x121, g := g, op := 1 }
  | .rteExit g => some <| .x { xop := 0x121, g := g, op := 2 }
  | .mfs g d s => some <| .x { xop := 0x123, g := g, d := d, a := s.number }
  | .mts g s a => some <| .x { xop := 0x124, g := g, d := s.number, a := a }
  | .hld g h d i => some <| .x { xop := 0x128, g := g, op := h.code, d := d, imm := i.zeroExtend 32 }
  | .xseam g n d a b c p imm =>
    some <| .x { xop := (0xF : BitVec 4) ++ n, g := g, d := d, a := a, b := b, c := c, ty := (0 : BitVec 2) ++ p, imm := imm }
  | _ => none

/-! ## Micro-ops (R206 to R211) -/

/-- The fields of a micro-op word (R206). -/
structure UFields where
  opc : BitVec 6
  dst : QReg := 0
  sa  : Sel := 0
  sb  : Sel := 0
  sc  : Sel := 0
  f   : BitVec 3 := 0
  rm  : BitVec 2 := 0
  rsv : BitVec 6 := 0
  k   : W32 := 0
  deriving DecidableEq, Repr

def UFields.word (u : UFields) : W64 :=
  (u.opc ++ u.dst ++ u.sa ++ u.sb ++ u.sc ++ u.f ++ u.rm ++ u.rsv ++ u.k : BitVec 64)
def UFields.ofWord (w : W64) : UFields :=
  ⟨w.extractLsb' 58 6, w.extractLsb' 55 3, w.extractLsb' 51 4, w.extractLsb' 47 4, w.extractLsb' 43 4, w.extractLsb' 40 3,
    w.extractLsb' 38 2, w.extractLsb' 32 6, w.extractLsb' 0 32⟩

/-- K of `lld` and `lst` (R209). -/
def lineK (off : BitVec 7) (la : LineOp) : W32 := (0 : BitVec 17) ++ off ++ lineField la
def lineKOk (k : W32) : Bool := k.extractLsb' 15 17 == 0 && isLine (k.extractLsb' 0 8)
/-- K of `brf` (R211). -/
def brfK (t : BitVec 6) : W32 := (0 : BitVec 26) ++ t
/-- K of `loop` (R211). -/
def loopK (last : BitVec 6) (cnt : BitVec 5) : W32 := (0 : BitVec 18) ++ last ++ (0 : BitVec 3) ++ cnt

def UCmp.ofCode (c : BitVec 3) : UCmp :=
  match c.toNat with
  | 0 => .eq
  | 1 => .ne
  | 2 => .ltI
  | 3 => .leI
  | 4 => .ltN
  | 5 => .leN
  | 6 => .ltF
  | _ => .leF
def UCmp.code : UCmp → BitVec 3
  | .eq => 0
  | .ne => 1
  | .ltI => 2
  | .leI => 3
  | .ltN => 4
  | .leN => 5
  | .ltF => 6
  | .leF => 7
/-- Variant and rounding mode of `cvt`; F 4 to 6 need RM = 0. -/
def UCvt.ofCode (c : BitVec 3) (rm : BitVec 2) : Option UCvt :=
  match c.toNat with
  | 0 => some (.i32fp32 (rmOf rm))
  | 1 => some (.fp32i32 (rmOf rm))
  | 2 => some (.n32fp32 (rmOf rm))
  | 3 => some (.fp32n32 (rmOf rm))
  | 4 => if rm == 0 then some .lenc6 else none
  | 5 => if rm == 0 then some .lenc12 else none
  | 6 => if rm == 0 then some .scal6 else none
  | _ => some (.fscale (rmOf rm))
def UCvt.code : UCvt → BitVec 3
  | .i32fp32 _ => 0
  | .fp32i32 _ => 1
  | .n32fp32 _ => 2
  | .fp32n32 _ => 3
  | .lenc6 => 4
  | .lenc12 => 5
  | .scal6 => 6
  | .fscale _ => 7
def UCvt.rm : UCvt → BitVec 2
  | .i32fp32 r | .fp32i32 r | .n32fp32 r | .fp32n32 r | .fscale r => r.code
  | .lenc6 | .lenc12 | .scal6 => 0
def UPack.ofCode (c : BitVec 3) : Option UPack :=
  match c.toNat with
  | 0 => some .bf16
  | 1 => some .fp16
  | 2 => some .fp8e4
  | 3 => some .fp8e5
  | _ => none
def UPack.code : UPack → BitVec 3
  | .bf16 => 0
  | .fp16 => 1
  | .fp8e4 => 2
  | .fp8e5 => 3
def UWr.ofCode (c : BitVec 3) : Option UWr :=
  match c.toNat with
  | 0 => some .vd
  | 1 => some .vdh
  | 2 => some .pd
  | _ => none
def UWr.code : UWr → BitVec 3
  | .vd => 0
  | .vdh => 1
  | .pd => 2

/-- The micro-op that fields name; `none` is what `seamld` refuses with reason OPCODE (R208, R216). DEDUCED: bits of K that
R211 requires to be zero in `brf` and `loop` are reserved fields, for which the table of R216 has OPCODE before FLOW, log
entry 75. -/
def decodeUFields (u : UFields) : Option Instr :=
  let ok (b : Bool) (i : Instr) : Option Instr := if b && u.rsv == 0 then some i else none
  let rm0 := u.rm == 0
  let f0 := u.f == 0
  let ab (mk : QReg → Sel → Sel → W32 → Instr) : Option Instr :=
    ok (rm0 && f0 && u.sc == 0 && kOk u.k [u.sa, u.sb]) (mk u.dst u.sa u.sb u.k)
  match u.opc.toNat with
  | 0x00 => ok (u == { opc := 0 }) .uopEnd
  | 0x01 => ab .uopAdd
  | 0x02 => ab .uopSub
  | 0x03 => ab .uopMul
  | 0x04 => ok (rm0 && f0 && kOk u.k [u.sa, u.sb, u.sc]) (.uopMad u.dst u.sa u.sb u.sc u.k)
  | 0x05 => ab .uopAnd
  | 0x06 => ab .uopOr
  | 0x07 => ab .uopXor
  | 0x08 => ab .uopShl
  | 0x09 => ok (rm0 && u.f.toNat < 2 && u.sc == 0 && kOk u.k [u.sa, u.sb]) (.uopShr (u.f == 1) u.dst u.sa u.sb u.k)
  | 0x0A => ok (rm0 && f0 && kOk u.k [u.sa, u.sb, u.sc]) (.uopSel u.dst u.sa u.sb u.sc u.k)
  | 0x0B => ok (rm0 && u.sc == 0 && kOk u.k [u.sa, u.sb]) (.uopCmp (UCmp.ofCode u.f) u.dst u.sa u.sb u.k)
  | 0x10 => ok (f0 && u.sc == 0 && kOk u.k [u.sa, u.sb]) (.uopFadd (rmOf u.rm) u.dst u.sa u.sb u.k)
  | 0x11 => ok (f0 && u.sc == 0 && kOk u.k [u.sa, u.sb]) (.uopFmul (rmOf u.rm) u.dst u.sa u.sb u.k)
  | 0x12 => ok (f0 && kOk u.k [u.sa, u.sb, u.sc]) (.uopFma (rmOf u.rm) u.dst u.sa u.sb u.sc u.k)
  | 0x13 => ab .uopFmin
  | 0x14 => ab .uopFmax
  | 0x15 => ok (rm0 && u.f.toNat < 2 && u.sc == 0 && kOk u.k [u.sa, u.sb])
      (.uopLmul (if u.f == 0 then .lns6 else .lns12) u.dst u.sa u.sb u.k)
  | 0x16 => ok (rm0 && u.sb == 0 && u.sc == 0 && kOk u.k [u.sa] && (!u.f.getLsbD 0 || !u.f.getLsbD 2))
      (.uopLtab (if u.f.getLsbD 0 then .lns12 else .lns6) (u.f.extractLsb' 1 2) u.dst u.sa u.k)
  | 0x18 =>
      match UCvt.ofCode u.f u.rm with
      | none => none
      | some c => ok (u.sc == 0 && (c.usesB || u.sb == 0) && kOk u.k (if c.usesB then [u.sa, u.sb] else [u.sa]))
          (.uopCvt c u.dst u.sa u.sb u.k)
  | 0x19 =>
      match UPack.ofCode u.f with
      | none => none
      | some c => ok (u.sc == 0 && kOk u.k [u.sa, u.sb]) (.uopPack c (rmOf u.rm) u.dst u.sa u.sb u.k)
  | 0x1C => ok (rm0 && f0 && u.sb == 0 && u.sc == 0 && lineKOk u.k)
      (.uopLld u.dst u.sa (u.k.extractLsb' 8 7) (lineOf (u.k.extractLsb' 0 8)))
  | 0x1D => ok (rm0 && f0 && u.dst == 0 && u.sc == 0 && lineKOk u.k)
      (.uopLst u.sa u.sb (u.k.extractLsb' 8 7) (lineOf (u.k.extractLsb' 0 8)))
  | 0x1E =>
      match ShflMode.ofCode (u.f.zeroExtend 4) with
      | none => none
      | some m => ok (rm0 && u.sc == 0 && kOk u.k [u.sa, u.sb]) (.uopShfl m u.dst u.sa u.sb u.k)
  | 0x20 => ok (rm0 && u.f.toNat < 2 && u.dst == 0 && u.sb == 0 && u.sc == 0 && u.k.extractLsb' 6 26 == 0)
      (.uopBrf (u.f == 1) u.sa (u.k.extractLsb' 0 6))
  | 0x21 => ok (rm0 && u.f.toNat < 2 && u.dst == 0 && (u.f == 1 || u.sa == 0) && u.sb == 0 && u.sc == 0
        && u.k.extractLsb' 5 3 == 0 && u.k.extractLsb' 14 18 == 0)
      (.uopLoop (u.f == 1) u.sa (u.k.extractLsb' 8 6) (u.k.extractLsb' 0 5))
  | 0x22 =>
      match UWr.ofCode u.f with
      | none => none
      | some t => ok (rm0 && u.dst == 0 && u.sb == 0 && u.sc == 0 && kOk u.k [u.sa]) (.uopWr t u.sa u.k)
  | _ => none

/-- The micro-op in a control store word. -/
def decodeUop (w : W64) : Option Instr := decodeUFields (UFields.ofWord w)

/-- The fields of a micro-op; `none` for every other instruction. -/
def Instr.uFields : Instr → Option UFields
  | .uopEnd => some { opc := 0x00 }
  | .uopAdd q a b k => some { opc := 0x01, dst := q, sa := a, sb := b, k := k }
  | .uopSub q a b k => some { opc := 0x02, dst := q, sa := a, sb := b, k := k }
  | .uopMul q a b k => some { opc := 0x03, dst := q, sa := a, sb := b, k := k }
  | .uopMad q a b c k => some { opc := 0x04, dst := q, sa := a, sb := b, sc := c, k := k }
  | .uopAnd q a b k => some { opc := 0x05, dst := q, sa := a, sb := b, k := k }
  | .uopOr q a b k => some { opc := 0x06, dst := q, sa := a, sb := b, k := k }
  | .uopXor q a b k => some { opc := 0x07, dst := q, sa := a, sb := b, k := k }
  | .uopShl q a b k => some { opc := 0x08, dst := q, sa := a, sb := b, k := k }
  | .uopShr ar q a b k => some { opc := 0x09, dst := q, sa := a, sb := b, f := if ar then 1 else 0, k := k }
  | .uopSel q a b c k => some { opc := 0x0A, dst := q, sa := a, sb := b, sc := c, k := k }
  | .uopCmp t q a b k => some { opc := 0x0B, dst := q, sa := a, sb := b, f := t.code, k := k }
  | .uopFadd rm q a b k => some { opc := 0x10, dst := q, sa := a, sb := b, rm := rm.code, k := k }
  | .uopFmul rm q a b k => some { opc := 0x11, dst := q, sa := a, sb := b, rm := rm.code, k := k }
  | .uopFma rm q a b c k => some { opc := 0x12, dst := q, sa := a, sb := b, sc := c, rm := rm.code, k := k }
  | .uopFmin q a b k => some { opc := 0x13, dst := q, sa := a, sb := b, k := k }
  | .uopFmax q a b k => some { opc := 0x14, dst := q, sa := a, sb := b, k := k }
  | .uopLmul t q a b k => some { opc := 0x15, dst := q, sa := a, sb := b, f := if t == .lns6 then 0 else 1, k := k }
  | .uopLtab t el q a k =>
    some { opc := 0x16, dst := q, sa := a, f := el ++ BitVec.ofBool (t == .lns12), k := k }
  | .uopCvt c q a b k => some { opc := 0x18, dst := q, sa := a, sb := b, f := c.code, rm := c.rm, k := k }
  | .uopPack c rm q a b k => some { opc := 0x19, dst := q, sa := a, sb := b, f := c.code, rm := rm.code, k := k }
  | .uopLld q a off la => some { opc := 0x1C, dst := q, sa := a, k := lineK off la }
  | .uopLst a b off la => some { opc := 0x1D, sa := a, sb := b, k := lineK off la }
  | .uopShfl m q a b k => some { opc := 0x1E, dst := q, sa := a, sb := b, f := m.code.extractLsb' 0 3, k := k }
  | .uopBrf z a t => some { opc := 0x20, sa := a, f := if z then 1 else 0, k := brfK t }
  | .uopLoop bd a last cnt => some { opc := 0x21, sa := a, f := if bd then 1 else 0, k := loopK last cnt }
  | .uopWr t a k => some { opc := 0x22, sa := a, f := t.code, k := k }
  | _ => none

/-- The control store word of a micro-op. -/
def encodeUop (i : Instr) : Option W64 := i.uFields.map UFields.word

/-- A device step: neither a thread instruction nor a micro-op, which come about only as a bundle's or a seam's. -/
def Instr.isDeviceStep (i : Instr) : Bool :=
  i.enc.isNone && i.uFields.isNone && (match i with
    | .illegalInstruction _ => false
    | _ => true)

/-- The words of a well-formed instruction; a micro-op is its 64-bit word, low half first (R206). -/
def encode (i : Instr) : List W32 :=
  match i.enc, encodeUop i with
  | some e, _ => e.words
  | none, some w => [w.extractLsb' 0 32, w.extractLsb' 32 32]
  | none, none => []

/-- The instruction read from the bits `w`, bit 0 the least significant bit of the first word; bits above `nbits`
are zero. -/
def decodeTableWord (nbits w : Nat) : Option Instr :=
  let v := w % 2 ^ nbits
  let word (k : Nat) : W32 := BitVec.ofNat 32 (v >>> (32 * k))
  match decode (bytesOfWords [word 0, word 1, word 2, word 3, word 4]) with
  | .ok i => some i
  | .error _ => none

end Sys2Proof
end

