-- ==== Sys2Proof/Config.lean ====
section
/-! DEFINITION. What the spec leaves to an implementation or leaves open: constants without a body, so that no proof
can see their values, and the fixed figures of R3. -/

namespace Sys2Proof.Config

/-- The turn taken after `n` turns: which unit moves next is fixed by no rule (R355, R354); log entry 1. -/
opaque nextTurn : Nat → Turn
/-- A value the spec leaves open, fresh for every reading counted by `State.frees`; log entry 2. -/
opaque freeBits : Nat → BitVec 128
/-- A choice the spec leaves open (which of two allowed outcomes), fresh for every reading; log entry 2. -/
opaque freeBit : Nat → Bool
/-- ID.STEP: the silicon stepping (R318). -/
opaque stepping : BitVec 8
/-- The firmware in place (R320): of image `k`, 1 to 12, the SHA-384 digest, the security version number, and whether its
RSASSA-PSS and its SLH-DSA signature over the digest verify under the keys whose digests the fuses hold. -/
opaque imageDigest : Nat → BitVec 384
opaque imageVersion : Nat → Nat
opaque imageRsa : Nat → Bool
opaque imageSlh : Nat → Bool
/-- The fuses: the lowest accepted version, and the digest of the fused state (R320). -/
opaque fusedVersion : Nat
opaque fusedDigest : BitVec 384
/-- SHA-384. -/
opaque sha384 : List Byte → BitVec 384
/-- The certificate chain of SPDM slot 0, which ends in the device key (R321). -/
opaque certChain : List Byte
/-- The SHA-384 digest of the certificate chain. -/
opaque certDigest : BitVec 384
/-- The nonce of the `n`th SPDM answer that carries one. -/
opaque nonce : Nat → BitVec 256
/-- The RSASSA-PSS 3072 signature of the device key over a transcript (R321). -/
opaque sign : List Byte → BitVec 3072
/-- How far a core's `%clock` is ahead: readings of two cores in one cycle differ by at most 2 (R32); log entry 2. -/
opaque clockSkew : Nat → Fin 3
/-- The page that Knanos chooses on a stack for a page it moves, fresh for every move (R236); log entry 2. -/
opaque pagePlace : Nat → Nat
/-- The detail with which an encoding traps that begins at a code reference that is no multiple of 4 (R71, R89). DESIGN CHOICE:
a free value, log entry 59. -/
opaque misalignedDetail : W32 → Detail
/-- Cores of the package (R3). -/
def cores : Nat := 192
/-- Slots of a core. -/
def slots : Nat := 2048
/-- Frames of a core's line store, and peg tokens of a core (R38, R217). -/
def frames : Nat := 2048
/-- Bytes of scratchpad of a core. -/
def scratchBytes : Nat := 0x80000
/-- Cycles for which the detector's condition must hold (R223). -/
def detectorCycles : Nat := 4096
/-- Cycles after which an open holds younger opens from the pool (R222). -/
def agedWait : Nat := 1024
/-- Requests that a slice, a core, or a done-window tracks (R226, R248). -/
def requestEntries : Nat := 1024
/-- Waiters of `sigw` kept per slice (R228). -/
def sigwWaiters : Nat := 8192
/-- `sum` holding records per slice (R229). -/
def sumRecords : Nat := 8192
/-- First byte of the Knanos region, where the code-root array lies (R327). -/
def codeRoots : Nat := 0x0000000BE0000000
/-- First byte of the dump region (R302, R327). -/
def dumpBase : Nat := 0x0000000BF0000000
/-- End of the dump region. -/
def dumpEnd : Nat := 0x0000000C00000000
/-- Core cycles in 1 µs. -/
def cyclesPerUs : Nat := 600

end Sys2Proof.Config
end

