-- ==== Sys2Proof/Machine/State.lean ====
section
/-! DEFINITION. The state of the DMS-IX2 as plain data: slots, crews, cores, stacks, links, Knanos, the register
window and memory, with the state right after reset. -/

namespace Sys2Proof.Machine

/-- A line of 128 bytes; byte b is bits 8b + 7 … 8b. -/
abbrev Line := BitVec 1024
/-- One bit per nibble of a line (R217). -/
abbrev Nibbles := BitVec 256

/-- The five counter classes of R28. -/
inductive Cls where
  | o | h | c | m | s
  deriving DecidableEq, Repr, Inhabited

/-- A counted operation of a slot: the classes keep these in issue order, and the count of R28 is the length. -/
structure Op where
  id : Nat
  /-- Completed, but not yet reported because an earlier one of its class has not completed (R28). -/
  done : Bool
  /-- A value-returning H access (R30). -/
  returns : Bool
  /-- The predicate that its completion writes, once it is reported (R191, R192). -/
  pred : Option (PredNo × Bool)
  deriving DecidableEq, Repr, Inhabited

/-- What an instruction in progress holds its slot on (R274). -/
inductive Hold where
  | free
  /-- In `sigw`, until the request's read of the word at a virtual address is met (R190). -/
  | sigw (req va : Nat)
  /-- In a `pause` of a length until the cycle (R202). -/
  | pause (till len : Nat)
  /-- In a collective of the team (R157). -/
  | team (k : Nat)
  /-- In `exit` (R152). -/
  | exiting
  /-- In an `open` that waits for tokens, a frame or a walk (R127, R220, R242). -/
  | opening (wid : Nat)
  /-- In a running seam (R212). -/
  | seam
  /-- In an atomic that executes in place, until the load-store unit's cycles end (R138, R139). -/
  | lsu (req : Nat)
  /-- Parked at a cycle, entering the handler at another (R286). -/
  | parked (at_ enter : Nat)
  /-- Stopped by a team halt (R289). -/
  | halted
  deriving DecidableEq, Repr, Inhabited

/-- Where an address lies: this device's stacks, a peer's stacks, or host memory (R39 SPACE). -/
inductive Dest where
  | dev
  | peer (p : Nat)
  | host
  deriving DecidableEq, Repr, Inhabited

/-- A bundle the picker has formed: the instruction acts on these slots of one core (R22). -/
structure Bundle where
  core  : Nat
  quad  : Nat
  /-- Ascending slot numbers. -/
  slots : List Nat
  pc    : W32
  len   : Nat
  deriving DecidableEq, Repr, Inhabited

/-- A buffered `lst` of a running seam (R209). -/
structure SeamStore where
  la   : LineOp
  /-- The way that it named when it executed. -/
  way  : Nat
  off  : Nat
  data : W32
  deriving DecidableEq, Repr, Inhabited

/-- An execution of `xseam` in one lane (R212): everything in it is lost when the seam ends or is abandoned. -/
structure SeamRun where
  /-- The `xseam` issue this run belongs to. -/
  group : Nat
  start : Nat
  words : List W64
  idx   : Nat
  /-- `q0` to `q7` (R46). -/
  q     : List W32
  /-- The selects 0x8 to 0xD, read at issue (R207): va, vb, vc, vd, vdh, imm. -/
  srcs  : List W32
  a     : Reg
  b     : Reg
  c     : Reg
  d     : Reg
  p     : PredNo
  buf   : List SeamStore
  lo    : Option W32
  hi    : Option W32
  pr    : Option Bool
  /-- A loop in progress: first word of the body, last word, iterations left (R211). -/
  loop  : Option (Nat × Nat × Nat)
  deriving DecidableEq, Repr, Inhabited

/-- A fetched code line: its bytes, and the code length of its object (R199, R305). -/
structure CodeLine where
  data : Line
  len  : Nat
  deriving DecidableEq, Repr, Inhabited

/-- A slot (R20). -/
structure Slot where
  occupied : Bool
  /-- It has held an item since its crew was bound, so the next fill is a refill (R44). -/
  used  : Bool
  bind  : Nat
  item  : W32
  /-- Cycle of the current item's fill: `%age` is its low 32 bits, and the picker's age (R274). -/
  fill  : Nat
  pc    : W32
  regs  : AMap W32
  /-- The eight handler registers, under their numbers 240 to 247 (R282). -/
  bank  : AMap W32
  /-- Poisoned general and bank registers (R300). -/
  poison : AMap Bool
  bankPoison : AMap Bool
  preds : BitVec 8
  opsO : List Op
  opsH : List Op
  opsC : List Op
  opsM : List Op
  opsS : List Op
  tcmp  : W64
  ostat : W32
  tpc   : W32
  tcause : W32
  tval  : W64
  /-- Traps are masked: the slot is in its handler (R281). -/
  masked : Bool
  /-- Retry mode (R123). -/
  retry : Bool
  hold  : Hold
  /-- The slot is not ready before this cycle. -/
  notBefore : Nat
  /-- The fetched version of the code line the slot stays in (R199), with the line's code reference. -/
  stay  : Option (W32 × CodeLine)
  /-- Cycles in which it issued last, newest first, at most eight (R289 SKID). -/
  recent : List Nat
  seam  : Option SeamRun
  /-- It parked and is still in the handler of that fault: the core's halt of this slot ends with its `rte`. -/
  parker : Bool
  /-- The line register of the `open` that it parked at (R123). -/
  openPark : Option (BitVec 4)
  deriving DecidableEq, Repr, Inhabited

/-- The state of a way (R35); a frame way is filling or bound as its frame is (R221). -/
inductive WayKind where
  | empty
  | frame (f : Nat)
  | home
  | scratch
  | stale
  deriving DecidableEq, Repr, Inhabited

/-- A way of a line register with the records of R120. -/
structure Way where
  kind : WayKind
  rd   : Bool
  wr   : Bool
  fmt  : BitVec 4
  atom : Bool
  /-- Virtual address of the line, or its scratch address. -/
  va   : Nat
  dest : Dest
  /-- Physical (or host bus, or scratch) address of the line. -/
  pa   : Nat
  /-- The page class was `sum`. -/
  sum  : Bool
  /-- Step 3 of a hand-over met it while its frame was filling: it turns stale when the fill arrives (R221). -/
  moved : Bool
  deriving DecidableEq, Repr, Inhabited

/-- A line register of a crew: four ways, and the lanes' tags; an unlisted lane's tag is not valid (R35). -/
structure LineReg where
  ways : AMap Way
  tags : AMap (BitVec 2)
  deriving DecidableEq, Repr, Inhabited

/-- Crew state: line registers and tokens (R37, R38). -/
structure Crew where
  lregs : AMap LineReg
  /-- Floor tokens in use, Uf. -/
  floorUsed : Nat
  /-- Pool tokens drawn, D. -/
  drawn : Nat
  deriving DecidableEq, Repr, Inhabited

/-- KIND of a frame (R217). -/
inductive FrameKind where
  | own | fixed | sum
  deriving DecidableEq, Repr, Inhabited

/-- A frame that is not free (R217, R218). -/
structure Frame where
  dest   : Dest
  /-- Address of the line. -/
  line   : Nat
  kind   : FrameKind
  refs   : BitVec 12
  valid  : Nibbles
  dirty  : Nibbles
  poison : Nibbles
  data   : Line
  /-- The number of the fill in flight: the frame is filling, or abandoned. -/
  fill   : Option Nat
  abandoned : Bool
  ctx    : Nat
  deriving DecidableEq, Repr, Inhabited

/-- What a macro holds (R182, R184). -/
inductive MacroB where
  | none | lns6 | sparse | lns12
  deriving DecidableEq, Repr, Inhabited

/-- A matrix macro (R182 to R187). -/
structure Macro where
  /-- The kind of B for the checks of R184, set when an `mload` issues. -/
  kind   : MacroB
  /-- The B lines it holds, column by column. -/
  rows   : AMap Line
  /-- Bytes of B that were poisoned when read (R300). -/
  poisoned : Bool
  fenced : Bool
  /-- The contexts whose binds held it when it was fenced (R186). -/
  fencedIn : List Nat
  /-- Operations since the last self test (R186), and the cycle in which the next one ends. -/
  count  : Nat
  testAt : Nat
  deriving DecidableEq, Repr, Inhabited

/-- STATE of a bind record (R267). -/
inductive BindState where
  | free | binding | running | draining
  deriving DecidableEq, Repr, Inhabited

/-- A bind record (R267), with what the darner and Knanos keep beside it. -/
structure Bind where
  state  : BindState
  stop   : Bool
  exh    : Bool
  slots  : Nat
  priv   : Bool
  prio   : Nat
  ctx    : Nat
  width  : BitVec 2
  regs   : Nat
  floor  : Nat
  pool   : Nat
  hcnt   : Nat
  htab   : Nat
  entry  : W32
  refill : W32
  crews  : BitVec 64
  asid   : BitVec 14
  macros : BitVec 16
  use    : BitVec 8
  give   : BitVec 8
  root   : Nat
  lrec   : Nat
  h0     : BitVec 256
  h1     : BitVec 256
  /-- Handle entries cached since the bind (R40). -/
  hcache : AMap (BitVec 256)
  /-- The launch counter (R275). -/
  counter : BitVec 32
  /-- A claim in flight asks for so many items (R271). -/
  claim  : Option Nat
  /-- The reply of a performed claim: old, g, k. -/
  claimed : Option (Nat × Nat × Nat)
  /-- The unbind's write-backs have started, and the counter is awaited (R269). -/
  unbound : Bool
  deriving DecidableEq, Repr, Inhabited

/-- A participant of a phase (R157 to R160). -/
structure Arrival where
  slot  : Nat
  /-- Its key is the phase's. -/
  same  : Bool
  inst  : Instr
  value : W64
  /-- The slot number that a `tbcast` names. -/
  sel   : Nat
  /-- Length of its instruction. -/
  len   : Nat
  deriving DecidableEq, Repr, Inhabited

/-- An open phase of a team (R157). -/
structure Phase where
  key      : Nat
  /-- Members when it opened that have neither left nor exited since. -/
  throughout : List Nat
  expected : List Nat
  arrived  : List Arrival
  /-- The masks M_c presented by the first arrivals of crews. -/
  masks    : AMap W32
  deriving DecidableEq, Repr, Inhabited

/-- A team of a core (R23, R155). -/
structure Team where
  bind    : Nat
  members : List Nat
  phase   : Option Phase
  deriving DecidableEq, Repr, Inhabited

/-- Where a member of a halt's set stands (R287). -/
inductive MemberState where
  /-- The halt has not taken effect in it. -/
  | running
  /-- Deferred by a masked handler, a collective, a seam or an open (R284, R287). -/
  | deferred
  /-- Stopped, with its record written or, as a parked slot, without one (R289, R291). -/
  | stopped
  deriving DecidableEq, Repr, Inhabited

/-- A team halt (R287). -/
structure Halt where
  slot    : Nat
  /-- The cycle P. -/
  cycle   : Nat
  members : List (Nat × MemberState)
  /-- The members that it found running a seam issued at or before P, which counts as one instruction of their skid (R213). -/
  inSeam  : List Nat
  deriving DecidableEq, Repr, Inhabited

/-- A slot of the bundle of an `open` that has not faulted: the way its line goes to, and whether its guard holds. -/
structure OpenLane where
  slot : Nat
  way  : Option Nat
  live : Bool
  deriving DecidableEq, Repr, Inhabited

/-- A line that an open binds. -/
structure OpenLine where
  /-- The way it goes to. -/
  idx  : Nat
  way  : Way
  fkind : Option FrameKind
  fetch : Bool
  deriving DecidableEq, Repr, Inhabited

/-- An `open` that waits for tokens, or holds its tokens and waits for a frame, or waits for a walk held by a
hand-over (R127, R220, R242). -/
structure OpenWait where
  wid   : Nat
  /-- Cycle in which it began to wait. -/
  since : Nat
  crew  : Nat
  lreg  : BitVec 4
  p     : PredNo
  /-- Its O operation, the same in every slot of its bundle. -/
  op    : Nat
  pcLen : Nat
  need  : Nat
  /-- It has its tokens (from the floor, from the pool) and waits for frames. -/
  taken : Bool
  /-- A walk read on a stack in hand-over is awaited: the instruction is then looked at again. -/
  walk  : Option Instr
  lines : List OpenLine
  lanes : List OpenLane
  ctx   : Nat
  /-- It runs in retry mode, and recalls nothing (R123). -/
  keep  : Bool
  /-- An `sopen`. -/
  isSopen : Bool
  deriving DecidableEq, Repr, Inhabited

/-- An engine operation that has issued (R172). -/
structure EngineOp where
  id    : Nat
  slot  : Nat
  opId  : Nat
  bind  : Nat
  /-- The instruction it came from: `copy`, `mload`, `mma` or `tfree`. -/
  inst  : Instr
  /-- The parameter block read at issue. -/
  block : Line
  /-- Tiles and macros it names; it starts after earlier operations that name one of them (R173). -/
  tiles : List Nat
  macros : BitVec 16
  /-- Byte addresses of offset 0 of the two sides of a `copy`, and its runs: offsets and format tags. -/
  srcBase : Nat
  dstBase : Nat
  runs  : List (Int × Int × Nat × Nat)
  /-- The lines it reads and writes, each a place as a way names it. -/
  src   : List Way
  dst   : List Way
  /-- Images of source lines read so far, by place in the list. -/
  reads : AMap (Line × Nibbles)
  /-- Lines asked for from a peer or the host. -/
  asked : List Nat
  /-- Destination lines written so far. -/
  written : List Nat
  /-- It has started, an `mload` or `mma`: in a cycle, with a fenced macro or not (R182, R186, R187). -/
  began : Option (Nat × Bool)
  deriving DecidableEq, Repr, Inhabited

/-- An instruction in the load-store unit of a quadrant (R139): what leaves it, or executes in place, at the end of
the unit's cycles. -/
structure LsuOp where
  id    : Nat
  quad  : Nat
  /-- The cycle at whose end it leaves. -/
  till  : Nat
  inst  : Instr
  /-- The lanes that execute in place, with what was read at issue: slot, way, offset, operand, second operand. -/
  args  : List (Nat × Way × Nat × W64 × W64)
  /-- The requests that leave for homes. -/
  reqs  : List Nat
  pcLen : Nat
  deriving DecidableEq, Repr, Inhabited

/-- A cached translation (R234): tag, page, the leaf entry, and the route to its stack's owner die. -/
structure TlbEntry where
  asid : BitVec 14
  /-- Virtual page number and level, 3 or 4. -/
  page  : Nat
  level : Nat
  leaf : BitVec 128
  /-- The space whose leaf rules the walk applied (R232). -/
  dest : Dest
  route : Nat
  deriving DecidableEq, Repr, Inhabited

/-- A non-leaf entry that a walker keeps (R234): the place it was read from, and the entry. -/
structure NodeEntry where
  asid : BitVec 14
  addr : Nat
  node : BitVec 128
  deriving DecidableEq, Repr, Inhabited

/-- A core. A frame, slot, way, tile or cache line that is not listed is as at reset. -/
structure Core where
  slots   : AMap Slot
  crews   : AMap Crew
  frames  : AMap Frame
  scratch : AMap Byte
  scratchPoison : AMap Bool
  tiles   : AMap W64
  macros  : AMap Macro
  cstore  : AMap W64
  cstorePoison : AMap Bool
  /-- Seam tables by context (R205). -/
  seams   : AMap (AMap W32)
  /-- Control store regions by context: region number (R204). -/
  regions : AMap Nat
  binds   : AMap Bind
  /-- Code roots adopted, by context (R303, R314). -/
  roots   : AMap (BitVec 256)
  /-- Instruction cache (R199): context times 2^32 plus code reference of the line. -/
  icache  : AMap CodeLine
  teams   : AMap Team
  halts   : List Halt
  waits   : List OpenWait
  engine  : List EngineOp
  lsu     : List LsuOp
  /-- Cycle until which each quadrant's load-store unit is busy. -/
  lsuBusy : AMap Nat
  fires   : BitVec 16
  /-- Consecutive cycles for which the detector's condition has held (R223). -/
  detect  : Nat
  /-- Cycle of the last bundle issued, its quadrant, the bundles of that quadrant in the cycle, the first's class. -/
  issueCycle : Nat
  issueQuad  : Nat
  issueCount : Nat
  issueClass : Nat
  /-- The cycle after that of the last claim sent (R271). -/
  claimAt : Nat
  /-- Values that lanes of an `xseam` passed at a `shfl` micro-op: group, slot, index, value (R210). -/
  seamVals : List (Nat × Nat × Nat × W32)
  /-- O operations of opens that need no fill, with the cycle in which they complete (R28, R125): slot, operation. -/
  openDue : List (Nat × Nat × Nat)
  /-- The cycle after the last one whose issue is over (R45, R222): what follows issue has begun in it. -/
  closed : Nat
  /-- The L1 TLB (R234). -/
  l1 : List TlbEntry
  deriving DecidableEq, Repr, Inhabited

/-- Kinds of home requests (R225, R245) with what they carry. -/
inductive ReqKind where
  | fill (frame : Nat)
  | writeBack (mask poison : Nibbles) (data : Line)
  /-- Lanes: slot, format tag, offset, and the instruction that says size or element type and destination. -/
  | read (lanes : List (Nat × BitVec 4 × Nat)) (inst : Instr) (sum : Bool)
  | write (lanes : List (Nat × BitVec 4 × Nat × List W32)) (inst : Instr)
  /-- The words of one line that a bundle's atomic, reduction or signal names: address offset, and the lanes' operands
  (R138, R143). -/
  | atom (bytes : Nat) (op : AtomOp) (inst : Instr) (words : List (Nat × List (Nat × W64 × W64)))
  | red (bytes : Nat) (op : RedOp) (words : List (Nat × W64))
  | sig (bytes : Nat) (words : List (Nat × W64))
  | sigw (off bytes : Nat) (slot : Nat) (least : W64)
  | engRead (op line : Nat)
  | engWrite (op line : Nat) (data : Line) (mask poison : Nibbles)
  | walk (wid : Nat)
  | sum (data : Line)
  | claim (bind k : Nat)
  /-- A hand-over asked for by `stkgive`, in the thread's home order (R191). -/
  | give (stack die : Nat) (p : PredNo)
  /-- A `stkown` on its way to the arbiter and back (R192). -/
  | own (stack : Nat) (p : PredNo)
  /-- A message written to host memory (R322). -/
  | message (w0 w1 : W64)
  /-- From outside: a peer or a host channel, with its SEQ (R251, R256). -/
  | outer (chan : Nat) (seq : BitVec 16) (op : OuterOp)
  deriving DecidableEq, Repr, Inhabited

/-- Where a request stands on its way. -/
inductive Stage where
  /-- In the load-store unit (R139). -/
  | unit
  /-- Held at its source: no entry is free (R226). -/
  | source
  /-- Crossing to the other die on a module. -/
  | out (m : Nat)
  /-- Leaving on a link of this device: port 0 to 15 of IFL, or 16 for DCL (R250, R253). -/
  | link (l : Nat)
  /-- At a peer or the host, which it reached by a link. -/
  | away (l : Nat)
  /-- At its slice, or on its way there until the tick in which it arrives. -/
  | port
  /-- In the hold queue of a hand-over (R241). -/
  | held
  /-- Answered "not met" and to be sent again from the cycle (R228). -/
  | resend (at_ : Nat)
  /-- A `sigw` waiting at the slice (R228). -/
  | waiter
  /-- Performed; its reply crosses back on a module. -/
  | back (m : Nat)
  /-- Performed; its reply is at the source's die. -/
  | here
  deriving DecidableEq, Repr, Inhabited

/-- A home, peer or host request. Requests of one slot are performed in the order of their numbers (R143, R227). -/
structure Req where
  id    : Nat
  core  : Nat
  /-- The slots whose channel it belongs to; none for agents. -/
  lanes : List Nat
  kind  : ReqKind
  dest  : Dest
  pa    : Nat
  stage : Stage
  /-- Lanes that were in their handlers when they issued it: 240 to 247 name the bank (R282). -/
  masked : List Nat
  /-- Counted operations of slots: slot, class, operation; for a fill, the opens that wait for it. -/
  ops   : List (Nat × Cls × Nat)
  /-- Bind whose launch counter it counts in (R275). -/
  counted : Option Nat
  /-- SEQ of its source (R245). -/
  seq   : BitVec 16
  agent : BitVec 7
  srcDie : Nat
  /-- Cycle of sending, for the 1 ms of R251. -/
  sent  : Nat
  /-- The values for registers: slot, register, value, poisoned. -/
  result : List (Nat × Nat × W32 × Bool)
  /-- Outcome for a predicate or a met `sigw`. -/
  ok    : Bool
  /-- The squall reset of its context discards its reply (R296). -/
  dropped : Bool
  /-- The fabric tick in which it reaches the port of its stack (R227, R241). -/
  arrives : Nat
  /-- The module on which it was sent to the other die. -/
  via : Option Nat
  deriving DecidableEq, Repr, Inhabited

/-- A done-window entry (R248): receiving die, source agent and its die, SEQ, the request, and its reply with its header slot. -/
structure Window where
  die    : Nat
  agent  : BitVec 7
  srcDie : Nat
  seq    : BitVec 16
  id     : Nat
  /-- A line read: it is performed again and its data is not held. -/
  line   : Bool
  /-- Slots of its reply, its header, and the values it carries. -/
  slots  : Nat
  head   : BitVec 128
  reply  : List (Nat × Nat × W32 × Bool)
  deriving DecidableEq, Repr, Inhabited

/-- A `sum` holding record (R229). -/
structure SumRec where
  line : Nat
  core : Nat
  data : Line
  deriving DecidableEq, Repr, Inhabited

/-- The arbiter of a stack (R239). -/
structure Arbiter where
  owner  : Nat
  to_     : Nat
  step   : Nat
  core   : Nat
  hcount : BitVec 24
  /-- The `stkgive` request that started the hand-over. -/
  req    : Nat
  deriving DecidableEq, Repr, Inhabited

/-- STATE of a die-to-die module (R247). -/
inductive ModState where
  | training | active | retraining | down
  deriving DecidableEq, Repr, Inhabited

/-- A message of an agent whose effect at the home stands in the step that needs it (R244, R245; log entry 15). -/
structure Errand where
  agent : BitVec 7
  kind  : BitVec 8
  seq   : BitVec 16
  ty    : BitVec 5
  op    : BitVec 4
  /-- The DATA slots behind its header. -/
  data  : Nat
  /-- The physical address; in a reply, the status. -/
  pa    : Nat
  /-- The DATA slots of its reply; a reply has none. -/
  reply : Option Nat
  deriving DecidableEq, Repr, Inhabited

/-- Where such a message stands: held at its source for want of a window entry, sent, or known to the other die's window. -/
inductive ErrandStage where
  | held | sent | known
  deriving DecidableEq, Repr, Inhabited

/-- Such a message whose reply its source, a die, does not have yet (R248). -/
structure AgentReq where
  die   : Nat
  errand : Errand
  stage : ErrandStage
  /-- The module by which it was sent. -/
  via   : Nat
  deriving DecidableEq, Repr, Inhabited

/-- What a slot of a flit belongs to (R245): a request or its reply, with its header slot, or another message. -/
inductive Msg where
  | req (id : Nat) (head : BitVec 128)
  | reply (id : Nat) (head : BitVec 128)
  /-- A window acknowledge of an agent of a die, up to a SEQ (R248). -/
  | ack (agent : BitVec 7) (die : Nat) (seq : BitVec 16)
  | errand (e : Errand)
  /-- The reply to a request of a peer or of the host (R252, R256): channel, SEQ, status, and its DATA slots. -/
  | answer (chan : Nat) (seq : BitVec 16) (status data : Nat)
  deriving DecidableEq, Repr, Inhabited

/-- A flit: number, and its messages with the slots it carries of each and whether it carries the last (R245). -/
structure Flit where
  seq  : Nat
  body : List (Msg × Nat × Bool)
  /-- It has been sent again (R340). -/
  replay : Bool
  deriving DecidableEq, Repr, Inhabited

/-- One direction of a module (R246, R340). -/
structure Direction where
  /-- Messages queued: slots of each still to send. -/
  queue  : List (Msg × Nat)
  next   : Nat
  /-- Flits on the way. -/
  wire   : List Flit
  /-- The replay buffer: flits not acknowledged, at most 64. -/
  buffer : List Flit
  /-- The receiver's next number. -/
  expect : Nat
  /-- Flits received in order and not acknowledged, and the tick the oldest arrived. -/
  unacked : Nat
  oldest : Nat
  /-- Acknowledgements on their way to the sender: the number up to which flits were received. -/
  acks   : List Nat
  /-- A retry was asked for, and later flits are discarded until the replay. -/
  discarding : Bool
  /-- The flit expected next has been received with a protocol error (R245). -/
  badForm : Bool
  deriving DecidableEq, Repr, Inhabited

/-- A die-to-die module (R247). -/
structure Module where
  state   : ModState
  width   : BitVec 2
  replays : BitVec 16
  crcErr  : BitVec 16
  retrains : BitVec 8
  /-- Ticks of the last rises of REPLAYS (R247). -/
  rises   : List Nat
  /-- The training was started by 16 replays within 1 ms. -/
  forced  : Bool
  /-- Direction 0 sends from die 0, direction 1 from die 1. -/
  d0 : Direction
  d1 : Direction
  deriving DecidableEq, Repr, Inhabited

/-- A link to outside: a port of IFL, or DCL (R252, R255). -/
structure OutLink where
  /-- What this device sends. -/
  out : Direction
  /-- The number of the next flit from outside. -/
  expect : Nat
  /-- A flit from outside failed: it and every later one are discarded until the replay. -/
  discarding : Bool
  /-- That flit had a protocol error, which its replay would repeat (R245, R256). -/
  badForm : Bool
  /-- Down: it carries nothing more (R245). -/
  down : Bool
  deriving DecidableEq, Repr, Inhabited

/-- A reply from outside that its source has not acknowledged there (R252, R257): where it came from and by which link,
and the source and SEQ of the request. -/
structure Receipt where
  dest   : Dest
  link   : Nat
  agent  : BitVec 7
  srcDie : Nat
  seq    : BitVec 16
  deriving DecidableEq, Repr, Inhabited

/-- A registered context (R325), and the state of its squall reset. -/
structure Ctx where
  registered : Bool
  root  : Nat
  use   : BitVec 8
  give  : BitVec 8
  /-- PA of the reset area (R297). -/
  area  : Nat
  asid  : BitVec 14
  /-- Resets since registration (R297 SEQ). -/
  resets : Nat
  /-- Where its import switches place tables: the next free area. -/
  switching : Bool
  /-- Cores that have not adopted yet (R314). -/
  adopt : List Nat
  /-- The table that a switch replaced: address and IMPN. -/
  oldTable : Nat × Nat
  deriving DecidableEq, Repr, Inhabited

/-- How far a squall reset has come (R296). -/
inductive ResetStage where
  | asked
  /-- Steps 1 to 3 are done, and what step 4 drops is gone: the other accesses are performed. -/
  | performing
  /-- Step 5 is done: hand-overs run to their end. -/
  | giving
  /-- Step 7 is done. -/
  | cleared
  deriving DecidableEq, Repr, Inhabited

/-- A squall reset asked for or under way (R296, R297). -/
structure Squall where
  ctx   : Nat
  cause : Nat
  /-- Core and slot of a double fault, and its record. -/
  slot  : Option (Nat × Nat)
  tcause : W32
  tpc   : W32
  tval  : W64
  stage : ResetStage
  /-- The accesses of step 4 that are still to be performed, and the hand-overs of step 6 that are still to end. -/
  waits : List Nat
  gives : List Nat
  clock : Nat
  /-- LREC, CURSOR and lost items of each launch. -/
  launches : List (Nat × Nat × List Nat)
  cancelled : Nat
  deriving DecidableEq, Repr, Inhabited

/-- A registered launch queue (R258). -/
structure Queue where
  ctx  : Nat
  ring : Nat
  s    : Nat
  tail : Nat
  head : Nat
  /-- Records Knanos knows of: TAIL as last read. -/
  seen : Nat
  /-- Number of the next record to read. -/
  next : Nat
  /-- HEAD: records that are final, as are all before them. -/
  done : Nat
  /-- A queue of Knanos itself (R262 PRIV). -/
  own  : Bool
  /-- Cycle of the last reading of TAIL (R259). -/
  polled : Nat
  deriving DecidableEq, Repr, Inhabited

/-- Where a launch stands with Knanos. -/
inductive LState where
  /-- Read and checked; its wait condition is not met. -/
  | waiting
  /-- It would start, but for an earlier record of its queue that has neither started nor been refused (R260). -/
  | behind
  | ready
  | running
  /-- STOP is set. -/
  | stopping
  /-- STATE 4 is written. -/
  | saved
  /-- Refused, with WHY; completion follows (R276). -/
  | refused (why : Nat)
  /-- Completion: STATUS performed, then the word, then the message. -/
  | status | word | message
  /-- Its message waits for the ring or is sent. -/
  | sending
  | final
  /-- Its context takes a squall reset whose record is not yet written (R297). -/
  | resetting
  deriving DecidableEq, Repr, Inhabited

/-- A launch Knanos has read: the record, as one event (R259). CURSOR and STATUS stand in memory alone. -/
structure Launch where
  lrec  : Nat
  record : Line
  queue : Nat
  num   : Nat
  ctx   : Nat
  state : LState
  started : Bool
  /-- A number given when it started, to tell it from later import switches (R315). -/
  stamp : Nat
  /-- A number given when it became ready to start, behind no earlier record of its queue, or to resume (R260, R270). -/
  since : Nat
  /-- The final STATUS word. -/
  final : W64
  /-- Cycle in which its drain's deadline expires (R293). -/
  deadline : Option Nat
  /-- Hints have been applied (R265). -/
  hinted : Bool
  deriving DecidableEq, Repr, Inhabited

/-- A command pending, or executed and waiting for its reply (R323, R324). -/
structure Command where
  pa   : Nat
  done : Bool
  code : BitVec 8
  tag  : BitVec 16
  result : W64
  /-- The context whose squall reset or import switch belongs to its effect (R324). -/
  awaits : Option Nat
  deriving DecidableEq, Repr, Inhabited

/-- A message waiting for the ring (R322), and the launch it belongs to. -/
structure Message where
  w0 : W64
  w1 : W64
  lrec : Option Nat
  deriving DecidableEq, Repr, Inhabited

/-- A seam image that a code object carries (R308): seam number and words. -/
structure SeamImage where
  ctx : Nat
  obj : Nat
  n   : Nat
  words : List W64
  deriving DecidableEq, Repr, Inhabited

/-- Reasons for which a step stops the machine. -/
inductive Fault where
  /-- Raised by `peerRequest`: a peer asks for an address that no stack backs (R5); the spec gives no effect. Safe. -/
  | unbackedPeerAddress
  deriving DecidableEq, Repr

/-- Reasons for which a step has no meaning. -/
inductive Refusal where
  /-- Raised by an arm of `exec` whose instruction has no meaning in this model yet. Safe. -/
  | notModelled (mnemonic : String)
  deriving DecidableEq, Repr

/-- The package. -/
structure State where
  /-- PHASE, FAILST and RREASON of BSTAT (R318, R319). -/
  phase   : BitVec 8
  failst  : BitVec 8
  rreason : BitVec 8
  /-- Fabric ticks since the device entered phase 0x05: `%clock` is a third of it (R32). -/
  tick    : Nat
  /-- Fabric ticks since the last reset, in every phase: the time of R326; and that time as the phase began (R319). -/
  time    : Nat
  phaseAt : Nat
  cores   : AMap Core
  arbiters : AMap Arbiter
  /-- Routing entries of the dies: stack k of die d under 8d + k (R240). -/
  routes  : AMap Nat
  modules : AMap Module
  /-- Links to outside: ports 0 to 15 of IFL, and 16, DCL. -/
  links   : AMap OutLink
  /-- Memory at the homes: bytes that are not 0, at rising addresses. -/
  mem     : List Host.Cell
  /-- Poisoned nibbles at the homes: bit 0 the low nibble of the byte, bit 1 the high one. -/
  memPoison : AMap (BitVec 2)
  sums    : List SumRec
  reqs    : List Req
  /-- Messages of agents to the other die whose replies are awaited (R248). -/
  errands : List AgentReq
  windows : List Window
  /-- Windows of DCL channels and of peers: channel, SEQ, and the stored reply, its status and its bytes (R252, R256,
  R257). -/
  outerWindow : List (Nat × BitVec 16 × Nat × List Byte)
  /-- Replies from peers and the host that this device has not acknowledged (R252, R257). -/
  receipts : List Receipt
  /-- The dies' L2 TLBs, and the non-leaf entries of their walkers, walker w of die d under 64d + w (R234). -/
  tlb     : AMap (List TlbEntry)
  walkers : AMap (List NodeEntry)
  /-- Next SEQ of each source agent: agent + 128 × die. -/
  seqs    : AMap (BitVec 16)
  devno   : W64
  peers   : AMap W64
  /-- Message ring: MSGBASE, CONS, PROD (R318). -/
  msgbase : W64
  cons    : W32
  prod    : W32
  plim    : BitVec 16
  soft    : BitVec 8
  temp0   : BitVec 8
  temp1   : BitVec 8
  menergy : W64
  dline   : W64
  cdrop   : BitVec 8
  /-- For each die the time since which its readings have been at or above CRIT (R326). -/
  trip0   : Option Nat
  trip1   : Option Nat
  /-- Power was above its limit at the last reading, and dies over their sensor limit (R270). -/
  overPower : Bool
  hot     : BitVec 2
  /-- DCL is trained at x16 or x8 (R255). -/
  dclWide : Bool
  fatals  : W64
  commands : List Command
  messages : List Message
  contexts : AMap Ctx
  queues  : List Queue
  launches : List Launch
  squalls : List Squall
  images  : List SeamImage
  /-- Objects of contexts that retire: context, index, and a number given when the switch completed (R315). -/
  retiring : List (Nat × Nat × Nat)
  /-- Things Knanos tells system software: kind and number. -/
  told    : List (Nat × Nat)
  /-- The measurements that the boot ROM has recorded, 1 to 13 (R320). -/
  measured : AMap (BitVec 384)
  /-- Answers of SPDM given so far, and the transcripts that signatures cover: version to algorithms, digests and
  certificates, measurements (R321). -/
  spdm    : Nat
  spdmA   : List Byte
  spdmB   : List Byte
  spdmL   : List Byte
  /-- The model's own: the bundle in execution, the turn, turns taken, free values read, numbers given. -/
  cur     : Option Bundle
  turn    : Turn
  turns   : Nat
  frees   : Nat
  nextId  : Nat
  deriving DecidableEq, Repr

/-- A vacant slot that has never been filled. -/
def Slot.reset : Slot :=
  { occupied := false, used := false, bind := 0, item := 0, fill := 0, pc := 0, regs := [], bank := [], poison := [],
    bankPoison := [], preds := 0, opsO := [], opsH := [], opsC := [], opsM := [], opsS := [], tcmp := 0, ostat := 0,
    tpc := 0, tcause := 0, tval := 0, masked := false, retry := false, hold := .free, notBefore := 0, stay := none,
    recent := [], seam := none, parker := false, openPark := none }

/-- An empty way. -/
def Way.empty : Way :=
  { kind := .empty, rd := false, wr := false, fmt := 0, atom := false, va := 0, dest := .dev, pa := 0, sum := false, moved := false }

/-- A closed line register. -/
def LineReg.closed : LineReg := { ways := [], tags := [] }

/-- A crew with every register closed and no token out. -/
def Crew.reset : Crew := { lregs := [], floorUsed := 0, drawn := 0 }

/-- A macro after bring-up: it holds no B (R182). -/
def Macro.reset : Macro := { kind := .none, rows := [], poisoned := false, fenced := false, fencedIn := [], count := 0, testAt := 0 }

/-- A free bind record. -/
def Bind.free : Bind :=
  { state := .free, stop := false, exh := false, slots := 0, priv := false, prio := 0, ctx := 0, width := 0, regs := 0,
    floor := 0, pool := 0, hcnt := 0, htab := 0, entry := 0, refill := 0, crews := 0, asid := 0, macros := 0, use := 0,
    give := 0, root := 0, lrec := 0, h0 := 0, h1 := 0, hcache := [], counter := 0, claim := none, claimed := none, unbound := false }

/-- A core after reset. -/
def Core.reset : Core :=
  { slots := [], crews := [], frames := [], scratch := [], scratchPoison := [], tiles := [], macros := [], cstore := [],
    cstorePoison := [], seams := [], regions := [], binds := [], roots := [], icache := [], teams := [], halts := [],
    waits := [], engine := [], lsu := [], lsuBusy := [], fires := 0, detect := 0, issueCycle := 0, issueQuad := 0,
    issueCount := 0, issueClass := 0, claimAt := 0, seamVals := [], openDue := [], closed := 0, l1 := [] }

/-- A direction of a module with nothing sent. -/
def Direction.reset : Direction :=
  { queue := [], next := 1, wire := [], buffer := [], expect := 1, unacked := 0, oldest := 0, acks := [], discarding := false, badForm := false }

/-- A module after reset: training, x64 (R247). -/
def Module.reset : Module :=
  { state := .training, width := 0, replays := 0, crcErr := 0, retrains := 0, rises := [], forced := false,
    d0 := .reset, d1 := .reset }

/-- A link to outside with nothing sent. -/
def OutLink.reset : OutLink := { out := .reset, expect := 1, discarding := false, badForm := false, down := false }

/-- The reset owner of a stack: die 0 for stacks 0 to 3, die 1 for 4 to 7 (R237). -/
def resetOwner (k : Nat) : Nat := if k < 4 then 0 else 1

/-- The arbiter of stack k after reset (R239). -/
def Arbiter.reset (k : Nat) : Arbiter :=
  { owner := resetOwner k, to_ := 0, step := 0, core := 0, hcount := 0, req := 0 }

/-- A context number that is not registered. -/
def Ctx.reset : Ctx :=
  { registered := false, root := 0, use := 0, give := 0, area := 0, asid := 0, resets := 0, switching := false,
    adopt := [], oldTable := (0, 0) }

/-- The package right after a power-on reset: every register at its value of R318, R224, R239, R247 and R249, no core
bound, and bring-up about to start (R319). -/
def State.reset : State :=
  { phase := 0, failst := 0, rreason := 0, tick := 0, time := 0, phaseAt := 0, cores := [], arbiters := [], routes := [], modules := [], links := [], mem := [],
    memPoison := [], sums := [], reqs := [], errands := [], windows := [], outerWindow := [], receipts := [], tlb := [], walkers := [], seqs := [], devno := 0,
    peers := [], msgbase := 0, cons := 0, prod := 0, plim := 1500, soft := 95, temp0 := 0, temp1 := 0, menergy := 0,
    dline := 0x271003E80064, cdrop := 0, trip0 := none, trip1 := none, overPower := false, hot := 0, dclWide := true, fatals := 0, commands := [],
    messages := [], contexts := [], queues := [], launches := [], squalls := [], images := [], retiring := [], told := [],
    measured := [], spdm := 0, spdmA := [], spdmB := [], spdmL := [], cur := none, turn := .event .powerOn, turns := 0, frees := 0, nextId := 0 }

end Sys2Proof.Machine
end

