-- ==== Sys2Proof/Machine/Float.lean ====
section
/-! DEFINITION. Exact values, rounding and the floating-point operations of R47 to R53, R102, R103 and R109. -/

namespace Sys2Proof.Machine

/-- An exact dyadic number m · 2^e. -/
structure Dy where
  m : Int
  e : Int
  deriving DecidableEq, Repr, Inhabited

/-- A value before rounding: NaN, an infinity, or an exact number with the sign it has when it is zero. -/
inductive Exact where
  | nan
  | inf (neg : Bool)
  | val (neg : Bool) (d : Dy)
  deriving DecidableEq, Repr, Inhabited

/-- A binary format: exponent and mantissa widths (R47, R50 to R52). -/
structure Fmt where
  eb : Nat
  mb : Nat
  deriving DecidableEq, Repr

def fp32 : Fmt := ⟨8, 23⟩
def fp16 : Fmt := ⟨5, 10⟩
def bf16 : Fmt := ⟨8, 7⟩
def fp8e4 : Fmt := ⟨4, 3⟩
def fp8e5 : Fmt := ⟨5, 2⟩
def fp4 : Fmt := ⟨2, 1⟩

/-- The bias of a format. -/
def Fmt.bias (f : Fmt) : Int := 2 ^ (f.eb - 1) - 1
/-- The exponent of the lowest mantissa bit of a subnormal number. -/
def Fmt.qmin (f : Fmt) : Int := 1 - f.bias - f.mb
/-- The code of +∞ in an IEEE format: one above the largest finite code. -/
def Fmt.infCode (f : Fmt) : Nat := (2 ^ f.eb - 1) * 2 ^ f.mb
/-- The default NaN of R47. -/
def Fmt.nanCode (f : Fmt) : Nat := f.infCode + 2 ^ (f.mb - 1)

/-- The exact value of a code whose exponent and mantissa are read as in R47, without infinities and NaN. -/
def Fmt.finite (f : Fmt) (code : Nat) : Exact :=
  let neg := code / 2 ^ (f.eb + f.mb) % 2 == 1
  let e := code / 2 ^ f.mb % 2 ^ f.eb
  let m := code % 2 ^ f.mb
  let mag : Nat := if e = 0 then m else m + 2 ^ f.mb
  let q : Int := if e = 0 then f.qmin else f.qmin + e - 1
  .val neg ⟨if neg then -(mag : Int) else mag, q⟩

/-- The value of a code of an IEEE format (R47, R51). -/
def Fmt.decode (f : Fmt) (code : Nat) : Exact :=
  if code / 2 ^ f.mb % 2 ^ f.eb = 2 ^ f.eb - 1 then
    if code % 2 ^ f.mb = 0 then .inf (code / 2 ^ (f.eb + f.mb) % 2 == 1) else .nan
  else f.finite code

/-- The value of an E4M3 code (R50). -/
def decodeE4 (code : Nat) : Exact := if code % 128 = 127 then .nan else fp8e4.finite code

/-- Whether a magnitude n + r/2^k, with r below 2^k and perhaps a little more, rounds up to n + 1. -/
def roundsUp (rm : RM) (neg : Bool) (n r half : Nat) (sticky : Bool) : Bool :=
  match rm with
  | .rz => false
  | .ru => !neg && (r != 0 || sticky)
  | .rd => neg && (r != 0 || sticky)
  | .rne => half != 0 && (decide (r > half) || (r == half && (sticky || n % 2 == 1)))

/-- The code of the magnitude m · 2^e (and a little more when sticky) rounded to the precision of a format whose
exponent has no upper end (R49). -/
def Fmt.roundCode (f : Fmt) (rm : RM) (neg : Bool) (m : Nat) (e : Int) (sticky : Bool) : Nat :=
  if m = 0 ∧ sticky = false then 0
  else
    let q : Int := max ((m.log2 : Int) + e - f.mb) f.qmin
    let base : Nat := (q - f.qmin).toNat * 2 ^ f.mb
    if e ≥ q then m * 2 ^ (e - q).toNat + base
    else
      let k := (q - e).toNat
      let n := m / 2 ^ k
      let r := m % 2 ^ k
      (if roundsUp rm neg n r (2 ^ (k - 1)) sticky then n + 1 else n) + base

/-- Adds the sign bit to a magnitude code. -/
def Fmt.signed (f : Fmt) (neg : Bool) (code : Nat) : Nat := if neg then code + 2 ^ (f.eb + f.mb) else code

/-- R49: a magnitude rounded to an IEEE format, with overflow by mode. -/
def Fmt.roundMag (f : Fmt) (rm : RM) (neg : Bool) (m : Nat) (e : Int) (sticky : Bool) : Nat :=
  let c := f.roundCode rm neg m e sticky
  let toInf := match rm with
    | .rne => true
    | .rz => false
    | .ru => !neg
    | .rd => neg
  f.signed neg (if c < f.infCode then c else if toInf then f.infCode else f.infCode - 1)

/-- Round(x, fmt, mode) of R19 and R49. -/
def Exact.round (f : Fmt) (rm : RM) : Exact → Nat
  | .nan => f.nanCode
  | .inf neg => f.signed neg f.infCode
  | .val neg d => if d.m = 0 then f.signed neg 0 else f.roundMag rm (d.m < 0) d.m.natAbs d.e false

/-- A conversion into a format without infinities that saturates at a largest code (R50, R52). -/
def Exact.saturate (f : Fmt) (rm : RM) (largest nanCode : Nat) : Exact → Nat
  | .nan => nanCode
  | .inf neg => f.signed neg largest
  | .val neg d =>
    if d.m = 0 then f.signed neg 0
    else f.signed (d.m < 0) (min (f.roundCode rm (d.m < 0) d.m.natAbs d.e false) largest)

/-- Into E4M3 (R50), E5M2 (R51) and FP4 (R52). -/
def Exact.toE4 (rm : RM) (x : Exact) : Nat := x.saturate fp8e4 rm 0x7E 0x7F
def Exact.toE5 (rm : RM) (x : Exact) : Nat := x.round fp8e5 rm
def Exact.toFp4 (rm : RM) (x : Exact) : Nat := x.saturate fp4 rm 7 0

/-- Exact sums and products of dyadic numbers. -/
def Dy.add (a b : Dy) : Dy :=
  let e := min a.e b.e
  ⟨a.m * 2 ^ (a.e - e).toNat + b.m * 2 ^ (b.e - e).toNat, e⟩
def Dy.mul (a b : Dy) : Dy := ⟨a.m * b.m, a.e + b.e⟩
def Dy.neg (a : Dy) : Dy := ⟨-a.m, a.e⟩
def Dy.abs (a : Dy) : Dy := ⟨a.m.natAbs, a.e⟩
/-- a below b. -/
def Dy.lt (a b : Dy) : Bool := decide ((a.add b.neg).m < 0)

/-- The negation of a value. -/
def Exact.neg : Exact → Exact
  | .nan => .nan
  | .inf n => .inf (!n)
  | .val n d => .val (!n) d.neg
/-- Its magnitude. -/
def Exact.abs : Exact → Exact
  | .nan => .nan
  | .inf _ => .inf false
  | .val _ d => .val false d.abs

/-- Sum (R102, R49): an exact zero sum of opposite signs is +0, and −0 under `.rd`. -/
def Exact.add (rm : RM) : Exact → Exact → Exact
  | .nan, _ => .nan
  | _, .nan => .nan
  | .inf a, .inf b => if a = b then .inf a else .nan
  | .inf a, _ => .inf a
  | _, .inf b => .inf b
  | .val na a, .val nb b =>
    let d := a.add b
    .val (if d.m = 0 then (if na = nb then na else rm == .rd) else decide (d.m < 0)) d

/-- Product (R102). -/
def Exact.mul : Exact → Exact → Exact
  | .nan, _ => .nan
  | _, .nan => .nan
  | .inf a, .inf b => .inf (a != b)
  | .inf a, .val nb b => if b.m = 0 then .nan else .inf (a != nb)
  | .val na a, .inf b => if a.m = 0 then .nan else .inf (na != b)
  | .val na a, .val nb b => .val (na != nb) (a.mul b)

/-- x · 2^k, for k clamped to where the result has long overflowed or vanished. -/
def Exact.scale2 (k : Int) : Exact → Exact
  | .val n d => .val n ⟨d.m, d.e + max (-2000) (min k 2000)⟩
  | x => x

/-- Numerical order; false with a NaN (R100). -/
def Exact.lt : Exact → Exact → Bool
  | .nan, _ => false
  | _, .nan => false
  | .inf a, .inf b => a && !b
  | .inf a, _ => a
  | _, .inf b => !b
  | .val _ a, .val _ b => a.lt b
/-- Numerical equality; +0 equals −0, and a NaN equals nothing. -/
def Exact.eq : Exact → Exact → Bool
  | .nan, _ => false
  | _, .nan => false
  | .inf a, .inf b => a == b
  | .inf _, _ => false
  | _, .inf _ => false
  | .val _ a, .val _ b => decide ((a.add b.neg).m = 0)
def Exact.isNan : Exact → Bool
  | .nan => true
  | _ => false
/-- The sign of a value that is no NaN. -/
def Exact.sign : Exact → Bool
  | .nan => false
  | .inf n => n
  | .val n d => if d.m = 0 then n else decide (d.m < 0)
/-- The order of `fmin` and `fmax`, in which −0 is below +0 (R103). -/
def Exact.below (a b : Exact) : Bool := a.lt b || (a.eq b && a.sign && !b.sign)

/-- `fmin` and `fmax` on codes of a format (R103). -/
def fminCode (f : Fmt) (a b : Nat) : Nat :=
  let x := f.decode a
  let y := f.decode b
  if x.isNan && y.isNan then f.nanCode else if x.isNan then b else if y.isNan then a
  else if y.below x then b else a
def fmaxCode (f : Fmt) (a b : Nat) : Nat :=
  let x := f.decode a
  let y := f.decode b
  if x.isNan && y.isNan then f.nanCode else if x.isNan then b else if y.isNan then a
  else if x.below y then b else a

/-- A dyadic number rounded to an integer (R53 step 1). -/
def Dy.toInt (rm : RM) (d : Dy) : Int :=
  if d.e ≥ 0 then d.m * 2 ^ d.e.toNat
  else
    let k := (-d.e).toNat
    let neg : Bool := d.m < 0
    let n := d.m.natAbs / 2 ^ k
    let r := d.m.natAbs % 2 ^ k
    let v : Nat := if roundsUp rm neg n r (2 ^ (k - 1)) false then n + 1 else n
    if neg then -(v : Int) else v

/-- R53: rounded, saturated to lo … hi, NaN to 0. -/
def Exact.toInt (rm : RM) (lo hi : Int) : Exact → Int
  | .nan => 0
  | .inf n => if n then lo else hi
  | .val _ d => max lo (min hi (d.toInt rm))

/-- `frnd` (R103). -/
def frndCode (f : Fmt) (rm : RM) (a : Nat) : Nat :=
  match f.decode a with
  | .nan => f.nanCode
  | .inf n => f.signed n f.infCode
  | .val n d =>
    let v := d.toInt rm
    if v = 0 then f.signed n 0 else (Exact.val n ⟨v, 0⟩).round f .rne

/-- The value of an integer. -/
def Exact.ofInt (i : Int) : Exact := .val (decide (i < 0)) ⟨i, 0⟩

/-- Round(A + B) and the like on codes. -/
def faddCode (f : Fmt) (rm : RM) (a b : Nat) : Nat := ((f.decode a).add rm (f.decode b)).round f rm
def fsubCode (f : Fmt) (rm : RM) (a b : Nat) : Nat := ((f.decode a).add rm (f.decode b).neg).round f rm
def fmulCode (f : Fmt) (rm : RM) (a b : Nat) : Nat := ((f.decode a).mul (f.decode b)).round f rm
def fmaCode (f : Fmt) (rm : RM) (a b c : Nat) : Nat :=
  (((f.decode a).mul (f.decode b)).add rm (f.decode c)).round f rm
/-- `fscale.fp32` (R103). -/
def fscaleCode (rm : RM) (a : Nat) (k : Int) : Nat := ((fp32.decode a).scale2 k).round fp32 rm

/-- FP32 addition with `.rne`, the step of every sum of R66 to R68, R138, R159, R170, R229 and R230. -/
def fadd32 (a b : W32) : W32 := BitVec.ofNat 32 (faddCode fp32 .rne a.toNat b.toNat)

end Sys2Proof.Machine
end

