-- ==== Sys2Proof/Machine/Formats.lean ====
section
/-! DEFINITION. Lines as bytes, nibbles and elements; the logarithmic formats, block scales, line layouts, conversions
into the matrix formats and the order of sums (R54 to R68, R106 to R114). -/

namespace Sys2Proof.Machine

/-- Byte b of a line. -/
def Line.byte (l : Line) (b : Nat) : Byte := l.extractLsb' (8 * b) 8
/-- The line with byte b set. -/
def Line.setByte (l : Line) (b : Nat) (v : Byte) : Line :=
  (l &&& ~~~((0xFF#1024) <<< (8 * b))) ||| (v.setWidth 1024 <<< (8 * b))
/-- `n` bytes from offset o, wrapping at 128 (R130), as a little-endian number. -/
def Line.read (l : Line) : Nat → Nat → Nat
  | _, 0 => 0
  | o, n + 1 => (l.byte (o % 128)).toNat + 256 * Line.read l (o + 1) n
/-- Stores the `n` low bytes of v from offset o, wrapping at 128. -/
def Line.write (l : Line) : Nat → Nat → Nat → Line
  | _, 0, _ => l
  | o, n + 1, v => Line.write (l.setByte (o % 128) (BitVec.ofNat 8 v)) (o + 1) n (v / 256)
/-- The nibbles of `n` bytes from offset o, wrapping at 128. -/
def nibbleMask : Nat → Nat → Nibbles
  | _, 0 => 0
  | o, n + 1 => ((0b11#256) <<< (2 * (o % 128))) ||| nibbleMask (o + 1) n
/-- One mask bit per bit of the line, from a mask of its nibbles. -/
def spread : Nat → Nibbles → Line
  | 0, _ => 0
  | n + 1, m => (if m.getLsbD n then (0xF#1024) <<< (4 * n) else 0) ||| spread n m
/-- The line that takes the nibbles of m from `new` and the others from `old`. -/
def Line.merge (old : Line) (m : Nibbles) (new : Line) : Line :=
  let k := spread 256 m
  (old &&& ~~~k) ||| (new &&& k)
/-- Word i of a line. -/
def Line.word (l : Line) (i : Nat) : W32 := l.extractLsb' (32 * i) 32
/-- The line with word i set. -/
def Line.setWord (l : Line) (i : Nat) (v : W32) : Line :=
  (l &&& ~~~((0xFFFFFFFF#1024) <<< (32 * i))) ||| (v.setWidth 1024 <<< (32 * i))
/-- Each of the first n words combined with the words of another line by FP32 addition (R229, R230). -/
def Line.addWords : Nat → Line → Line → Line
  | 0, l, _ => l
  | n + 1, l, x => (Line.addWords n l x).setWord n (fadd32 (l.word n) (x.word n))

/-- T6 of R54. -/
def t6 (m : Nat) : Nat := [2048, 2435, 2896, 3444].getD m 0
/-- T12 of R55. -/
def t12 (f : Nat) : Nat :=
  [32768, 33486, 34219, 34968, 35734, 36516, 37316, 38133, 38968, 39821, 40693, 41584, 42495, 43425, 44376, 45348,
   46341, 47352, 48393, 49452, 50535, 51642, 52773, 53928, 55109, 56316, 57549, 58809, 60097, 61413, 62757, 64132].getD
    f 0
/-- The mantissas of the LNS6 thresholds t1 to t4 (R59); one binade on, the same again. -/
def thresholds6 : List Nat := [0x8B95C2, 0xA5FED7, 0xC5672A, 0xEAC0C7]
/-- The mantissas of the LNS12 thresholds u1 to u32 (R60): Round(2^((2k − 1)/64)) to 24 bits. -/
def thresholds12 : List Nat :=
  [0x8164d2, 0x843a29, 0x871f62, 0x8a14d5, 0x8d1adf, 0x9031dc, 0x935a2b, 0x96942d, 0x99e046, 0x9d3eda, 0xa0b051,
   0xa43516, 0xa7cd94, 0xab7a3a, 0xaf3b79, 0xb311c4, 0xb6fd92, 0xbaff5b, 0xbf179a, 0xc346cd, 0xc78d75, 0xcbec15,
   0xd06334, 0xd4f35b, 0xd99d16, 0xde60f5, 0xe33f89, 0xe8396a, 0xed4f30, 0xf28177, 0xf7d0df, 0xfd3e0c]

/-- The number of thresholds c · 2^(b − low − 23), c of the list and b any binade, at or below y; at most `largest`. -/
def thresholdCount (ts : List Nat) (low largest : Nat) (y : Dy) : Nat :=
  if y.m = 0 then 0
  else
    let b : Int := (y.m.natAbs.log2 : Int) + y.e
    if b + low < 0 then 0
    else min largest (ts.length * (b + low).toNat + ts.countP fun (c : Nat) => !(y.abs.lt ⟨(c : Int), b - 23⟩))

/-- An LNS code of a value (R59, R60, R113): sign at bit `sb`, zero for a NaN. -/
def lnsCode (ts : List Nat) (low largest sb : Nat) : Exact → Nat
  | .nan => 0
  | .inf n => largest + (if n then 2 ^ sb else 0)
  | .val n d =>
    let neg := if d.m = 0 then n else decide (d.m < 0)
    thresholdCount ts low largest d + (if neg then 2 ^ sb else 0)
def lns6Code (x : Exact) : Nat := lnsCode thresholds6 4 31 5 x
def lns12Code (x : Exact) : Nat := lnsCode thresholds12 32 2047 11 x

/-- The decoded values of R54 and R55. -/
def lns6Value (c : Nat) : Exact :=
  let l := c % 32
  let neg := c / 32 % 2 == 1
  let m : Int := if l = 0 then 0 else t6 (l % 4)
  .val neg ⟨if neg then -m else m, (l / 4 : Nat) - 15⟩
def lns12Value (c : Nat) : Exact :=
  let l := c % 2048
  let neg := c / 2048 % 2 == 1
  let m : Int := if l = 0 then 0 else t12 (l % 32)
  .val neg ⟨if neg then -m else m, (l / 32 : Nat) - 47⟩

/-- The linear product of two LNS6 codes (R64), none when an operand is zero. -/
def lns6Product (a b : Nat) : Option Dy :=
  if a % 32 = 0 ∨ b % 32 = 0 then none
  else
    let l := a % 32 + b % 32
    let m : Int := t6 (l % 4)
    some ⟨if a / 32 % 2 = b / 32 % 2 then m else -m, (l / 4 : Nat) - 19⟩
/-- The linear product of two LNS12 codes (R66). -/
def lns12Product (a b : Nat) : Option Dy :=
  if a % 2048 = 0 ∨ b % 2048 = 0 then none
  else
    let l := a % 2048 + b % 2048
    let m : Int := t12 (l % 32)
    some ⟨if a / 2048 % 2 = b / 2048 % 2 then m else -m, (l / 32 : Nat) - 79⟩
/-- The nominal product of R107: `big` is the number of magnitudes, `off` the offset of L′. -/
def lnsNominal (big off : Nat) (a b : Nat) : Nat :=
  let s := (a / big + b / big) % 2 * big
  if a % big = 0 ∨ b % big = 0 then s
  else
    let l := a % big + b % big
    if l < off + 1 then s else min (l - off) (big - 1) + s

/-- Element counts of a format tag (R57, R133); 32 for a raw tag. -/
def elementCount (fmt : Nat) : Nat := [32, 128, 256, 64, 192, 96, 96, 64, 64].getD fmt 0
/-- Whether a tag has block scales, and its emax (R61). -/
def blockEmax (fmt : Nat) : Option Nat := [none, some 3, some 3, none, some 2, some 8, some 15, none, none].getD fmt none

/-- The positions that a sparse code stores (R58). -/
def sparsePos (code : Nat) : Option (Nat × Nat) :=
  [some (0, 1), some (0, 2), some (0, 3), some (1, 2), some (1, 3), some (2, 3)].getD code none
/-- The code of group g of a sparse line. -/
def sparseCode (l : Line) (g : Nat) : Nat := (l.extractLsb' (64 + 3 * g) 3).toNat
/-- The stored element that holds logical position p, if its group's code names it. -/
def sparseStored (l : Line) (p : Nat) : Option Nat :=
  match sparsePos (sparseCode l (p / 4)) with
  | none => none
  | some (x, y) => if p % 4 = x then some (2 * (p / 4)) else if p % 4 = y then some (2 * (p / 4) + 1) else none
/-- The logical position of stored element n. -/
def storedPos (l : Line) (n : Nat) : Option Nat :=
  (sparsePos (sparseCode l (n / 2))).map fun xy => 4 * (n / 2) + (if n % 2 = 0 then xy.1 else xy.2)

/-- First bit and width of element i of a line, by tag (R57); i is a stored element of a sparse line. -/
def elementBits (fmt i : Nat) : Nat × Nat :=
  match fmt with
  | 1 => (256 + 6 * i, 6)
  | 2 => (256 + 6 * i, 6)
  | 3 => (16 * i, 16)
  | 4 => (256 + 4 * i, 4)
  | 5 => (256 + 8 * i, 8)
  | 6 => (256 + 8 * i, 8)
  | 7 => (16 * i, 16)
  | 8 => (16 * i, 16)
  | _ => (32 * i, 32)
/-- The code of element i. -/
def elementCode (fmt : Nat) (l : Line) (i : Nat) : Nat :=
  (l.extractLsb' (elementBits fmt i).1 (elementBits fmt i).2).toNat
/-- The value of a code, before its block's scale. -/
def codeValue (fmt c : Nat) : Exact :=
  match fmt with
  | 1 => lns6Value c
  | 2 => lns6Value c
  | 3 => lns12Value c
  | 4 => fp4.finite c
  | 5 => decodeE4 c
  | 6 => fp8e5.decode c
  | 7 => bf16.decode c
  | 8 => fp16.decode c
  | _ => fp32.decode c
/-- A value times a block scale (R56). -/
def scaled (e : Nat) (x : Exact) : Exact := if e = 255 then .nan else x.scale2 ((e : Int) - 127)
/-- The stored element of element i, none for a sparse position that is not stored. -/
def storedIndex (fmt : Nat) (l : Line) (i : Nat) : Option Nat := if fmt = 2 then sparseStored l i else some i
/-- The exact value of element i of a line (R54 to R58). -/
def decodeElement (fmt : Nat) (l : Line) (i : Nat) : Exact :=
  match storedIndex fmt l i with
  | none => .val false ⟨0, 0⟩
  | some n =>
    let x := codeValue fmt (elementCode fmt l n)
    if (blockEmax fmt).isSome then scaled (l.byte (n / 16)).toNat x else x

/-- The code of a value already divided by its block's scale (R59 to R61, R63). DEDUCED: a NaN has code 0 under a
block-scaled tag, and under LNS12, which has no blocks, in that element alone, log entry 51. -/
def valueCode (fmt : Nat) (x : Exact) : Nat :=
  match fmt with
  | 1 => lns6Code x
  | 2 => lns6Code x
  | 3 => lns12Code x
  | 4 => x.toFp4 .rne
  | 5 => x.saturate fp8e4 .rne 0x7E 0
  | 6 => x.saturate fp8e5 .rne 0x7B 0
  | 7 => x.round bf16 .rne
  | 8 => x.round fp16 .rne
  | _ => x.round fp32 .rne
/-- The line with the bits of element n set. -/
def setElement (fmt : Nat) (l : Line) (n c : Nat) : Line :=
  let b := elementBits fmt n
  (l &&& ~~~(BitVec.ofNat 1024 (2 ^ b.2 - 1) <<< b.1)) ||| (BitVec.ofNat 1024 c <<< b.1)
/-- The nibbles that hold any bit of element n. -/
def elementNibbles (fmt n : Nat) : Nibbles :=
  let b := elementBits fmt n
  let first := b.1 / 4
  let last := (b.1 + b.2 - 1) / 4
  BitVec.ofNat 256 (2 ^ (last - first + 1) - 1) <<< first

/-- The nibbles that hold the code of the group of stored element n of a sparse line (R58). -/
def groupNibbles (n : Nat) : Nibbles :=
  let first := (64 + 3 * (n / 2)) / 4
  let last := (64 + 3 * (n / 2) + 2) / 4
  BitVec.ofNat 256 (2 ^ (last - first + 1) - 1) <<< first

/-- `ste` of one element (R133): the changed line and its written nibbles. -/
def encodeElement (fmt : Nat) (l : Line) (valid : Nibbles) (i : Nat) (x : Exact) : Line × Nibbles :=
  match storedIndex fmt l i with
  | none => (l, 0)
  | some n =>
    if (blockEmax fmt).isSome then
      let j := n / 16
      let known := valid.getLsbD (2 * j) && valid.getLsbD (2 * j + 1)
      let l1 := if known then l else l.setByte j 127
      let e := if known then (l.byte j).toNat else 127
      let c := if e = 255 then 0 else valueCode fmt (x.scale2 (127 - (e : Int)))
      (setElement fmt l1 n c, elementNibbles fmt n ||| (if known then 0 else nibbleMask j 1))
    else (setElement fmt l n (valueCode fmt x), elementNibbles fmt n)

/-- floor(log2 |x|), ±∞ taken as 2^128 (R114); none for zero. -/
def log2Floor : Exact → Option Int
  | .nan => none
  | .inf _ => some 128
  | .val _ d => if d.m = 0 then none else some ((d.m.natAbs.log2 : Int) + d.e)
/-- The scale byte for a block whose largest magnitude is m (R61 step 2, R114). -/
def scaleByte (emax : Nat) (m : Exact) : Nat :=
  if m.isNan then 255
  else match log2Floor m with
    | none => 127
    | some k => (max 0 (min 254 (k - emax + 127))).toNat
/-- A magnitude in R61 step 2, where an infinity counts as 2^128. -/
def blockMag (x : Exact) : Exact :=
  match x with
  | .inf _ => .val false ⟨1, 128⟩
  | y => y.abs
/-- The larger magnitude; NaN wins. -/
def maxAbs (a b : Exact) : Exact :=
  if a.isNan || b.isNan then .nan else if (blockMag a).lt (blockMag b) then blockMag b else blockMag a

/-- R61 on the values of block j: the line with its scale and 16 elements written. -/
def encodeBlock (fmt emax j : Nat) (l : Line) (xs : List Exact) : Line :=
  let m := xs.foldl maxAbs (.val false ⟨0, 0⟩)
  let e := scaleByte emax m
  let l1 := l.setByte j (BitVec.ofNat 8 e)
  (xs.foldl (fun (s : Line × Nat) x =>
    (setElement fmt s.1 (16 * j + s.2) (if e = 255 then 0 else valueCode fmt (x.scale2 (127 - (e : Int)))), s.2 + 1))
    (l1, 0)).1

/-- The two positions of a group that R62 keeps: those of largest magnitude, the lower winning. DESIGN CHOICE: R62 does not
say how a NaN ranks among magnitudes; here it ranks above every number, log entry 80. -/
def choosePair (xs : List Exact) : Nat :=
  let x (i : Nat) : Exact := xs.getD i (.val false ⟨0, 0⟩)
  let gt (i j : Nat) : Bool := (x i).isNan && !(x j).isNan || (x j).abs.lt (x i).abs
  let rank (i : Nat) : Nat := (List.range 4).countP fun j => j != i && (gt j i || (!gt i j && j < i))
  let keep := (List.range 4).filter fun i => rank i < 2
  match keep with
  | [0, 1] => 0
  | [0, 2] => 1
  | [0, 3] => 2
  | [1, 2] => 3
  | [1, 3] => 4
  | _ => 5

/-- A line encoded whole from the exact values of its elements (R61 to R63). -/
def encodeLine (fmt : Nat) (xs : List Exact) : Line :=
  let zero : Exact := .val false ⟨0, 0⟩
  match blockEmax fmt with
  | none => (List.range (elementCount fmt)).foldl (fun l i => setElement fmt l i (valueCode fmt (xs.getD i zero))) 0
  | some emax =>
    if fmt = 2 then
      (List.range 8).foldl (fun l j =>
        let block := (List.range 8).map fun g => (xs.drop (32 * j + 4 * g)).take 4
        let bad := block.any fun b => b.any Exact.isNan
        let codes := block.map fun b => if bad then 0 else choosePair b
        let kept := (block.zip codes).flatMap fun bc =>
          match sparsePos bc.2 with
          | some (p, q) => [bc.1.getD p zero, bc.1.getD q zero]
          | none => [zero, zero]
        let l1 := (codes.zip (List.range 8)).foldl (fun (l : Line) cg =>
          l ||| (BitVec.ofNat 1024 cg.1 <<< (64 + 3 * (8 * j + cg.2)))) l
        encodeBlock 2 emax j l1 (if bad then List.replicate 16 .nan else kept)) 0
    else
      (List.range (elementCount fmt / 16)).foldl (fun l j => encodeBlock fmt emax j l
        ((List.range 16).map fun i => xs.getD (16 * j + i) zero)) 0

/-! The order of sums. -/

/-- A block partial of a dense LNS6 pass (R65). -/
def densePartial (a b : Line) (j : Nat) : W32 :=
  let ea := (a.byte j).toNat
  let eb := (b.byte j).toNat
  if ea = 255 ∨ eb = 255 then BitVec.ofNat 32 fp32.nanCode
  else
    let p := (List.range 16).foldl (fun (s : Dy) i =>
      match lns6Product (elementCode 1 a (16 * j + i)) (elementCode 1 b (16 * j + i)) with
      | none => s
      | some d => s.add d) ⟨0, 0⟩
    BitVec.ofNat 32 ((Exact.val false ⟨p.m, p.e + ea + eb - 254⟩).round fp32 .rne)

/-- A block partial of a sparse pass: A covers two dense lines (R65). -/
def sparsePartial (a0 a1 b : Line) (j : Nat) : W32 :=
  let scaleA (k : Nat) : Nat := if k < 8 then (a0.byte k).toNat else (a1.byte (k - 8)).toNat
  let codeA (p : Nat) : Nat := if p < 128 then elementCode 1 a0 p else elementCode 1 a1 (p - 128)
  let eb := (b.byte j).toNat
  if eb = 255 ∨ scaleA (2 * j) = 255 ∨ scaleA (2 * j + 1) = 255 then BitVec.ofNat 32 fp32.nanCode
  else
    let x := (List.range 16).foldl (fun (s : Dy) i =>
      match storedPos b (16 * j + i) with
      | none => s
      | some p =>
        match lns6Product (codeA p) (elementCode 2 b (16 * j + i)) with
        | none => s
        | some d => s.add ⟨d.m, d.e + scaleA (p / 16) + eb - 254⟩) ⟨0, 0⟩
    BitVec.ofNat 32 ((Exact.val false x).round fp32 .rne)

/-- Adds the values of a list in a balanced tree of FP32 additions: `depth` levels. -/
def treeSum : Nat → List W32 → W32
  | 0, xs => xs.headD 0
  | d + 1, xs => fadd32 (treeSum d (xs.take (2 ^ d))) (treeSum d (xs.drop (2 ^ d)))

/-- A block partial of an LNS12 pass, whose 128 k-values lie in two lines (R66). -/
def lns12Partial (a0 a1 b0 b1 : Line) (j : Nat) : W32 :=
  let code (l0 l1 : Line) (k : Nat) : Nat := if k < 64 then elementCode 3 l0 k else elementCode 3 l1 (k - 64)
  treeSum 4 ((List.range 16).map fun i =>
    match lns12Product (code a0 a1 (16 * j + i)) (code b0 b1 (16 * j + i)) with
    | none => 0
    | some d => BitVec.ofNat 32 ((Exact.val false d).round fp32 .rne))

/-- The pass sum of eight block partials (R67). -/
def passSum (part : Nat → W32) : W32 := treeSum 3 ((List.range 8).map part)

/-- The result of R68 from the accumulator and the pass sums. -/
def chains (acc : W32) (sums : List W32) : W32 :=
  let evens := (List.range sums.length).filterMap fun i => if i % 2 = 0 then sums[i]? else none
  let odds := (List.range sums.length).filterMap fun i => if i % 2 = 1 then sums[i]? else none
  fadd32 (evens.foldl fadd32 acc) (odds.foldl fadd32 0)

end Sys2Proof.Machine
end

