-- ==== Sys2Proof/Machine/Ops.lean ====
section
/-! DEFINITION. The named operations that meanings share: memory, cores and slots, registers, counters, the bundle,
taking an exception and returning from one. -/

namespace Sys2Proof.Machine

/-- PHASE when the device is ready, and after a fatal error (R319). -/
def readyPhase : BitVec 8 := 0x05
def fatalPhase : BitVec 8 := 0xF2

/-- Memory at the homes (R5). -/
abbrev Memory := List Host.Cell

namespace Memory

/-- What an unlisted address reads as: bring-up zeroes DRAM (R319). DESIGN CHOICE before phase 0x02: log entry 5. -/
def unlisted : Byte := 0
/-- The byte at an address. -/
def get : Memory → Nat → Byte
  | [], _ => unlisted
  | (a, v) :: m, k => if a = k then v else if k < a then unlisted else get m k
/-- Stores a byte, keeping the canonical form. -/
def set : Memory → Nat → Byte → Memory
  | [], k, v => if v = unlisted then [] else [(k, v)]
  | (a, w) :: m, k, v =>
    if k < a then (if v = unlisted then (a, w) :: m else (k, v) :: (a, w) :: m)
    else if a = k then (if v = unlisted then m else (k, v) :: m)
    else (a, w) :: set m k v
/-- Addresses rise from the bound on, and no cell holds what an unlisted address reads as. -/
def wfFrom : Nat → Memory → Bool
  | _, [] => true
  | n, (a, v) :: m => decide (n ≤ a) && v != unlisted && wfFrom (a + 1) m
/-- The canonical form. -/
def wf (m : Memory) : Bool := wfFrom 0 m
/-- `n` bytes from an address as a little-endian number. -/
def read (m : Memory) : Nat → Nat → Nat
  | _, 0 => 0
  | a, n + 1 => (m.get a).toNat + 256 * read m (a + 1) n
/-- Stores the `n` low bytes of a number, little-endian. -/
def write (m : Memory) : Nat → Nat → Nat → Memory
  | _, 0, _ => m
  | a, n + 1, v => write (m.set a (BitVec.ofNat 8 v)) (a + 1) n (v / 256)

end Memory

/-- Whether a device physical address is backed by a stack (R5). -/
def backed (pa : Nat) : Bool := decide (pa < 2 ^ 39) && decide (pa % 2 ^ 36 < 48 * 2 ^ 30)
/-- The stack of a device physical address (R237). -/
def stackOf (pa : Nat) : Nat := pa / 2 ^ 36 % 8
/-- The home slice within the stack (R5). -/
def sliceOf (pa : Nat) : Nat := (pa / 2 ^ 7 % 16) ^^^ (pa / 2 ^ 11 % 16)
/-- The address of the line that holds a byte. -/
def lineAddr (a : Nat) : Nat := a - a % 128

namespace State

/-- `%clock`: core cycles since phase 0x05 (R31, R32). -/
def clock (s : State) : Nat := s.tick / 3

def core (s : State) (c : Nat) : Core := s.cores.get Core.reset c
def setCore (s : State) (c : Nat) (k : Core) : State := { s with cores := s.cores.put c k }
def onCore (s : State) (c : Nat) (f : Core → Core) : State := s.setCore c (f (s.core c))

def slot (s : State) (c n : Nat) : Slot := (s.core c).slots.get Slot.reset n
def setSlot (s : State) (c n : Nat) (t : Slot) : State :=
  s.onCore c fun k => { k with slots := k.slots.put n t }
def onSlot (s : State) (c n : Nat) (f : Slot → Slot) : State := s.setSlot c n (f (s.slot c n))

def arbiter (s : State) (k : Nat) : Arbiter := s.arbiters.get (Arbiter.reset k) k
def module (s : State) (m : Nat) : Module := s.modules.get Module.reset m
def onModule (s : State) (m : Nat) (f : Module → Module) : State :=
  { s with modules := s.modules.put m (f (s.module m)) }
def context (s : State) (x : Nat) : Ctx := s.contexts.get Ctx.reset x
def onContext (s : State) (x : Nat) (f : Ctx → Ctx) : State :=
  { s with contexts := s.contexts.put x (f (s.context x)) }

/-- `%clock` as a core reads it (R32). -/
def coreClock (s : State) (c : Nat) : Nat := s.clock + (Config.clockSkew c).val
/-- What follows a core's issue has begun in this cycle: it issues no more, and no token returns to it (R45, R222). -/
def closedNow (s : State) (c : Nat) : Bool := (s.core c).closed == s.clock + 1
def closeIssue (s : State) (c : Nat) : State := s.onCore c fun k => { k with closed := s.clock + 1 }
/-- A number not given before, and the state that has given it. -/
def fresh (s : State) : Nat × State := (s.nextId, { s with nextId := s.nextId + 1 })
/-- A free value of the counter of free values (log entry 2). -/
def free (s : State) : BitVec 128 × State := (Config.freeBits s.frees, { s with frees := s.frees + 1 })
/-- A free choice. -/
def choice (s : State) : Bool × State := (Config.freeBit s.frees, { s with frees := s.frees + 1 })

/-- Tells system software of something (its interface for this is not in the spec). -/
def tell (s : State) (kind n : Nat) : State := { s with told := s.told ++ [(kind, n)] }

end State

/-- Insertion of an element in an ordered list, and a list put in order. -/
def insertBy {α : Type} (le : α → α → Bool) (x : α) : List α → List α
  | [] => [x]
  | y :: l => if le x y then x :: y :: l else y :: insertBy le x l
def sortBy {α : Type} (le : α → α → Bool) : List α → List α
  | [] => []
  | x :: l => insertBy le x (sortBy le l)

/-- The quadrant, crew and lane of a slot number (R4). -/
def quadOf (n : Nat) : Nat := n / 512
def crewOf (n : Nat) : Nat := n / 32
def laneOf (n : Nat) : Nat := n % 32
def dieOf (core : Nat) : Nat := core / 96

def Core.bind (k : Core) (b : Nat) : Bind := k.binds.get Bind.free b
def Core.onBind (k : Core) (b : Nat) (f : Bind → Bind) : Core := { k with binds := k.binds.put b (f (k.bind b)) }
def Core.crew (k : Core) (c : Nat) : Crew := k.crews.get Crew.reset c
def Core.onCrew (k : Core) (c : Nat) (f : Crew → Crew) : Core := { k with crews := k.crews.put c (f (k.crew c)) }
def Core.macro (k : Core) (m : Nat) : Macro := k.macros.get Macro.reset m
def Core.tile (k : Core) (t : Nat) : W64 := k.tiles.get 0 t
def State.bindOf (s : State) (c n : Nat) : Bind := (s.core c).bind (s.slot c n).bind
/-- The registers of a slot's bind: v0 to v(n − 1) (R24). -/
def Bind.regCount (b : Bind) : Nat := 16 * (b.regs + 1)
/-- The slots of a bind, ascending. -/
def Bind.slotList (b : Bind) : List Nat :=
  ((List.range 64).filter fun c => b.crews.getLsbD c).flatMap fun c => (List.range 32).map fun l => 32 * c + l
/-- The bind that owns a crew, if any is bound there (R267 CREWS). -/
def Core.crewBind (k : Core) (crew : Nat) : Option Nat :=
  (List.range 8).find? fun b => (k.bind b).state != .free && (k.bind b).crews.getLsbD crew
/-- Free pool supply Q: what neither floors reserve nor crews have drawn (R38, R222). -/
def Core.pool (k : Core) : Nat :=
  2048 - ((List.range 8).foldl (fun a b =>
      if (k.bind b).state = .free then a
      else a + (k.bind b).floor * ((List.range 64).countP fun c => (k.bind b).crews.getLsbD c)) 0)
    - k.crews.foldl (fun a e => a + e.2.drawn) 0

/-! Registers and predicates. -/

namespace Slot

/-- Numbers 240 to 247 name the bank while traps are masked (R282). -/
def banked (t : Slot) (r : Nat) : Bool := t.masked && decide (240 ≤ r) && decide (r < 248)
def reg (t : Slot) (r : Nat) : W32 := if t.banked r then t.bank.get 0 r else t.regs.get 0 r
/-- Writing a register clears its poison (R300). -/
def setReg (t : Slot) (r : Nat) (v : W32) : Slot :=
  if t.banked r then { t with bank := t.bank.put r v, bankPoison := t.bankPoison.del r }
  else { t with regs := t.regs.put r v, poison := t.poison.del r }
/-- A register pair, low word first (R24). -/
def pair (t : Slot) (r : Nat) : W64 := t.reg (r + 1) ++ t.reg r
def setPair (t : Slot) (r : Nat) (v : W64) : Slot :=
  (t.setReg r (v.setWidth 32)).setReg (r + 1) ((v >>> 32).setWidth 32)
def poisoned (t : Slot) (r : Nat) : Bool :=
  if t.banked r then t.bankPoison.get false r else t.poison.get false r
/-- Marks a register poisoned. -/
def poisonReg (t : Slot) (r : Nat) : Slot :=
  if t.banked r then { t with bankPoison := t.bankPoison.put r true } else { t with poison := t.poison.put r true }
/-- Predicates: `p7` reads true (R26). -/
def pred (t : Slot) (p : PredNo) : Bool := p == 7 || t.preds.getLsbD p.toNat
/-- Writes to `p7` are discarded. -/
def setPred (t : Slot) (p : PredNo) (v : Bool) : Slot :=
  if p = 7 then t
  else { t with preds := (t.preds &&& ~~~((1#8) <<< p.toNat)) ||| ((BitVec.ofBool v).setWidth 8 <<< p.toNat) }
/-- Whether a guard holds (R76). -/
def guard (t : Slot) (g : Guard) : Bool := t.pred g.p != g.neg

/-- Moves the slot to a code reference; the stay in its line ends when it leaves the line (R199). -/
def goto (t : Slot) (pc : W32) : Slot :=
  { t with
    pc := pc
    stay := match t.stay with
      | some (l, bytes) => if l = pc &&& 0xFFFFFF80 then some (l, bytes) else none
      | none => none }

/-- The operations of a class, in issue order. -/
def ops (t : Slot) : Cls → List Op
  | .o => t.opsO
  | .h => t.opsH
  | .c => t.opsC
  | .m => t.opsM
  | .s => t.opsS
def setOps (t : Slot) (k : Cls) (l : List Op) : Slot :=
  match k with
  | .o => { t with opsO := l }
  | .h => { t with opsH := l }
  | .c => { t with opsC := l }
  | .m => { t with opsM := l }
  | .s => { t with opsS := l }
/-- The count of a class (R28). -/
def count (t : Slot) (k : Cls) : Nat := (t.ops k).length
/-- An operation enters its class. -/
def enter (t : Slot) (k : Cls) (id : Nat) (returns : Bool) : Slot :=
  t.setOps k (t.ops k ++ [{ id := id, done := false, returns := returns, pred := none }])
/-- The predicate that a reported completion writes (R191, R192). -/
def report (t : Slot) (o : Op) : Slot :=
  match o.pred with
  | some (p, v) => t.setPred p v
  | none => t
/-- It completes, with a predicate to write or without; completions of a class are reported in issue order (R28). -/
def complete (t : Slot) (k : Cls) (id : Nat) (pred : Option (PredNo × Bool) := none) : Slot :=
  let l := (t.ops k).map fun o => if o.id = id then { o with done := true, pred := pred } else o
  (l.takeWhile fun o => o.done).foldl report (t.setOps k (l.dropWhile fun o => o.done))
/-- Whether the slot still counts the operation. -/
def counts (t : Slot) (k : Cls) (id : Nat) : Bool := (t.ops k).any fun o => o.id == id && !o.done

end Slot

/-- The next instruction's code reference: the object stays, the offset moves on (R147). -/
def pcAdd (pc : W32) (n : Nat) : W32 := pc.extractLsb' 24 8 ++ (pc.extractLsb' 0 24 + BitVec.ofNat 24 n)

/-! Taking an exception. -/

/-- The causes of R279, with the number that `%tcause` holds. -/
inductive Cause where
  | illegal | lineClosed | stackMoved | timer | userTrap | breakpoint | fetch | seamResource
  | handleInvalid | bounds | translation | permission | classFault | poison | tileInvalid | macroFenced | paramInvalid
  deriving DecidableEq, Repr, Inhabited

def Cause.code : Cause → Nat
  | .illegal => 0x01
  | .lineClosed => 0x02
  | .stackMoved => 0x03
  | .timer => 0x04
  | .userTrap => 0x05
  | .breakpoint => 0x06
  | .fetch => 0x07
  | .seamResource => 0x08
  | .handleInvalid => 0x10
  | .bounds => 0x11
  | .translation => 0x12
  | .permission => 0x13
  | .classFault => 0x14
  | .poison => 0x15
  | .tileInvalid => 0x16
  | .macroFenced => 0x17
  | .paramInvalid => 0x18
/-- Parkable faults, as against precise traps (R279). -/
def Cause.parks (c : Cause) : Bool := decide (0x10 ≤ c.code)

/-- A trap to take: cause, access, level and value (R278). -/
structure Trap where
  cause : Cause
  acc   : Nat := 0
  level : Nat := 0
  val   : W64 := 0
  deriving DecidableEq, Repr

/-- The cause record of R278. -/
def Trap.record (t : Trap) : W32 :=
  BitVec.ofNat 32 (t.cause.code + (if t.cause.parks then 0x100 else 0) + t.acc % 16 * 2 ^ 12 + t.level % 16 * 2 ^ 16)

def Detail.code : Detail → Nat
  | .lineCross => 1
  | .guard => 2
  | .opcode => 3
  | .form => 4
  | .modifier => 5
  | .reserved => 6
  | .register => 7
  | .target => 8
  | .seamUnbound => 9
  | .privilege => 10

/-- Fields of a code root (R303). -/
def rootImpt (r : BitVec 256) : Nat := (r.extractLsb' 128 52).toNat
def rootImpn (r : BitVec 256) : Nat := (r.extractLsb' 192 12).toNat
def rootObjt (r : BitVec 256) : Nat := (r.extractLsb' 0 52).toNat
def rootEpoch (r : BitVec 256) : Nat := (r.extractLsb' 240 16).toNat

/-- Whether any nibble of `n` bytes from an address is poisoned at the home. -/
def State.homePoisoned (s : State) (a n : Nat) : Bool := (List.range n).any fun i => s.memPoison.get 0 (a + i) != 0

/-- What reading an import entry gives (R304). -/
inductive Import where
  | ok (cref : W32)
  | invalid
  | poisoned
  deriving DecidableEq, Repr

/-- Import entry `i` of the context, through the root that the core has adopted. -/
def State.importEntry (s : State) (c ctx i : Nat) : Import :=
  let r := (s.core c).roots.get 0 ctx
  if i > rootImpn r then .invalid
  else
    let a := rootImpt r + 8 * i
    let v := BitVec.ofNat 64 (Memory.read s.mem a 8)
    if s.homePoisoned a 8 then .poisoned
    else if v.getLsbD 63 && v.extractLsb' 32 31 == 0 then .ok (v.setWidth 32)
    else .invalid

/-- Asks for a squall reset of a context (R296), unless one is under way. -/
def State.askSquall (s : State) (q : Squall) : State :=
  if s.squalls.any fun p => p.ctx == q.ctx then s else { s with squalls := s.squalls ++ [q] }

/-- A squall reset of a context as it is asked for, with a cause of R297. -/
def Squall.ask (ctx cause : Nat) : Squall :=
  { ctx := ctx, cause := cause, slot := none, tcause := 0, tpc := 0, tval := 0, stage := .asked, waits := [], gives := [],
    clock := 0, launches := [], cancelled := 0 }
/-- The squall that a slot's failed trap sets off (R281, R284): the record of the second fault. -/
def State.squallOf (s : State) (c n cause : Nat) (tpc tcause : W32) (tval : W64) : State :=
  s.askSquall { Squall.ask (s.bindOf c n).ctx cause with slot := some (c, n), tcause := tcause, tpc := tpc, tval := tval }

/-- Entering the handler (R281): mask set, records written, PC at import entry 0, all in one cycle; the slot is ready from
a cycle on. A record already written (a parked slot's) is given unchanged. -/
def State.enterHandlerAt (s : State) (c n ready : Nat) (tpc tcause : W32) (tval : W64) : State :=
  match s.importEntry c (s.bindOf c n).ctx 0 with
  | .ok pc =>
    s.onSlot c n fun t => { (t.goto pc) with
      masked := true, tpc := tpc, tcause := tcause, tval := tval, hold := .free, retry := false, seam := none,
      stay := none, notBefore := ready }
  | _ => s.squallOf c n 3 tpc tcause tval
/-- Entering it from an instruction, in the cycle of the trap: execution begins in the next. -/
def State.enterHandler (s : State) (c n : Nat) (tpc tcause : W32) (tval : W64) : State :=
  s.enterHandlerAt c n (s.clock + 1) tpc tcause tval

/-- The teams a slot is a member of (R23). -/
def Core.teamsOf (k : Core) (n : Nat) : List Nat := (k.teams.filter fun e => e.2.members.contains n).map Prod.fst

/-- `%team` of a slot. -/
def Core.teamMask (k : Core) (n : Nat) : W64 := (k.teamsOf n).foldl (fun a i => a ||| ((1#64) <<< i)) 0

/-- The set of a halt: members of the slot's teams other than the slot (R287). -/
def Core.haltSet (k : Core) (n : Nat) : List Nat :=
  ((k.teams.filter fun e => e.2.members.contains n).flatMap fun e => e.2.members).eraseDups.filter fun m => m != n

/-- Parking a slot at its instruction (R286, R287): records written, the halt of its teams fixed. -/
def State.park (s : State) (c n : Nat) (t : Trap) : State :=
  let set := (s.core c).haltSet n
  let enter := s.clock + (if (s.core c).teamsOf n = [] then 1 else 5)
  let s1 := s.onSlot c n fun u => { u with
    tpc := u.pc, tcause := t.record, tval := t.val, hold := .parked s.clock enter, parker := true, openPark := none,
    retry := false, seam := none }
  if (s.core c).teamsOf n = [] then s1
  else s1.onCore c fun k => { k with
    halts := k.halts ++ [{ slot := n, cycle := s.clock, members := set.map (fun m => (m, .running)), inSeam := [] }] }

/-- A lane takes a trap at its instruction: a double fault while masked (R284), else precise (R285) or parked. -/
def State.takeTrap (s : State) (c n : Nat) (t : Trap) : State :=
  let u := s.slot c n
  if u.masked then s.squallOf c n 2 u.pc t.record t.val
  else if t.cause.parks then s.park c n t
  else s.enterHandler c n u.pc t.record t.val

/-! The bundle. -/

/-- The bundle in execution; with none, an instruction acts on nothing. -/
def State.bundle (s : State) : Bundle := s.cur.getD { core := 0, quad := 0, slots := [], pc := 0, len := 0 }
/-- Runs f for each slot of the bundle, ascending. -/
def State.eachLane (s : State) (f : State → Nat → Nat → State) : State :=
  s.bundle.slots.foldl (fun u n => f u s.bundle.core n) s
/-- The lanes of the bundle whose guard holds (R19 `active`). -/
def State.active (s : State) (g : Guard) : List Nat :=
  s.bundle.slots.filter fun n => (s.slot s.bundle.core n).guard g
/-- The first poisoned register of a list that the slot reads. DESIGN CHOICE: R300 puts "the register number" in `%tval`
and does not say which where several sources are poisoned; the lists give vA, vB, vC in this order, a pair's low register
first, and vD last where it is read, log entry 68. -/
def Slot.firstPoison (t : Slot) (rs : List Nat) : Option Nat := rs.find? fun r => t.poisoned r
/-- The trap of a poisoned register: ACC 9, `%tval` the register number (R300). -/
def poisonTrap (r : Nat) : Trap := { cause := .poison, acc := 9, val := BitVec.ofNat 64 r }
/-- The slot steps past its instruction. -/
def State.advance (s : State) (c n : Nat) : State :=
  s.onSlot c n fun t => t.goto (pcAdd t.pc s.bundle.len)

/-- What every instruction of one lane alone does (R93, R300): in a lane whose guard fails nothing but the step past
it; a poisoned source parks the lane; otherwise f changes the slot, and the lane steps past. -/
def State.laneStep (s : State) (g : Guard) (srcs : List Nat) (f : Slot → Slot) (c n : Nat) : State :=
  let t := s.slot c n
  if t.guard g then
    match t.firstPoison srcs with
    | some r => s.takeTrap c n (poisonTrap r)
    | none => s.setSlot c n ((f t).goto (pcAdd t.pc s.bundle.len))
  else s.advance c n
/-- A lane-wise instruction over the whole bundle. -/
def State.laneWise (s : State) (g : Guard) (srcs : List Nat) (f : Slot → Slot) : State :=
  s.eachLane fun u c n => u.laneStep g srcs f c n

/-- The answer of every meaning that runs. -/
abbrev Result := Host.Outcome State Fault Refusal

/-- A lane-wise instruction as a meaning. -/
def lanes (g : Guard) (srcs : List Nat) (f : Slot → Slot) (s : State) : Result := .next (s.laneWise g srcs f)

/-! Return from an exception (R196, R284, R291). -/

/-- Whether a slot stands in the set of a halt of the core (R290). -/
def Core.inHalt (k : Core) (n : Nat) : Bool := k.halts.any fun h => h.members.any fun m => m.1 == n
/-- Whether a slot is stopped by a halt of the core, deferred ones left aside. -/
def Core.stoppedBy (k : Core) (n : Nat) : Bool := k.halts.any fun h => h.members.contains (n, .stopped)

/-- Sets a member's state in every halt that holds it in `old`. -/
def Core.markMember (k : Core) (n : Nat) (old new : MemberState) : Core :=
  { k with halts := k.halts.map fun h => { h with members := h.members.map fun m => if m = (n, old) then (n, new) else m } }

/-- The end of the halts that a slot set off: stopped members that stand in no other halt's set become ready in the next
cycle (R290, R291). -/
def State.endHalts (s : State) (c n : Nat) : State :=
  let ended := (s.core c).halts.filter fun h => h.slot == n
  let s1 := s.onCore c fun k => { k with halts := k.halts.filter fun h => h.slot != n }
  (ended.flatMap fun h => h.members.map Prod.fst).foldl (fun u m =>
    if (u.core c).inHalt m then u
    else u.onSlot c m fun t => if t.hold = .halted then { t with hold := .free, notBefore := s.clock + 1 } else t) s1

/-- HALTED, the record of R289. -/
def haltRecord (skid : Nat) : W32 := BitVec.ofNat 32 (0x20 + skid % 16 * 2 ^ 24)

/-- After `rte.retry` or `.skip`: a halt deferred by the handler stops the slot at this boundary with SKID 0 (R284); a
slot that had parked waits on the other halts without a record (R291). DEDUCED: log entry 42. -/
def State.afterRte (s : State) (c n : Nat) (parked : Bool) : State :=
  match (s.core c).halts.find? fun h => h.members.contains (n, .deferred) with
  | none => if (s.core c).stoppedBy n then s.onSlot c n fun t => { t with hold := .halted } else s
  | some h =>
    let s1 := s.onCore c fun k => k.markMember n .deferred .stopped
    s1.onSlot c n fun t =>
      if parked then { t with hold := .halted }
      else { t with hold := .halted, tpc := t.pc, tcause := haltRecord 0, tval := BitVec.ofNat 64 h.slot }

/-- The return from an exception to a code reference: the mask is cleared and PC set; a parked slot's halt ends. -/
def State.rteTo (s : State) (c n : Nat) (pc : W32) (retry : Bool) : State :=
  let parked := (s.slot c n).parker
  let s1 := s.onSlot c n fun t => { (t.goto pc) with masked := false, retry := retry, parker := false, openPark := none }
  (s1.endHalts c n).afterRte c n parked

/-- The illegal-instruction trap with its detail (R89). -/
def illegalTrap (d : Detail) : Trap := { cause := .illegal, val := BitVec.ofNat 64 (Detail.code d) }

end Sys2Proof.Machine
end

