-- ==== Sys2Proof/Machine/Operands.lean ====
section
/-! DEFINITION. Operand forms: registers and pairs (R24, R79), operand B (R80), line operands and offsets (R130, R137),
and the source lists that poison is checked over (R300). -/

namespace Sys2Proof.Machine

/-- The registers that an operand of one or two registers names. -/
def regsOf (wide : Bool) (r : Reg) : List Nat := if wide then [r.toNat, r.toNat + 1] else [r.toNat]
/-- `n` consecutive registers. -/
def regRun (r : Reg) (n : Nat) : List Nat := (List.range n).map fun i => r.toNat + i
end Sys2Proof.Machine

namespace Sys2Proof
open Machine

/-- The registers that operand B reads. -/
def OpB.srcs (wide : Bool) : OpB → List Nat
  | .reg r => regsOf wide r
  | .imm _ => []
  | .lit _ => []

end Sys2Proof

namespace Sys2Proof.Machine

/-- Operand B as 32 bits: a literal gives its low half (R80). -/
def Slot.b32 (t : Slot) : OpB → W32
  | .reg r => t.reg r.toNat
  | .imm v => v
  | .lit v => v.setWidth 32
/-- Operand B under a 64-bit type: IMM32 is sign-extended for `.i64` and zero-extended otherwise (R80). -/
def Slot.b64 (t : Slot) (signed : Bool) : OpB → W64
  | .reg r => t.pair r.toNat
  | .imm v => if signed then v.signExtend 64 else v.setWidth 64
  | .lit v => v

end Sys2Proof.Machine

namespace Sys2Proof
open Machine

/-- The signedness of types. -/
def IntTy.signed : IntTy → Bool
  | .i32 => true
  | .i64 => true
  | .n32 => false
  | .n64 => false
def I32Ty.signed : I32Ty → Bool
  | .i32 => true
  | .n32 => false
def BtTy.wide : BtTy → Bool
  | .b32 => false
  | .b64 => true
def SgnTy.wide : SgnTy → Bool
  | .i32 => false
  | .i64 => true
def NatTy.wide : NatTy → Bool
  | .n32 => false
  | .n64 => true
def ShrTy.wide : ShrTy → Bool
  | .b32 => false
  | .i32 => false
  | .n32 => false
  | .b64 => true
  | .i64 => true
  | .n64 => true
def ShrTy.signed : ShrTy → Bool
  | .i32 => true
  | .i64 => true
  | _ => false

end Sys2Proof

namespace Sys2Proof.Machine

/-- A function of one operand under a 32-bit or 64-bit type. -/
def Slot.un (t : Slot) (wide : Bool) (d a : Reg) (f : (w : Nat) → BitVec w → BitVec w) : Slot :=
  if wide then t.setPair d.toNat (f 64 (t.pair a.toNat)) else t.setReg d.toNat (f 32 (t.reg a.toNat))
/-- A function of two operands under a 32-bit or 64-bit type. -/
def Slot.bin (t : Slot) (wide signed : Bool) (d a : Reg) (b : OpB) (f : (w : Nat) → BitVec w → BitVec w → BitVec w) :
    Slot :=
  if wide then t.setPair d.toNat (f 64 (t.pair a.toNat) (t.b64 signed b))
  else t.setReg d.toNat (f 32 (t.reg a.toNat) (t.b32 b))
/-- A shift or rotation: the count is operand B's low 32 bits (R97). -/
def Slot.shift (t : Slot) (wide : Bool) (d a : Reg) (b : OpB) (f : (w : Nat) → BitVec w → Nat → BitVec w) : Slot :=
  let k := (t.b32 b).toNat
  if wide then t.setPair d.toNat (f 64 (t.pair a.toNat) k) else t.setReg d.toNat (f 32 (t.reg a.toNat) k)

/-- A packed 16-bit operation, element by element (R48). -/
def packed1 (f : Nat → Nat) (x : W32) : W32 :=
  BitVec.ofNat 16 (f (x.toNat / 65536)) ++ BitVec.ofNat 16 (f (x.toNat % 65536))
def packed2 (f : Nat → Nat → Nat) (x y : W32) : W32 :=
  BitVec.ofNat 16 (f (x.toNat / 65536) (y.toNat / 65536)) ++ BitVec.ofNat 16 (f (x.toNat % 65536) (y.toNat % 65536))
def packed3 (f : Nat → Nat → Nat → Nat) (x y z : W32) : W32 :=
  BitVec.ofNat 16 (f (x.toNat / 65536) (y.toNat / 65536) (z.toNat / 65536)) ++
    BitVec.ofNat 16 (f (x.toNat % 65536) (y.toNat % 65536) (z.toNat % 65536))
end Sys2Proof.Machine

namespace Sys2Proof
open Machine

/-- The format of a type of set F. -/
def FTy.fmt : FTy → Fmt
  | .fp32 => Machine.fp32
  | .fp16 => Machine.fp16
  | .bf16 => Machine.bf16
def F16Ty.fmt : F16Ty → Fmt
  | .fp16 => Machine.fp16
  | .bf16 => Machine.bf16
end Sys2Proof

namespace Sys2Proof.Machine

/-- Floating-point functions of one, two and three operands under a type of set F. -/
def fun1 (ty : FTy) (f : Fmt → Nat → Nat) (x : W32) : W32 :=
  match ty with
  | .fp32 => BitVec.ofNat 32 (f fp32 x.toNat)
  | _ => packed1 (f ty.fmt) x
def fun2 (ty : FTy) (f : Fmt → Nat → Nat → Nat) (x y : W32) : W32 :=
  match ty with
  | .fp32 => BitVec.ofNat 32 (f fp32 x.toNat y.toNat)
  | _ => packed2 (f ty.fmt) x y
def fun3 (ty : FTy) (f : Fmt → Nat → Nat → Nat → Nat) (x y z : W32) : W32 :=
  match ty with
  | .fp32 => BitVec.ofNat 32 (f fp32 x.toNat y.toNat z.toNat)
  | _ => packed3 (f ty.fmt) x y z
/-- Element k of a packed pair. -/
def half (x : W32) (k : Nat) : Nat := x.toNat / 65536 ^ k % 65536

end Sys2Proof.Machine

namespace Sys2Proof
open Machine

/-- Bytes of an access size. -/
def Size.bytes : Size → Nat
  | .b => 1
  | .h => 2
  | .w => 4
  | .d => 8
  | .x => 16
end Sys2Proof

namespace Sys2Proof.Machine

/-- The offset of R130 for a base register value. -/
def lineOff (b : W32) (imm : Nat) : Nat := (b.toNat + imm) % 128
/-- The word of an atomic: its offset aligned down to its size (R137). -/
def wordOff (b : W32) (bytes : Nat) : Nat := b.toNat % 128 - b.toNat % 128 % bytes
/-- Registers of `n` bytes read as one little-endian number, and written from one (R130). -/
def Slot.readRun (t : Slot) (r : Nat) : Nat → Nat
  | 0 => 0
  | n + 1 => Slot.readRun t r n + (t.reg (r + n)).toNat * 2 ^ (32 * n)
def Slot.writeRun (t : Slot) (r : Nat) (v : Nat) : Nat → Slot
  | 0 => t
  | n + 1 => (Slot.writeRun t r v n).setReg (r + n) (BitVec.ofNat 32 (v / 2 ^ (32 * n)))

end Sys2Proof.Machine
end

