-- ==== Sys2Proof/Machine/Flags.lean ====
section
/-! DEFINITION. Comparisons and what they write: conditions (R100), predicate results (R101), `%ostat` (R34), masks
(R167 to R169) and the combining operations with their identities (R137, R159, R170). -/

namespace Sys2Proof.Machine

end Sys2Proof.Machine

namespace Sys2Proof
open Machine

/-- An ordered condition on numbers. -/
def Cond.holds (c : Cond) (eq lt : Bool) : Bool :=
  match c with
  | .eq => eq
  | .ne => !eq
  | .lt => lt
  | .le => lt || eq
  | .gt => !lt && !eq
  | .ge => !lt
/-- A condition under an integer type. -/
def Cond.onInt {w : Nat} (c : Cond) (signed : Bool) (x y : BitVec w) : Bool :=
  c.holds (x == y) (if signed then x.slt y else x.ult y)
/-- A condition on FP32 values: with a NaN only `ne` is true (R100). -/
def Cond.onFp (c : Cond) (x y : Exact) : Bool :=
  if x.isNan || y.isNan then c == .ne else c.holds (x.eq y) (x.lt y)
/-- The truth that `setp` writes (R100). -/
def SetpTest.holds (t : SetpTest) (u : Slot) (a : Reg) (b : OpB) : Bool :=
  match t with
  | .int c ty =>
    if ty.wide then c.onInt ty.signed (u.pair a.toNat) (u.b64 ty.signed b)
    else c.onInt ty.signed (u.reg a.toNat) (u.b32 b)
  | .bits ne ty =>
    (if ty.wide then u.pair a.toNat == u.b64 false b else u.reg a.toNat == u.b32 b) != ne
  | .fp c => c.onFp (fp32.decode (u.reg a.toNat).toNat) (fp32.decode (u.b32 b).toNat)
  | .nan => (fp32.decode (u.reg a.toNat).toNat).isNan || (fp32.decode (u.b32 b).toNat).isNan
  | .num => !(fp32.decode (u.reg a.toNat).toNat).isNan && !(fp32.decode (u.b32 b).toNat).isNan
/-- Whether a `setp` test is on pairs. -/
def SetpTest.wide : SetpTest → Bool
  | .int _ t => t.wide
  | .bits _ t => t.wide
  | _ => false

end Sys2Proof

namespace Sys2Proof.Machine

/-- `%ostat` (R34). -/
def ostat (lreg : BitVec 4) (way : BitVec 2) (out : Nat) : W32 :=
  (lreg.setWidth 32 <<< 12) ||| (way.setWidth 32 <<< 8) ||| BitVec.ofNat 32 out

end Sys2Proof.Machine

namespace Sys2Proof
open Machine

/-- The combining operations on words of a width (R137, R159). -/
def ArithOp.onInt {w : Nat} (o : ArithOp) (signed : Bool) (x y : BitVec w) : BitVec w :=
  match o with
  | .add => x + y
  | .min => if (if signed then y.slt x else y.ult x) then y else x
  | .max => if (if signed then x.slt y else x.ult y) then y else x
def ArithOp.onFp (o : ArithOp) (x y : Nat) : Nat :=
  match o with
  | .add => faddCode fp32 .rne x y
  | .min => fminCode fp32 x y
  | .max => fmaxCode fp32 x y
def BitOp.on {w : Nat} (o : BitOp) (x y : BitVec w) : BitVec w :=
  match o with
  | .and => x &&& y
  | .or => x ||| y
  | .xor => x ^^^ y
/-- A reduction operation on values held in 64 bits; under a 32-bit type the low half counts. -/
def RedOp.combine (o : RedOp) (x y : W64) : W64 :=
  match o with
  | .arith a (.int t) =>
    if t.wide then a.onInt t.signed x y
    else (a.onInt t.signed (x.setWidth 32) (y.setWidth 32)).setWidth 64
  | .arith a .fp32 => BitVec.ofNat 64 (a.onFp (x.setWidth 32).toNat (y.setWidth 32).toNat)
  | .bits b t => if t.wide then b.on x y else (b.on (x.setWidth 32) (y.setWidth 32)).setWidth 64
/-- Bytes of the word of an operation. -/
def RedOp.bytes (o : RedOp) : Nat := 4 * o.cnt
def AtomOp.bytes (o : AtomOp) : Nat := 4 * o.cnt
/-- An atomic's new word from the old one, its operand, and for `cas` its second operand (R138). -/
def AtomOp.apply (o : AtomOp) (x a new : W64) : W64 :=
  match o with
  | .red r => r.combine x a
  | .exch _ => a
  | .cas _ => if x = a then new else x
/-- Whether it adds FP32 values, which R138 combines in its own order. -/
def RedOp.isFadd : RedOp → Bool
  | .arith .add .fp32 => true
  | _ => false
def AtomOp.isFadd : AtomOp → Bool
  | .red r => r.isFadd
  | _ => false
/-- The operation of a `tred`. -/
def TredOp.combine (o : TredOp) (x y : W64) : W64 :=
  match o with
  | .arith a t => RedOp.combine (.arith a t) x y
  | .bits b => RedOp.combine (.bits b .b32) x y
/-- The operation of `cred` and `cscan`. -/
def CrOp.combine (o : CrOp) (x y : W32) : W32 :=
  match o with
  | .arith a .i32 => a.onInt true x y
  | .arith a .n32 => a.onInt false x y
  | .arith a .fp32 => BitVec.ofNat 32 (a.onFp x.toNat y.toNat)
  | .bits b => b.on x y
/-- The identities of R170. -/
def CrOp.identity : CrOp → W32
  | .arith .add _ => 0
  | .arith .min .i32 => 0x7FFFFFFF
  | .arith .min .n32 => 0xFFFFFFFF
  | .arith .min .fp32 => 0x7F800000
  | .arith .max .i32 => 0x80000000
  | .arith .max .n32 => 0
  | .arith .max .fp32 => 0xFF800000
  | .bits .and => 0xFFFFFFFF
  | .bits .or => 0
  | .bits .xor => 0

end Sys2Proof

namespace Sys2Proof.Machine

end Sys2Proof.Machine
end

