-- ==== Sys2Proof/Machine/Alu.lean ====
section
/-! DEFINITION. Integer, address, logic, shift, bit-field, comparison and predicate instructions (R93 to R101), their C
forms (R73, R74) and `nop`. -/

namespace Sys2Proof.Machine

/-- The shifts of R97: a count of the width or more leaves zeros, or sign bits. -/
def shlBits (w : Nat) (x : BitVec w) (k : Nat) : BitVec w := if k < w then x <<< k else 0
def shrBits (w : Nat) (x : BitVec w) (k : Nat) : BitVec w := if k < w then x >>> k else 0
def sarBits (w : Nat) (x : BitVec w) (k : Nat) : BitVec w := x.sshiftRight (min k w)
/-- The number of one bits, and of zero bits above the highest one (R98). -/
def popCount (w : Nat) (x : BitVec w) : BitVec w :=
  BitVec.ofNat w ((List.range w).countP fun i => x.getLsbD i)
def leadingZeros (w : Nat) (x : BitVec w) : BitVec w :=
  BitVec.ofNat w (if x.toNat = 0 then w else w - 1 - x.toNat.log2)
/-- A with bit i moved to bit 31 − i. -/
def reverseBits (x : W32) : W32 :=
  (List.range 32).foldl (fun a i => if x.getLsbD i then a ||| ((1#32) <<< (31 - i)) else a) 0
/-- `bfe` (R99). -/
def bitField (signed : Bool) (x b c : W32) : W32 :=
  let p := min (b.toNat % 256) 32
  let n := min (c.toNat % 256) (32 - p)
  if n = 0 then 0
  else
    let f : BitVec n := x.extractLsb' p n
    if signed then f.signExtend 32 else f.setWidth 32
/-- `bfi` (R99). -/
def insertField (x b c : W32) : W32 :=
  let p := min (b.toNat % 256) 32
  let n := min (b.toNat / 256 % 256) (32 - p)
  let m : W32 := BitVec.ofNat 32 (2 ^ n - 1) <<< p
  (c &&& ~~~m) ||| ((x <<< p) &&& m)
/-- `mulhi` (R95). -/
def mulHigh (signed : Bool) (x y : W32) : W32 :=
  if signed then BitVec.ofInt 32 (x.toInt * y.toInt / 2 ^ 32) else BitVec.ofNat 32 (x.toNat * y.toNat / 2 ^ 32)
/-- `madw` (R95). -/
def mulWide (signed : Bool) (x y : W32) (c : W64) : W64 :=
  (if signed then BitVec.ofInt 64 (x.toInt * y.toInt) else BitVec.ofNat 64 (x.toNat * y.toNat)) + c

/-- The predicate operations of R101 in one lane. -/
def Slot.predOp (t : Slot) (d a b : PredNo) (f : Bool → Bool → Bool) : Slot := t.setPred d (f (t.pred a) (t.pred b))


/-- `add` (R95). -/
def execAdd (g : Guard) (t : IntTy) (d a : Reg) (b : OpB) (s : State) : Result :=
  lanes g (regsOf t.wide a ++ b.srcs t.wide) (fun u => u.bin t.wide t.signed d a b fun _ x y => x + y) s

/-- `sub` (R95). -/
def execSub (g : Guard) (t : IntTy) (d a : Reg) (b : OpB) (s : State) : Result :=
  lanes g (regsOf t.wide a ++ b.srcs t.wide) (fun u => u.bin t.wide t.signed d a b fun _ x y => x - y) s

/-- `mul` (R95). -/
def execMul (g : Guard) (t : IntTy) (d a : Reg) (b : OpB) (s : State) : Result :=
  lanes g (regsOf t.wide a ++ b.srcs t.wide) (fun u => u.bin t.wide t.signed d a b fun _ x y => x * y) s

/-- `mulhi` (R95). -/
def execMulhi (g : Guard) (t : I32Ty) (d a : Reg) (b : OpB) (s : State) : Result :=
  lanes g ([a.toNat] ++ b.srcs false) (fun u => u.setReg d.toNat (mulHigh t.signed (u.reg a.toNat) (u.b32 b))) s

/-- `mad` (R95). -/
def execMad (g : Guard) (t : IntTy) (d a : Reg) (b : OpB) (c : Reg) (s : State) : Result :=
  lanes g (regsOf t.wide a ++ b.srcs t.wide ++ regsOf t.wide c) (fun u =>
    if t.wide then u.setPair d.toNat (u.pair a.toNat * u.b64 t.signed b + u.pair c.toNat)
    else u.setReg d.toNat (u.reg a.toNat * u.b32 b + u.reg c.toNat)) s

/-- `madw` (R95). -/
def execMadw (g : Guard) (t : I32Ty) (d a : Reg) (b : OpB) (c : Reg) (s : State) : Result :=
  lanes g ([a.toNat] ++ b.srcs false ++ regsOf true c) (fun u =>
    u.setPair d.toNat (mulWide t.signed (u.reg a.toNat) (u.b32 b) (u.pair c.toNat))) s

/-- `min` (R95). -/
def execMin (g : Guard) (t : IntTy) (d a : Reg) (b : OpB) (s : State) : Result :=
  lanes g (regsOf t.wide a ++ b.srcs t.wide) (fun u => u.bin t.wide t.signed d a b fun _ x y => ArithOp.onInt .min t.signed x y) s

/-- `max` (R95). -/
def execMax (g : Guard) (t : IntTy) (d a : Reg) (b : OpB) (s : State) : Result :=
  lanes g (regsOf t.wide a ++ b.srcs t.wide) (fun u => u.bin t.wide t.signed d a b fun _ x y => ArithOp.onInt .max t.signed x y) s

/-- `abs` (R95). -/
def execAbs (g : Guard) (t : SgnTy) (d a : Reg) (s : State) : Result :=
  lanes g (regsOf t.wide a) (fun u => u.un t.wide d a fun _ x => if x.msb then -x else x) s

/-- `neg` (R95). -/
def execNeg (g : Guard) (t : SgnTy) (d a : Reg) (s : State) : Result :=
  lanes g (regsOf t.wide a) (fun u => u.un t.wide d a fun _ x => -x) s

/-- `lea` (R95). -/
def execLea (g : Guard) (t : NatTy) (d a : Reg) (b : OpB) (sh : BitVec 3) (s : State) : Result :=
  lanes g (regsOf t.wide a ++ b.srcs t.wide) (fun u => u.bin t.wide false d a b fun _ x y => x + y <<< sh.toNat) s

/-- `and` (R96). -/
def execAnd (g : Guard) (t : BtTy) (d a : Reg) (b : OpB) (s : State) : Result :=
  lanes g (regsOf t.wide a ++ b.srcs t.wide) (fun u => u.bin t.wide false d a b fun _ x y => x &&& y) s

/-- `or` (R96). -/
def execOr (g : Guard) (t : BtTy) (d a : Reg) (b : OpB) (s : State) : Result :=
  lanes g (regsOf t.wide a ++ b.srcs t.wide) (fun u => u.bin t.wide false d a b fun _ x y => x ||| y) s

/-- `xor` (R96). -/
def execXor (g : Guard) (t : BtTy) (d a : Reg) (b : OpB) (s : State) : Result :=
  lanes g (regsOf t.wide a ++ b.srcs t.wide) (fun u => u.bin t.wide false d a b fun _ x y => x ^^^ y) s

/-- `not` (R96). -/
def execNot (g : Guard) (t : BtTy) (d a : Reg) (s : State) : Result :=
  lanes g (regsOf t.wide a) (fun u => u.un t.wide d a fun _ x => ~~~x) s

/-- `andn` (R96). -/
def execAndn (g : Guard) (t : BtTy) (d a : Reg) (b : OpB) (s : State) : Result :=
  lanes g (regsOf t.wide a ++ b.srcs t.wide) (fun u => u.bin t.wide false d a b fun _ x y => x &&& ~~~y) s

/-- `shl` (R97). -/
def execShl (g : Guard) (t : BtTy) (d a : Reg) (b : OpB) (s : State) : Result :=
  lanes g (regsOf t.wide a ++ b.srcs false) (fun u => u.shift t.wide d a b shlBits) s

/-- `shr` (R97). -/
def execShr (g : Guard) (t : ShrTy) (d a : Reg) (b : OpB) (s : State) : Result :=
  lanes g (regsOf t.wide a ++ b.srcs false) (fun u => u.shift t.wide d a b (if t.signed then sarBits else shrBits)) s

/-- `rot` (R97). -/
def execRot (g : Guard) (d a : Reg) (b : OpB) (s : State) : Result :=
  lanes g ([a.toNat] ++ b.srcs false) (fun u => u.shift false d a b fun _ x k => x.rotateLeft (k % 32)) s

/-- `popc` (R98). -/
def execPopc (g : Guard) (t : BtTy) (d a : Reg) (s : State) : Result :=
  lanes g (regsOf t.wide a) (fun u => u.un t.wide d a popCount) s

/-- `clz` (R98). -/
def execClz (g : Guard) (t : BtTy) (d a : Reg) (s : State) : Result :=
  lanes g (regsOf t.wide a) (fun u => u.un t.wide d a leadingZeros) s

/-- `brev` (R98). -/
def execBrev (g : Guard) (d a : Reg) (s : State) : Result :=
  lanes g [a.toNat] (fun u => u.setReg d.toNat (reverseBits (u.reg a.toNat))) s

/-- `bfe` (R99). -/
def execBfe (g : Guard) (t : I32Ty) (d a : Reg) (b : OpB) (c : Reg) (s : State) : Result :=
  lanes g ([a.toNat] ++ b.srcs false ++ [c.toNat]) (fun u =>
    u.setReg d.toNat (bitField t.signed (u.reg a.toNat) (u.b32 b) (u.reg c.toNat))) s

/-- `bfi` (R99). -/
def execBfi (g : Guard) (d a : Reg) (b : OpB) (c : Reg) (s : State) : Result :=
  lanes g ([a.toNat] ++ b.srcs false ++ [c.toNat]) (fun u =>
    u.setReg d.toNat (insertField (u.reg a.toNat) (u.b32 b) (u.reg c.toNat))) s

/-- `sel` (R96). -/
def execSel (g : Guard) (t : BtTy) (d a : Reg) (b : OpB) (c : PredNo) (s : State) : Result :=
  lanes g (regsOf t.wide a ++ b.srcs t.wide) (fun u =>
    u.bin t.wide false d a b fun _ x y => if u.pred c then x else y) s

/-- `mov` (R96). -/
def execMov (g : Guard) (t : BtTy) (d : Reg) (b : OpB) (s : State) : Result :=
  lanes g (b.srcs t.wide) (fun u =>
    if t.wide then u.setPair d.toNat (u.b64 false b) else u.setReg d.toNat (u.b32 b)) s

/-- `setp` (R100). -/
def execSetp (g : Guard) (test : SetpTest) (p : PredNo) (a : Reg) (b : OpB) (s : State) : Result :=
  lanes g (regsOf test.wide a ++ b.srcs test.wide) (fun u => u.setPred p (test.holds u a b)) s

/-- `pand` (R101). -/
def execPand (g : Guard) (d a b : PredNo) (s : State) : Result :=
  lanes g [] (fun u => u.predOp d a b fun x y => x && y) s

/-- C-form `pand` (R101). -/
def execPandC (d a b : PredNo) (s : State) : Result :=
  lanes .always [] (fun u => u.predOp d a b fun x y => x && y) s

/-- `por` (R101). -/
def execPor (g : Guard) (d a b : PredNo) (s : State) : Result :=
  lanes g [] (fun u => u.predOp d a b fun x y => x || y) s

/-- C-form `por` (R101). -/
def execPorC (d a b : PredNo) (s : State) : Result :=
  lanes .always [] (fun u => u.predOp d a b fun x y => x || y) s

/-- `pxor` (R101). -/
def execPxor (g : Guard) (d a b : PredNo) (s : State) : Result :=
  lanes g [] (fun u => u.predOp d a b fun x y => x != y) s

/-- C-form `pxor` (R101). -/
def execPxorC (d a b : PredNo) (s : State) : Result :=
  lanes .always [] (fun u => u.predOp d a b fun x y => x != y) s

/-- `pandn` (R101). -/
def execPandn (g : Guard) (d a b : PredNo) (s : State) : Result :=
  lanes g [] (fun u => u.predOp d a b fun x y => x && !y) s

/-- C-form `pandn` (R101). -/
def execPandnC (d a b : PredNo) (s : State) : Result :=
  lanes .always [] (fun u => u.predOp d a b fun x y => x && !y) s

/-- `pmov` (R101). -/
def execPmov (g : Guard) (d a : PredNo) (s : State) : Result :=
  lanes g [] (fun u => u.predOp d a a fun x _ => x) s

/-- C-form `pmov` (R101). -/
def execPmovC (d a : PredNo) (s : State) : Result :=
  lanes .always [] (fun u => u.predOp d a a fun x _ => x) s

/-- `pnot` (R101). -/
def execPnot (g : Guard) (d a : PredNo) (s : State) : Result :=
  lanes g [] (fun u => u.predOp d a a fun x _ => !x) s

/-- C-form `pnot` (R101). -/
def execPnotC (d a : PredNo) (s : State) : Result :=
  lanes .always [] (fun u => u.predOp d a a fun x _ => !x) s

/-- `nop` (R147). -/
def execNop (g : Guard) (s : State) : Result :=
  lanes g [] (fun u => u) s

/-- C-form `nop` (R147). -/
def execNopC  (s : State) : Result :=
  lanes .always [] (fun u => u) s

/-- C-form `mov.b32` (R96). -/
def execMovB32C (d b : Reg) (s : State) : Result :=
  lanes .always [b.toNat] (fun u => u.setReg d.toNat (u.reg b.toNat)) s

/-- C-form `mov.b32` (R96). -/
def execMovB32Clit (d : Reg) (lit : W32) (s : State) : Result :=
  lanes .always [] (fun u => u.setReg d.toNat (lit)) s

/-- C-form `mov.b32` (R96). -/
def execMovB32Imm8C (d : Reg) (i : BitVec 8) (s : State) : Result :=
  lanes .always [] (fun u => u.setReg d.toNat (i.signExtend 32)) s

/-- C-form `add.i32` (R95). -/
def execAddI32C (d a b : Reg) (s : State) : Result :=
  lanes .always [a.toNat, b.toNat] (fun u => u.bin false false d a (.reg b) fun _ x y => x + y) s

/-- C-form with literal `add.i32` (R95). -/
def execAddI32Clit (d a : Reg) (lit : W32) (s : State) : Result :=
  lanes .always [a.toNat] (fun u => u.bin false false d a (.imm lit) fun _ x y => x + y) s

/-- C-form with imm8 `add.i32` (R95). -/
def execAddI32Imm8C (d a : Reg) (i : BitVec 8) (s : State) : Result :=
  lanes .always [a.toNat] (fun u => u.bin false false d a (.imm (i.signExtend 32)) fun _ x y => x + y) s

/-- C-form `sub.i32` (R95). -/
def execSubI32C (d a b : Reg) (s : State) : Result :=
  lanes .always [a.toNat, b.toNat] (fun u => u.bin false false d a (.reg b) fun _ x y => x - y) s

/-- C-form with literal `sub.i32` (R95). -/
def execSubI32Clit (d a : Reg) (lit : W32) (s : State) : Result :=
  lanes .always [a.toNat] (fun u => u.bin false false d a (.imm lit) fun _ x y => x - y) s

/-- C-form `mul.i32` (R95). -/
def execMulI32C (d a b : Reg) (s : State) : Result :=
  lanes .always [a.toNat, b.toNat] (fun u => u.bin false false d a (.reg b) fun _ x y => x * y) s

/-- C-form with literal `mul.i32` (R95). -/
def execMulI32Clit (d a : Reg) (lit : W32) (s : State) : Result :=
  lanes .always [a.toNat] (fun u => u.bin false false d a (.imm lit) fun _ x y => x * y) s

/-- C-form `and.b32` (R96). -/
def execAndB32C (d a b : Reg) (s : State) : Result :=
  lanes .always [a.toNat, b.toNat] (fun u => u.bin false false d a (.reg b) fun _ x y => x &&& y) s

/-- C-form with literal `and.b32` (R96). -/
def execAndB32Clit (d a : Reg) (lit : W32) (s : State) : Result :=
  lanes .always [a.toNat] (fun u => u.bin false false d a (.imm lit) fun _ x y => x &&& y) s

/-- C-form with imm8 `and.b32` (R96). -/
def execAndB32Imm8C (d a : Reg) (i : BitVec 8) (s : State) : Result :=
  lanes .always [a.toNat] (fun u => u.bin false false d a (.imm (i.setWidth 32)) fun _ x y => x &&& y) s

/-- C-form `or.b32` (R96). -/
def execOrB32C (d a b : Reg) (s : State) : Result :=
  lanes .always [a.toNat, b.toNat] (fun u => u.bin false false d a (.reg b) fun _ x y => x ||| y) s

/-- C-form with literal `or.b32` (R96). -/
def execOrB32Clit (d a : Reg) (lit : W32) (s : State) : Result :=
  lanes .always [a.toNat] (fun u => u.bin false false d a (.imm lit) fun _ x y => x ||| y) s

/-- C-form `xor.b32` (R96). -/
def execXorB32C (d a b : Reg) (s : State) : Result :=
  lanes .always [a.toNat, b.toNat] (fun u => u.bin false false d a (.reg b) fun _ x y => x ^^^ y) s

/-- C-form with literal `xor.b32` (R96). -/
def execXorB32Clit (d a : Reg) (lit : W32) (s : State) : Result :=
  lanes .always [a.toNat] (fun u => u.bin false false d a (.imm lit) fun _ x y => x ^^^ y) s

/-- C-form `shl.b32` (R97). -/
def execShlB32C (d a b : Reg) (s : State) : Result :=
  lanes .always [a.toNat, b.toNat] (fun u => u.shift false d a (.reg b) shlBits) s

/-- C-form with literal `shl.b32` (R97). -/
def execShlB32Clit (d a : Reg) (lit : W32) (s : State) : Result :=
  lanes .always [a.toNat] (fun u => u.shift false d a (.imm lit) shlBits) s

/-- C-form with imm8 `shl.b32` (R97). -/
def execShlB32Imm8C (d a : Reg) (i : BitVec 8) (s : State) : Result :=
  lanes .always [a.toNat] (fun u => u.shift false d a (.imm (i.setWidth 32)) shlBits) s

/-- C-form `shr.b32` (R97). -/
def execShrB32C (d a b : Reg) (s : State) : Result :=
  lanes .always [a.toNat, b.toNat] (fun u => u.shift false d a (.reg b) shrBits) s

/-- C-form with literal `shr.b32` (R97). -/
def execShrB32Clit (d a : Reg) (lit : W32) (s : State) : Result :=
  lanes .always [a.toNat] (fun u => u.shift false d a (.imm lit) shrBits) s

/-- C-form with imm8 `shr.b32` (R97). -/
def execShrB32Imm8C (d a : Reg) (i : BitVec 8) (s : State) : Result :=
  lanes .always [a.toNat] (fun u => u.shift false d a (.imm (i.setWidth 32)) shrBits) s

/-- C-form with imm8 `shr.i32` (R97). -/
def execShrI32Imm8C (d a : Reg) (i : BitVec 8) (s : State) : Result :=
  lanes .always [a.toNat] (fun u => u.shift false d a (.imm (i.setWidth 32)) sarBits) s

/-- C-form `min.i32` (R95). -/
def execMinI32C (d a b : Reg) (s : State) : Result :=
  lanes .always [a.toNat, b.toNat] (fun u => u.bin false false d a (.reg b) fun _ x y => ArithOp.onInt .min true x y) s

/-- C-form with literal `min.i32` (R95). -/
def execMinI32Clit (d a : Reg) (lit : W32) (s : State) : Result :=
  lanes .always [a.toNat] (fun u => u.bin false false d a (.imm lit) fun _ x y => ArithOp.onInt .min true x y) s

/-- C-form `max.i32` (R95). -/
def execMaxI32C (d a b : Reg) (s : State) : Result :=
  lanes .always [a.toNat, b.toNat] (fun u => u.bin false false d a (.reg b) fun _ x y => ArithOp.onInt .max true x y) s

/-- C-form with literal `max.i32` (R95). -/
def execMaxI32Clit (d a : Reg) (lit : W32) (s : State) : Result :=
  lanes .always [a.toNat] (fun u => u.bin false false d a (.imm lit) fun _ x y => ArithOp.onInt .max true x y) s

/-- C-form `lea.n32` with shift 2 (R95). -/
def execLeaN32C (d a b : Reg) (s : State) : Result :=
  lanes .always [a.toNat, b.toNat] (fun u => u.bin false false d a (.reg b) fun _ x y => x + y <<< 2) s

/-- C-form with literal `lea.n32` with shift 2 (R95). -/
def execLeaN32Clit (d a : Reg) (lit : W32) (s : State) : Result :=
  lanes .always [a.toNat] (fun u => u.bin false false d a (.imm lit) fun _ x y => x + y <<< 2) s

/-- C-form `popc.b32` (R98). -/
def execPopcB32C (d a : Reg) (s : State) : Result :=
  lanes .always [a.toNat] (fun u => u.un false d a popCount) s

/-- C-form `clz.b32` (R98). -/
def execClzB32C (d a : Reg) (s : State) : Result :=
  lanes .always [a.toNat] (fun u => u.un false d a leadingZeros) s

/-- C-form `setp` (R100). -/
def execSetpEqB32C (p : PredNo) (a b : Reg) (s : State) : Result :=
  lanes .always [a.toNat, b.toNat] (fun u => u.setPred p (SetpTest.holds (.bits false .b32) u a (.reg b))) s

/-- C-form `setp` with literal (R100). -/
def execSetpEqB32Clit (p : PredNo) (a : Reg) (lit : W32) (s : State) : Result :=
  lanes .always [a.toNat] (fun u => u.setPred p (SetpTest.holds (.bits false .b32) u a (.imm lit))) s

/-- C-form `setp` (R100). -/
def execSetpNeB32C (p : PredNo) (a b : Reg) (s : State) : Result :=
  lanes .always [a.toNat, b.toNat] (fun u => u.setPred p (SetpTest.holds (.bits true .b32) u a (.reg b))) s

/-- C-form `setp` with literal (R100). -/
def execSetpNeB32Clit (p : PredNo) (a : Reg) (lit : W32) (s : State) : Result :=
  lanes .always [a.toNat] (fun u => u.setPred p (SetpTest.holds (.bits true .b32) u a (.imm lit))) s

/-- C-form `setp` (R100). -/
def execSetpLtI32C (p : PredNo) (a b : Reg) (s : State) : Result :=
  lanes .always [a.toNat, b.toNat] (fun u => u.setPred p (SetpTest.holds (.int .lt .i32) u a (.reg b))) s

/-- C-form `setp` with literal (R100). -/
def execSetpLtI32Clit (p : PredNo) (a : Reg) (lit : W32) (s : State) : Result :=
  lanes .always [a.toNat] (fun u => u.setPred p (SetpTest.holds (.int .lt .i32) u a (.imm lit))) s

/-- C-form `setp` (R100). -/
def execSetpGeI32C (p : PredNo) (a b : Reg) (s : State) : Result :=
  lanes .always [a.toNat, b.toNat] (fun u => u.setPred p (SetpTest.holds (.int .ge .i32) u a (.reg b))) s

/-- C-form `setp` with literal (R100). -/
def execSetpGeI32Clit (p : PredNo) (a : Reg) (lit : W32) (s : State) : Result :=
  lanes .always [a.toNat] (fun u => u.setPred p (SetpTest.holds (.int .ge .i32) u a (.imm lit))) s

/-- C-form `setp` (R100). -/
def execSetpLtN32C (p : PredNo) (a b : Reg) (s : State) : Result :=
  lanes .always [a.toNat, b.toNat] (fun u => u.setPred p (SetpTest.holds (.int .lt .n32) u a (.reg b))) s

/-- C-form `setp` with literal (R100). -/
def execSetpLtN32Clit (p : PredNo) (a : Reg) (lit : W32) (s : State) : Result :=
  lanes .always [a.toNat] (fun u => u.setPred p (SetpTest.holds (.int .lt .n32) u a (.imm lit))) s

/-- C-form `setp` (R100). -/
def execSetpGeN32C (p : PredNo) (a b : Reg) (s : State) : Result :=
  lanes .always [a.toNat, b.toNat] (fun u => u.setPred p (SetpTest.holds (.int .ge .n32) u a (.reg b))) s

/-- C-form `setp` with literal (R100). -/
def execSetpGeN32Clit (p : PredNo) (a : Reg) (lit : W32) (s : State) : Result :=
  lanes .always [a.toNat] (fun u => u.setPred p (SetpTest.holds (.int .ge .n32) u a (.imm lit))) s

/-- C-form `setp` (R100). -/
def execSetpLtFp32C (p : PredNo) (a b : Reg) (s : State) : Result :=
  lanes .always [a.toNat, b.toNat] (fun u => u.setPred p (SetpTest.holds (.fp .lt) u a (.reg b))) s

/-- C-form `setp` with literal (R100). -/
def execSetpLtFp32Clit (p : PredNo) (a : Reg) (lit : W32) (s : State) : Result :=
  lanes .always [a.toNat] (fun u => u.setPred p (SetpTest.holds (.fp .lt) u a (.imm lit))) s

/-- C-form `setp` (R100). -/
def execSetpGeFp32C (p : PredNo) (a b : Reg) (s : State) : Result :=
  lanes .always [a.toNat, b.toNat] (fun u => u.setPred p (SetpTest.holds (.fp .ge) u a (.reg b))) s

/-- C-form `setp` with literal (R100). -/
def execSetpGeFp32Clit (p : PredNo) (a : Reg) (lit : W32) (s : State) : Result :=
  lanes .always [a.toNat] (fun u => u.setPred p (SetpTest.holds (.fp .ge) u a (.imm lit))) s

end Sys2Proof.Machine
end

