-- ==== Sys2Proof/Machine/Home.lean ====
section
/-! DEFINITION. Homes: how a request travels and in what order a slice performs it (R226, R227, R240, R244, R245, R248,
R250), what a slice does with each kind of request (R225 to R230, R357), and the device steps that do so. -/

namespace Sys2Proof.Machine

namespace State

/-- The line at a home. -/
def homeLine (s : State) (pa : Nat) : Line := BitVec.ofNat 1024 (Memory.read s.mem (lineAddr pa) 128)
/-- Its poisoned nibbles. -/
def homePoison (s : State) (pa : Nat) : Nibbles :=
  (List.range 128).foldl (fun m i => m ||| ((s.memPoison.get 0 (lineAddr pa + i)).setWidth 256 <<< (2 * i))) 0

/-- Stores the nibbles of a mask in the line, with their poison (R132, R220); sum records are not looked at. -/
def putLine (s : State) (pa : Nat) (mask poison : Nibbles) (data : Line) : State :=
  let a := lineAddr pa
  let new := (s.homeLine pa).merge mask data
  let bad := (s.homePoison pa &&& ~~~mask) ||| (poison &&& mask)
  (List.range 128).foldl (fun u i =>
    if (mask.extractLsb' (2 * i) 2) = 0 then u
    else
      let q := bad.extractLsb' (2 * i) 2
      { u with
        mem := Memory.set u.mem (a + i) (new.byte i)
        memPoison := if q = 0 then u.memPoison.del (a + i) else u.memPoison.put (a + i) q }) s

/-- The `sum` records of a line, ascending by core. -/
def sumsOf (s : State) (pa : Nat) : List SumRec :=
  (List.range Config.cores).filterMap fun c => s.sums.find? fun r => r.line == lineAddr pa && r.core == c
/-- What a fold at this instant would leave (R230), and what a `sum` read returns (R141). -/
def foldedLine (s : State) (pa : Nat) : Line :=
  (s.sumsOf pa).foldl (fun l r => l.addWords 32 r.data) (s.homeLine pa)
/-- A fold (R230). -/
def foldLine (s : State) (pa : Nat) : State :=
  if (s.sumsOf pa).isEmpty then s
  else { (s.putLine pa (-1) (s.homePoison pa) (s.foldedLine pa)) with
         sums := s.sums.filter fun r => r.line != lineAddr pa }

/-- A word of `n` bytes at the home. -/
def homeWord (s : State) (a n : Nat) : W64 := BitVec.ofNat 64 (Memory.read s.mem a n)
/-- Whether any of its nibbles is poisoned. -/
def wordPoisoned (s : State) (a n : Nat) : Bool := s.homePoisoned a n

/-! Requests. -/

/-- The request of a number. -/
def req? (s : State) (id : Nat) : Option Req := s.reqs.find? fun r => r.id == id
/-- Replaces it. -/
def setReq (s : State) (r : Req) : State := { s with reqs := s.reqs.map fun q => if q.id = r.id then r else q }
def dropReq (s : State) (id : Nat) : State := { s with reqs := s.reqs.filter fun q => q.id != id }

/-- Stages before a request is performed. A `sigw` that waits at its slice has been read there (R228). -/
def unperformed : Stage → Bool
  | .unit => true
  | .source => true
  | .out _ => true
  | .link _ => true
  | .away _ => true
  | .port => true
  | .held => true
  | _ => false
/-- Write-backs and `sum` deliveries are never held by a hand-over (R241). -/
def neverHeld : ReqKind → Bool
  | .writeBack _ _ _ => true
  | .sum _ => true
  | _ => false
/-- `sum` reads stand outside the per-thread home order (R145). -/
def sumRead : ReqKind → Bool
  | .read _ _ sum => sum
  | _ => false
/-- Accesses of the per-thread home order (R143, R189 to R191). -/
def homeOrder : ReqKind → Bool
  | .read _ _ sum => !sum
  | .write _ _ => true
  | .atom _ _ _ _ => true
  | .red _ _ _ => true
  | .sig _ _ => true
  | .sigw _ _ _ _ => true
  | .give _ _ _ => true
  | _ => false
/-- Of these, those that hold later accesses of their lanes; a `sigw` has ended before its lane issues again. -/
def threadOrdered : ReqKind → Bool
  | .sigw _ _ _ _ => false
  | k => homeOrder k
/-- A request that a slice performs (R225), as against one to an arbiter or to the host. -/
def atSlice : ReqKind → Bool
  | .give _ _ _ => false
  | .own _ _ => false
  | .message _ _ => false
  | _ => true
/-- The engine operation whose channel a request belongs to (R227). -/
def engineOf : ReqKind → Option Nat
  | .engRead op _ => some op
  | .engWrite op _ _ _ _ => some op
  | _ => none
/-- The channel outside that a request belongs to. -/
def outerOf : ReqKind → Option Nat
  | .outer chan _ _ => some chan
  | _ => none
/-- The home slice of a line, or the host as one further slice (R143, R250, R254). -/
def channel (dest : Dest) (pa : Nat) : Dest × Nat :=
  (dest, match dest with
    | .host => 0
    | _ => 16 * stackOf pa + sliceOf pa)
def sameSlice (a b : Req) : Bool := channel a.dest a.pa == channel b.dest b.pa
def sameLine (a b : Req) : Bool := a.dest == b.dest && lineAddr a.pa == lineAddr b.pa
/-- Requests of one source that share a slot. -/
def sharesLane (a b : Req) : Bool := a.core == b.core && a.agent == b.agent && a.lanes.any b.lanes.contains
/-- Requests of one channel (R227). -/
def sharesChannel (a b : Req) : Bool :=
  match engineOf a.kind, engineOf b.kind, outerOf a.kind, outerOf b.kind with
  | some x, some y, _, _ => x == y && a.core == b.core
  | none, none, some x, some y => x == y
  | none, none, none, none => sharesLane a b
  | _, _, _, _ => false
/-- A fill, and a host channel's request. -/
def isFill : ReqKind → Bool
  | .fill _ => true
  | _ => false
def hostChannel : ReqKind → Bool
  | .outer chan _ _ => decide (chan < 1024)
  | _ => false
/-- Whether an earlier request must be performed before a later one: in its channel at one slice (R227), in the home
order of a thread (R143), a host channel's in the order sent (R257), and behind a write-back (R136, R219). A `copy` has
its slot among its lanes, other engine operations have none. -/
def before (a b : Req) : Bool :=
  decide (a.id < b.id) && unperformed a.stage &&
    ((atSlice a.kind && atSlice b.kind && sharesChannel a b && (sameSlice a b || hostChannel b.kind)) ||
     (threadOrdered a.kind && homeOrder b.kind && sharesLane a b) ||
     (neverHeld a.kind && a.core == b.core &&
       ((sharesLane a b && (homeOrder b.kind || (engineOf b.kind).isSome)) ||
        (sameLine a b && (isFill b.kind || neverHeld b.kind || (sumRead b.kind && sharesLane a b))))))
/-- Nothing that must be performed before a request is outstanding. -/
def unblocked (s : State) (r : Req) : Bool := !(s.reqs.any fun a => before a r)
/-- A request stands at its slice. -/
def atPort (s : State) (r : Req) : Bool := r.stage == .port && decide (r.arrives ≤ s.tick)
/-- Ascending core number (R227). DESIGN CHOICE: other agents of the same fabric cycle come after the cores, log entry 88. -/
def sourceRank (r : Req) : Nat := if r.agent.toNat < 96 then r.core else 192 + r.agent.toNat
/-- The order in which a slice takes ready requests of different channels (R227). -/
def sooner (a b : Req) : Bool :=
  decide (a.arrives < b.arrives) || (a.arrives == b.arrives &&
    (decide (sourceRank a < sourceRank b) || (sourceRank a == sourceRank b && decide (a.id < b.id))))
/-- Requests of a source agent of a die on the other die, or on their way there, without an acknowledgement (R248). DEDUCED: a
`sigw` that waits there takes no entry (R228) until it is released, log entry 89. -/
def unacknowledged (s : State) (agent : BitVec 7) (die : Nat) : Nat :=
  s.windows.countP (fun w => w.agent == agent && w.srcDie == die) +
    s.reqs.countP (fun a => a.agent == agent && a.srcDie == die && a.via.isSome && unperformed a.stage) +
    s.errands.countP fun a => a.errand.agent == agent && a.die == die && a.stage == .sent
/-- Whether a request's reply may go to its source: it stays on the die, or its request came by a module and counts as one without
acknowledgement, which a `sigw` that waits does not, or its source's window has room for it (R248). DEDUCED: log entry 89. -/
def replyRoom (s : State) (r : Req) : Bool :=
  r.srcDie == (s.arbiter (stackOf r.pa)).owner || (r.via.isSome && r.stage != .waiter) ||
    decide (s.unacknowledged r.agent r.srcDie < Config.requestEntries)
/-- Whether a slice performs the request next: it is ready, its reply may go, and no other ready one comes before it (R227). -/
def performable (s : State) (r : Req) : Bool :=
  s.atPort r && s.unblocked r && s.replyRoom r &&
    !(s.reqs.any fun a => atSlice a.kind && a.id != r.id && sameSlice a r && s.atPort a && sooner a r && s.unblocked a)

end State

/-- The destination and shape of a value-returning access. -/
inductive Access where
  | bytes (n : Nat) (d : Reg)
  | elem (t : ElTy) (d : Reg)
  deriving DecidableEq, Repr

/-- What a load or store instruction accesses. -/
def accessOf : Instr → Access
  | .ldBC d _ _ => .bytes 1 d
  | .ldHC d _ _ => .bytes 2 d
  | .ldWC d _ _ => .bytes 4 d
  | .ldDC d _ _ => .bytes 8 d
  | .ld _ sz d _ _ _ => .bytes sz.bytes d
  | .lde _ t d _ _ _ => .elem t d
  | .stBC _ _ d => .bytes 1 d
  | .stHC _ _ d => .bytes 2 d
  | .stWC _ _ d => .bytes 4 d
  | .stDC _ _ d => .bytes 8 d
  | .st _ sz _ _ d _ => .bytes sz.bytes d
  | .ste _ t _ _ d _ => .elem t d
  | _ => .bytes 4 0

/-- The number of elements of a line under a tag and an element type (R133). -/
def elemCount (fmt : BitVec 4) (t : ElTy) : Nat :=
  if fmt = 0 then (match t with
    | .fp32 => 32
    | .i32 => 32
    | _ => 64)
  else elementCount fmt.toNat
/-- The line offset and the number of the bytes that an element of host memory touches, which a `ste` names on DCL (R256).
DEDUCED: under the sparse tag, where its code decides, those of its group's two stored elements, log entry 52. -/
def hostElem (fmt : BitVec 4) (t : ElTy) (raw : Nat) : Nat × Nat :=
  let i := raw % elemCount fmt t
  let n := if elemCount fmt t = 32 then 32 else 16
  let b := if fmt = 0 then (n * i, n) else if fmt = 2 then (256 + 12 * (i / 4), 12) else elementBits fmt.toNat i
  (b.1 / 8, (b.1 + b.2 - 1) / 8 - b.1 / 8 + 1)
/-- Whether an access of `n` bytes wraps in its line (R130). -/
def wraps (n raw : Nat) : Bool := decide (128 < raw % 128 + n)

/-- Bytes of data that such an instruction moves in a lane. -/
def accessBytes (i : Instr) : Nat :=
  match accessOf i with
  | .bytes n _ => n
  | .elem _ _ => 4

namespace State

/-- A line and its poisoned nibbles as a reply carries them: 32 words, then the mask as 8. -/
def carry (l : Line) (bad : Nibbles) : List (Nat × Nat × W32 × Bool) :=
  ((List.range 32).map fun i => (0, i, l.word i, false)) ++
    (List.range 8).map fun i => (0, 32 + i, bad.extractLsb' (32 * i) 32, false)
/-- What such a reply carries. -/
def carried (r : List (Nat × Nat × W32 × Bool)) : Line × Nibbles :=
  r.foldl (fun (a : Line × Nibbles) (e : Nat × Nat × W32 × Bool) =>
    if e.2.1 < 32 then (a.1.setWord e.2.1 e.2.2.1, a.2)
    else (a.1, a.2 ||| ((e.2.2.1.setWidth 256 : Nibbles) <<< (32 * (e.2.1 - 32))))) (0, 0)

/-! Slots and headers. -/

/-- DATA slots for some bytes: at most the ten that a header can name (R245). -/
def dataSlots (bytes : Nat) : Nat := min 10 ((bytes + 15) / 16)
/-- Slots of a request: header, the lanes' data, a line's or a claim's count, and the mask of a line write (R245, R340). -/
def reqSlots : ReqKind → Nat
  | .writeBack _ _ _ => 11
  | .engWrite _ _ _ _ _ => 11
  | .sum _ => 9
  | .write lanes inst => 1 + dataSlots (accessBytes inst * lanes.length)
  | .atom n op _ words => 1 + dataSlots ((match op with
      | .cas _ => 2
      | _ => 1) * n * (words.foldl (fun a w => a + w.2.length) 0))
  | .red n _ words => 1 + dataSlots (n * words.length)
  | .sig n words => 1 + dataSlots (n * words.length)
  | .sigw _ _ _ _ => 2
  | .claim _ _ => 2
  | .message _ _ => 2
  | .outer _ _ op => match op with
    | .write _ _ => 2
    | .writeLine _ _ => 11
    | .atom _ _ _ => 2
    | .red _ _ => 2
    | .sig _ _ => 2
    | .sigw _ _ => 2
    | _ => 1
  | _ => 1
/-- Slots of a reply: header, and the lanes' data, a line, an entry, or a claim's old cursor and grant. -/
def replySlots : ReqKind → Nat
  | .fill _ => 9
  | .engRead _ _ => 9
  | .read lanes inst _ => 1 + dataSlots (accessBytes inst * lanes.length)
  | .atom n _ _ words => 1 + dataSlots (n * (words.foldl (fun a w => a + w.2.length) 0))
  | .walk _ => 2
  | .claim _ _ => 2
  | .outer _ _ op => match op with
    | .read _ => 2
    | .readLine => 9
    | .atom _ _ _ => 2
    | _ => 1
  | _ => 1
/-- KIND of a request (R245), and on DCL that of R256. DEDUCED: log entry 52 for claims and requests from outside. -/
def kindCode (dest : Dest) (k : ReqKind) : BitVec 8 :=
  if dest = .host then (match k with
    | .write _ _ => 0x11
    | .engWrite _ _ _ _ _ => 0x11
    | .atom _ _ _ _ => 0x12
    | .message _ _ => 0x13
    | _ => 0x10)
  else match k with
    | .fill _ => 0x01
    | .writeBack _ _ _ => 0x02
    | .read _ _ _ => 0x03
    | .write _ _ => 0x04
    | .atom _ _ _ _ => 0x05
    | .red _ _ _ => 0x06
    | .sig _ _ => 0x07
    | .sigw _ _ _ _ => 0x08
    | .engRead _ _ => 0x09
    | .engWrite _ _ _ _ _ => 0x0A
    | .walk _ => 0x0B
    | .sum _ => 0x0C
    | .claim _ _ => 0x05
    | .give _ _ _ => 0xC0
    | .own _ _ => 0xC0
    | .message _ _ => 0x13
    | .outer _ _ op => match op with
      | .read _ => 0x03
      | .readLine => 0x01
      | .write _ _ => 0x04
      | .writeLine _ _ => 0x0A
      | .atom _ _ _ => 0x05
      | .red _ _ => 0x06
      | .sig _ _ => 0x07
      | .sigw _ _ => 0x08
/-- TYX and OPX of a load or store, which are TY and OP of the instruction (R78, R83). -/
def accessCode : Instr → BitVec 5 × BitVec 4
  | .ldHC _ _ _ => (0, 1)
  | .ldWC _ _ _ => (0, 2)
  | .ldDC _ _ _ => (0, 3)
  | .stHC _ _ _ => (0, 1)
  | .stWC _ _ _ => (0, 2)
  | .stDC _ _ _ => (0, 3)
  | .ld _ sz _ _ _ _ => (0, sz.code)
  | .st _ sz _ _ _ _ => (0, sz.code)
  | .lde _ t _ _ _ _ => (t.code, 0)
  | .ste _ t _ _ _ _ => (t.code, 0)
  | _ => (0, 0)
/-- TYX and OPX of a request (R245). -/
def typeCode : ReqKind → BitVec 5 × BitVec 4
  | .read _ i _ => accessCode i
  | .write _ i => accessCode i
  | .atom _ op _ _ => (op.ty, op.op)
  | .red _ op _ => (op.ty, op.op)
  | .sig n _ => (NatTy.code (if n = 8 then .n64 else .n32), 0)
  | .sigw _ n _ _ => (NatTy.code (if n = 8 then .n64 else .n32), 0)
  | .outer _ _ op => match op with
    | .read sz => (0, sz.code)
    | .write sz _ => (0, sz.code)
    | .atom o _ _ => (o.ty, o.op)
    | .red o _ => (o.ty, o.op)
    | .sig t _ => (t.code, 0)
    | .sigw t _ => (t.code, 0)
    | _ => (0, 0)
  | _ => (0, 0)
/-- Bytes that a mask covers, and the size code of R83 for so many. -/
def maskBytes (m : Nibbles) : Nat := (List.range 128).countP fun i => m &&& nibbleMask i 1 != 0
def sizeCode (n : Nat) : BitVec 4 := if n ≤ 1 then 0 else if n ≤ 2 then 1 else if n ≤ 4 then 2 else if n ≤ 8 then 3 else 4
/-- TYX and OPX on a link to outside: on DCL OPX is an access size, or 5 for a line (R256). DEDUCED: an `lde`, and an `ld` that
wraps in its line, reads the line, log entry 52. -/
def outCode (dest : Dest) (k : ReqKind) : BitVec 5 × BitVec 4 :=
  if dest = .host then (match k with
    | .fill _ => (0, 5)
    | .engRead _ _ => (0, 5)
    | .engWrite _ _ _ mask _ => (0, sizeCode (maskBytes mask))
    | .read lanes i _ => (match accessOf i with
      | .bytes n _ => (0, if lanes.any fun x => wraps n x.2.2 then 5 else sizeCode n)
      | .elem _ _ => (0, 5))
    | .write lanes i => (0, sizeCode (match accessOf i with
      | .bytes n _ => n
      | .elem t _ => (lanes.map fun x => (hostElem x.2.1 t x.2.2.1).2).headD 0))
    | k => typeCode k)
  else typeCode k
/-- Slots of a request on a link to outside: on DCL a write has one DATA slot (R256). -/
def outSlots (dest : Dest) (k : ReqKind) : Nat :=
  if dest = .host then (match k with
    | .engWrite _ _ _ _ _ => 2
    | .write _ _ => 2
    | .atom _ _ _ _ => 2
    | k => reqSlots k)
  else reqSlots k
/-- A header slot (R245): KIND, SRC, SEQ, DIE, TYX, OPX, DATA, PA or status. -/
def headerSlot (kind : BitVec 8) (src : BitVec 7) (seq : BitVec 16) (die : Nat) (ty : BitVec 5) (op : BitVec 4) (data : Nat)
    (pa : Nat) : BitVec 128 :=
  kind ++ src ++ seq ++ BitVec.ofNat 1 die ++ (0 : BitVec 3) ++ ty ++ op ++ (0 : BitVec 4) ++ BitVec.ofNat 8 data ++
    (0 : BitVec 20) ++ BitVec.ofNat 52 pa
/-- The header of a request that die `die` sends on the die-to-die link, and of one that leaves the device, where DIE is its
source's. -/
def reqHeader (die : Nat) (r : Req) : BitVec 128 :=
  headerSlot (kindCode .dev r.kind) r.agent r.seq die (typeCode r.kind).1 (typeCode r.kind).2 (reqSlots r.kind - 1) r.pa
def outHeader (r : Req) : BitVec 128 :=
  headerSlot (kindCode r.dest r.kind) r.agent r.seq r.srcDie (outCode r.dest r.kind).1 (outCode r.dest r.kind).2
    (outSlots r.dest r.kind - 1) r.pa
/-- A `sigw`. -/
def isSigw : ReqKind → Bool
  | .sigw _ _ _ _ => true
  | .outer _ _ (.sigw _ _) => true
  | _ => false
/-- A read of a whole line by this device, whose reply carries the line's poison as a mask. -/
def readsLine : ReqKind → Bool
  | .fill _ => true
  | .engRead _ _ => true
  | _ => false
/-- The status of a reply: 0 done, 1 poisoned data. DESIGN CHOICE: 2 says "not met" of a `sigw` (R228), log entry 52. -/
def replyStatus (r : Req) : Nat :=
  if (r.result.any fun e => e.2.2.2) || (readsLine r.kind && (carried r.result).2 != 0) then 1
  else if isSigw r.kind && !r.ok then 2 else 0
/-- The header of its reply. -/
def replyHeader (die : Nat) (r : Req) : BitVec 128 :=
  headerSlot 0x80 r.agent r.seq die (typeCode r.kind).1 (typeCode r.kind).2 (replySlots r.kind - 1) (replyStatus r)
/-- The messages of a request and of its reply on the die-to-die link, from die `die`, and of a request on a link to outside. -/
def reqMsg (die : Nat) (r : Req) : Msg := .req r.id (reqHeader die r)
def replyMsg (die : Nat) (r : Req) : Msg := .reply r.id (replyHeader die r)
def outMsg (r : Req) : Msg := .req r.id (outHeader r)
/-- KINDs that R245 lists for the die-to-die link. -/
def kindListed (k : BitVec 8) : Bool :=
  decide (k.toNat ≤ 0x0C) || k == 0x80 || k == 0x81 || k == 0xC0
/-- KINDs that the device sends on a link to outside: on DCL those of R256, on IFL those of R245. -/
def kindListedOut (l : Nat) (k : BitVec 8) : Bool :=
  if l = 16 then (decide (0x10 ≤ k.toNat) && decide (k.toNat ≤ 0x13)) || k == 0x80 || k == 0x81 else kindListed k
/-- The reserved bits of a header slot are zero. -/
def reservedOk (h : BitVec 128) : Bool := h.extractLsb' 93 3 == 0 && h.extractLsb' 80 4 == 0 && h.extractLsb' 52 20 == 0
/-- Whether a header slot is free of protocol errors on the die-to-die link, or on a link to outside (R245, R256). -/
def headerOk (h : BitVec 128) : Bool := kindListed (h.extractLsb' 120 8) && reservedOk h
def headerOkOut (l : Nat) (h : BitVec 128) : Bool := kindListedOut l (h.extractLsb' 120 8) && reservedOk h

/-! Travel. -/

/-- The owner die of a stack in a die's routing entry (R240). -/
def route (s : State) (die k : Nat) : Nat := s.routes.get (resetOwner k) (8 * die + k)
/-- The module of a source's traffic, or its alternate while it is down (R244, R247). -/
def linkFor (s : State) (m : Nat) : Nat := if (s.module m).state = .down then (m + 12) % 24 else m
/-- Queues a message of so many slots in the direction that die `d` sends. -/
def queueMsg (s : State) (m d : Nat) (msg : Msg) (slots : Nat) : State :=
  s.onModule m fun x =>
    if d = 0 then { x with d0 := { x.d0 with queue := x.d0.queue ++ [(msg, slots)] } }
    else { x with d1 := { x.d1 with queue := x.d1.queue ++ [(msg, slots)] } }
def link (s : State) (l : Nat) : OutLink := s.links.get OutLink.reset l
def onLink (s : State) (l : Nat) (f : OutLink → OutLink) : State := { s with links := s.links.put l (f (s.link l)) }
/-- Queues a message on a link to outside. -/
def queueOut (s : State) (l : Nat) (msg : Msg) (slots : Nat) : State :=
  s.onLink l fun x => { x with out := { x.out with queue := x.out.queue ++ [(msg, slots)] } }
/-- The die of a link: ports 0 to 7 of IFL and DCL on die 0, ports 8 to 15 on die 1 (R249, R253). -/
def linkDie (l : Nat) : Nat := if 8 ≤ l ∧ l < 16 then 1 else 0
/-- The module base number of a source agent (R244). -/
def agentModule (agent : Nat) : Nat := if agent < 96 then agent % 24 else (agent - 96) % 24
/-- KIND, TYX and OPX of the requests of agents that act at the home in their own step. DEDUCED: which KIND of R245 each of
them is, log entry 52. -/
abbrev Code := BitVec 8 × BitVec 5 × BitVec 4
def codeLine : Code := (0x01, 0, 0)
def codeRead4 : Code := (0x03, 0, 2)
def codeRead8 : Code := (0x03, 0, 3)
def codeWrite8 : Code := (0x04, 0, 3)
def codeSig64 : Code := (0x07, NatTy.code .n64, 0)
def codeLineWrite : Code := (0x0A, 0, 0)
def codeWalk : Code := (0x0B, 0, 0)
def codeControl : Code := (0xC0, 0, 0)
/-- An errand leaves, numbered. -/
def launchErrand (s : State) (die : Nat) (e : Errand) : State :=
  let key := e.agent.toNat + 128 * die
  let x : Errand := { e with seq := s.seqs.get 0 key }
  let m := s.linkFor (agentModule e.agent.toNat)
  let u : State := { s with
    seqs := s.seqs.put key (x.seq + 1), errands := s.errands ++ [{ die := die, errand := x, stage := .sent, via := m }] }
  u.queueMsg m die (.errand x) (1 + e.data)
/-- An agent's message to the other die, with so many DATA slots and so many in its reply (R244, R245): sent once its source's
window has room, behind what its source holds already (R248). -/
def sendErrand (s : State) (die agent : Nat) (code : Code) (pa data reply : Nat) : State :=
  let e : Errand := { agent := BitVec.ofNat 7 agent, kind := code.1, seq := 0, ty := code.2.1, op := code.2.2, data := data,
                      pa := pa, reply := some reply }
  let waits (a : AgentReq) : Bool := a.errand.agent == e.agent && a.die == die && a.stage == .held
  if s.errands.any waits || decide (s.unacknowledged e.agent die ≥ Config.requestEntries) then
    { s with errands := s.errands ++ [{ die := die, errand := e, stage := .held, via := 0 }] }
  else s.launchErrand die e
/-- Errands held at their sources leave, as far as the windows have room. -/
def releaseErrands (s : State) : State :=
  (s.errands.filter fun a => a.stage == .held).foldl (fun u a =>
    if u.unacknowledged a.errand.agent a.die ≥ Config.requestEntries then u
    else { u with errands := u.errands.erase a }.launchErrand a.die a.errand) s
/-- The request of an agent that acts at the home in its own step (log entry 15) crosses when the line's stack is owned by
the other die. -/
def agentTraffic (s : State) (die agent : Nat) (code : Code) (pa data reply : Nat) : State :=
  if s.route die (stackOf pa) = die then s else s.sendErrand die agent code pa data reply

/-- The lowest port of a peer on a die (R250). -/
def portOn (s : State) (p die : Nat) : Option Nat :=
  let e := s.peers.get 0 p
  ((List.range 8).map fun i => 8 * die + i).find? fun i => e.getLsbD (32 + i)
/-- The link by which a request leaves a die for outside; none when it crosses to the other die first (R250, R253). -/
def exitLink (s : State) (dest : Dest) (die : Nat) : Option Nat :=
  match dest with
  | .host => if die = 0 then some 16 else none
  | .peer p => s.portOn p die
  | .dev => none

/-- Where a request stands when it reaches the port of its stack. -/
def arrival (s : State) (r : Req) : Stage :=
  if (s.arbiter (stackOf r.pa)).step ≠ 0 ∧ neverHeld r.kind = false then .held else .port
/-- A request is given the next SEQ of its source (R245). -/
def numbered (s : State) (r : Req) : Req × State :=
  let key := r.agent.toNat + 128 * r.srcDie
  let seq := s.seqs.get 0 key
  ({ r with seq := seq }, { s with seqs := s.seqs.put key (seq + 1) })
/-- The tick in which a request reaches a port of its own die: any later one, behind the earlier requests of its channel
to that stack (R227, R355); before the device is ready, when no time is counted (R32), at once. -/
def arrivalTick (s : State) (r : Req) : Nat :=
  if s.phase ≠ readyPhase ∧ s.phase ≠ fatalPhase then s.tick
  else s.reqs.foldl (fun t a => if a.dest == r.dest && stackOf a.pa == stackOf r.pa && sharesChannel a r then max t a.arrives else t)
    (s.tick + 1 + s.free.1.toNat)

/-- The arbiter's answer to a `stkown` from the other die (R192). -/
def askArbiter (s : State) (r : Req) : Req := { r with ok := (s.arbiter (stackOf r.pa)).owner == dieOf r.core }
/-- Sends a request of a source on its way (R226, R240, R250). DESIGN CHOICE: one to a peer whose PORTS names only ports that
the device does not have stands nowhere until its time is over, log entry 69. -/
def launchReq (s : State) (r : Req) : State :=
  let cross (r : Req) : State :=
    let n := s.numbered r
    let m := s.linkFor (agentModule r.agent.toNat)
    { (n.2.queueMsg m r.srcDie (reqMsg r.srcDie n.1) (reqSlots r.kind)) with reqs := s.reqs ++ [{ n.1 with stage := .out m, via := some m }] }
  match r.dest with
  | .dev =>
    if s.route r.srcDie (stackOf r.pa) = r.srcDie then
      if atSlice r.kind then
        { s.free.2 with reqs := s.reqs ++ [{ r with stage := s.arrival r, arrives := s.arrivalTick r }] }
      else { s with reqs := s.reqs ++ [{ r with stage := .here }] }
    else cross r
  | d => match s.exitLink d r.srcDie with
    | some l =>
      let n := s.numbered r
      { (n.2.queueOut l (outMsg n.1) (outSlots r.dest r.kind)) with reqs := s.reqs ++ [{ n.1 with stage := .link l }] }
    | none =>
      if (s.exitLink d (1 - r.srcDie)).isSome then cross r
      else { s with reqs := s.reqs ++ [{ r with stage := .away 17 }] }

/-- Entries of a core that its requests take, or wait for at their source or in a load-store unit (R226). A waiting `sigw`, and one
that is to be sent again, takes none (R228). -/
def entriesTaken (s : State) (c : Nat) : Nat := s.reqs.countP fun r =>
  decide (r.agent.toNat < 96) && r.core == c && atSlice r.kind && (match r.stage with
    | .waiter => false
    | .resend _ => false
    | _ => true)
/-- Requests of a core that have been sent and are not finished (R226). -/
def outstanding (s : State) (c : Nat) : Nat := s.reqs.countP fun r =>
  decide (r.agent.toNat < 96) && r.core == c && atSlice r.kind && (match r.stage with
    | .waiter => false
    | .unit => false
    | .source => false
    | .resend _ => false
    | _ => true)
/-- Requests that a slice tracks, or that have left for it (R226). DEDUCED: log entry 53. -/
def sliceLoad (s : State) (r : Req) : Nat := s.reqs.countP fun a =>
  a.dest == .dev && atSlice a.kind && sameSlice a r && (match a.stage with
    | .out _ => true
    | .port => true
    | .held => true
    | _ => false)
/-- Whether a request leaves its source's die for the other one (R240, R250, R253). -/
def mustCross (s : State) (r : Req) : Bool :=
  match r.dest with
  | .dev => s.route r.srcDie (stackOf r.pa) != r.srcDie
  | d => (s.exitLink d r.srcDie).isNone && (s.exitLink d (1 - r.srcDie)).isSome
/-- The same of a source outside the device (R252, R257). -/
def unacknowledgedOut (s : State) (r : Req) : Nat :=
  s.receipts.countP (fun w => w.dest == r.dest && w.agent == r.agent && w.srcDie == r.srcDie) +
    s.reqs.countP fun a => a.dest == r.dest && a.agent == r.agent && a.srcDie == r.srcDie && (match a.stage with
      | .out _ => true
      | .link _ => true
      | .away _ => true
      | _ => false)
/-- Whether a request may leave its source: an entry of its core and of its slice is free (R226), its source's windows have
room (R248, R252, R257), and to outside nothing that must come before it is still elsewhere (R136, R143). -/
def maySend (s : State) (r : Req) : Bool :=
  !(decide (r.agent.toNat < 96) && atSlice r.kind && decide (s.outstanding r.core ≥ Config.requestEntries)) &&
    !(r.dest == .dev && atSlice r.kind && decide (s.sliceLoad r ≥ Config.requestEntries)) &&
    !(s.mustCross r && decide (s.unacknowledged r.agent r.srcDie ≥ Config.requestEntries)) &&
    !(r.dest != .dev && decide (s.unacknowledgedOut r ≥ Config.requestEntries)) &&
    !(r.dest != .dev && s.reqs.any fun a => before a r && (!sameSlice a r || a.stage == .unit || a.stage == .source))

/-- A new request of a source: numbered. -/
def newReqOf (s : State) (c : Nat) (agent srcDie : Nat) (lanes : List Nat) (kind : ReqKind) (dest : Dest) (pa : Nat)
    (ops : List (Nat × Cls × Nat)) : Req × State :=
  ({ id := s.nextId, core := c, lanes := lanes, kind := kind, dest := dest, pa := pa, stage := .source,
     masked := lanes.filter (fun n => (s.slot c n).masked), ops := ops, counted := none, seq := 0,
     agent := BitVec.ofNat 7 agent, srcDie := srcDie, sent := s.clock, result := [], ok := false, dropped := false,
     arrives := 0, via := none },
   { s with nextId := s.nextId + 1 })
/-- A new request of a core at its source. -/
def newReq (s : State) (c : Nat) (lanes : List Nat) (kind : ReqKind) (dest : Dest) (pa : Nat)
    (ops : List (Nat × Cls × Nat)) : Req × State := s.newReqOf c (c % 96) (dieOf c) lanes kind dest pa ops
/-- Sends a request, or holds it at its source (R226). -/
def sendReq (s : State) (r : Req) : State :=
  if s.maySend r then s.launchReq { r with sent := s.clock }
  else { s with reqs := s.reqs ++ [{ r with stage := .source }] }
/-- Requests that leave their source together, or not at all. -/
def sendAll (s : State) (l : List Req) : Option State :=
  l.foldl (fun a r => a.bind fun u => if u.maySend r then some (u.launchReq { r with sent := u.clock }) else none) (some s)
/-- The requests that leave with one that is held at its source: the pieces of its line for the host, so that no line is half
written when its copy is cancelled (R256, R296); else itself alone. -/
def leavesWith (s : State) (r : Req) : List Req :=
  match r.dest, r.kind with
  | .host, .engWrite op j _ _ _ => s.reqs.filter fun q => q.stage == .source && q.core == r.core && (match q.kind with
      | .engWrite o i _ _ _ => o == op && i == j
      | _ => false)
  | _, _ => [r]
/-- A new request of a core, on its way. -/
def request (s : State) (c : Nat) (lanes : List Nat) (kind : ReqKind) (dest : Dest) (pa : Nat)
    (ops : List (Nat × Cls × Nat)) : State :=
  let r := s.newReq c lanes kind dest pa ops
  r.2.sendReq r.1

/-- A request that carries data back from a line read (R248). -/
def lineRead : ReqKind → Bool
  | .fill _ => true
  | .engRead _ _ => true
  | .walk _ => true
  | .outer _ _ .readLine => true
  | _ => false
/-- The entry of a request in a done-window of a die (R248). -/
def windowOf (die : Nat) (r : Req) (w : Window) : Bool :=
  w.die == die && w.agent == r.agent && w.srcDie == r.srcDie && w.seq == r.seq
/-- The reply of a request crosses from a die to its source; the die's done-window notes the request (R248), anew where it
has been performed again. A request that its source's own port took before a hand-over is numbered now. -/
def sendReply (s : State) (q : Req) (die : Nat) : State :=
  let m := s.linkFor (agentModule q.agent.toNat)
  let n : Req × State := if q.via.isSome then (q, s) else s.numbered q
  let r : Req := { n.1 with stage := .back m, via := some m }
  let w : Window := { die := die, agent := r.agent, srcDie := r.srcDie, seq := r.seq, id := r.id, line := lineRead r.kind,
                      slots := replySlots r.kind, head := replyHeader die r, reply := if lineRead r.kind then [] else r.result }
  ({ n.2 with windows := (s.windows.filter fun x => !windowOf die r x) ++ [w] }.queueMsg m die (replyMsg die r)
    (replySlots r.kind)).setReq r
/-- After performing: the reply crosses back, or is at its source. -/
def performed (s : State) (r : Req) : State :=
  let owner := (s.arbiter (stackOf r.pa)).owner
  if r.srcDie = owner then s.setReq { r with stage := .here } else s.sendReply r owner

/-! Writes at a home. -/

/-- The condition and size of a `sigw` request. -/
def sigwOf (r : Req) : Option (Nat × Nat × W64) :=
  match r.kind with
  | .sigw off n _ least => some (lineAddr r.pa + off, n, least)
  | .outer _ _ (.sigw t least) =>
    let n := if t.wide then 8 else 4
    some (r.pa - r.pa % n, n, least)
  | _ => none
/-- A waiter whose condition has been met, or whose word was poisoned, and whose reply waits for a window entry (R248). -/
def decided (r : Req) : Bool := r.stage == .waiter && (r.ok || !r.result.isEmpty)
/-- A waiter is released; its reply crosses once its source's window has room. -/
def release (s : State) (r : Req) : State := if s.replyRoom r then s.performed r else s.setReq r
/-- The re-read of one waiter's word (R190, R228); a poisoned word ends the wait (R357). -/
def wakeWaiter (s : State) (r : Req) : State :=
  match sigwOf r with
  | some (a, n, least) =>
    if decided r then s
    else if s.wordPoisoned a n then s.release { r with result := [(0, 0, 0, true)] }
    else if least.toNat ≤ (s.homeWord a n).toNat then s.release { r with ok := true } else s
  | none => s
/-- Replies of released waiters that waited for a window entry cross. -/
def releaseWaiters (s : State) : State := (s.reqs.filter decided).foldl release s
/-- Whether a write of some nibbles of a line writes the word that a waiter waits on. -/
def waitsOn (pa : Nat) (mask : Nibbles) (r : Req) : Bool :=
  r.stage == .waiter && r.dest == .dev && lineAddr r.pa == lineAddr pa && match sigwOf r with
    | some (a, n, _) => mask &&& nibbleMask (a % 128) n != 0
    | none => false
/-- Waiters of the words that a write of a line writes are looked at again, in arrival order, in which requests become waiters,
and those whose condition is met released (R190, R228). -/
def wakeWaiters (s : State) (pa : Nat) (mask : Nibbles) : State := (s.reqs.filter (waitsOn pa mask)).foldl wakeWaiter s

/-- Every write of a line at its home that is no `sum` delivery: fold first, then write, then wake (R190, R230). -/
def homeStore (s : State) (pa : Nat) (mask poison : Nibbles) (data : Line) : State :=
  ((s.foldLine pa).putLine pa mask poison data).wakeWaiters pa mask
/-- Such a write of `n` bytes at a byte address within one line. -/
def homeStoreBytes (s : State) (a n v : Nat) : State :=
  s.homeStore a (nibbleMask (a % 128) n) 0 ((0 : Line).write (a % 128) n v)
/-- A read-modify-write of `n` bytes: it acts on the folded home value (R230). DEDUCED: log entry 35. -/
def homeUpdate (s : State) (a n : Nat) (f : W64 → W64) : State :=
  (s.foldLine a).homeStoreBytes a n (f ((s.foldLine a).homeWord a n)).toNat

/-- A delivery of a partial (R229): into its record, a new one, or after folding the line whose oldest record was
created first. Records stand in order of creation. -/
def deliverSum (s : State) (pa core : Nat) (data : Line) : State :=
  let a := lineAddr pa
  if s.sums.any fun r => r.line == a && r.core == core then
    { s with sums := s.sums.map fun r =>
        if r.line = a ∧ r.core = core then { r with data := r.data.addWords 32 data } else r }
  else
    let mine := s.sums.filter fun r => stackOf r.line == stackOf a && sliceOf r.line == sliceOf a
    let s1 := if mine.length ≥ Config.sumRecords then (mine.head?.map fun r => s.foldLine r.line).getD s else s
    { s1 with sums := s1.sums ++ [{ line := a, core := core, data := data }] }

/-- The launch counter of a bind falls by one (R275). -/
def counterDown (s : State) (c b : Nat) : State :=
  s.onCore c fun k => k.onBind b fun x => { x with counter := x.counter - 1 }
/-- A counted operation completes in its slot, with a predicate to write or without, or in the launch counter it passed
to. -/
def completeOp (s : State) (c : Nat) (counted : Option Nat) (o : Nat × Cls × Nat) (pred : Option (PredNo × Bool) := none) :
    State :=
  if (s.slot c o.1).counts o.2.1 o.2.2 then s.onSlot c o.1 fun t => t.complete o.2.1 o.2.2 pred
  else match counted with
    | some b => s.counterDown c b
    | none => s

end State

/-- The registers of a load from a line: size in bytes from an offset (R130, R357). -/
def loadRegs (l : Line) (bad : Nibbles) (n off reg : Nat) : List (Nat × W32 × Bool) :=
  (List.range ((n + 3) / 4)).map fun j =>
    let k := min (n - 4 * j) 4
    (reg + j, BitVec.ofNat 32 (l.read (off + 4 * j) k), bad &&& nibbleMask (off + 4 * j) k != 0)

/-- The nibbles that `lde` looks at for element i: the element's, its block's scale byte, and the code of its group in a
sparse line (R58). -/
def elemTouch (l : Line) (fmt : BitVec 4) (t : ElTy) (i : Nat) : Nibbles :=
  if fmt = 0 then
    let n := if elemCount fmt t = 32 then 4 else 2
    nibbleMask (n * i) n
  else
    (if fmt = 2 then groupNibbles (i / 2) else 0) ||| match storedIndex fmt.toNat l i with
    | none => 0
    | some n => elementNibbles fmt.toNat n ||| (if (blockEmax fmt.toNat).isSome then nibbleMask (n / 16) 1 else 0)
/-- `lde`: element i of a line as a register value (R133), and whether it is poisoned. -/
def ldeWord (l : Line) (bad : Nibbles) (fmt : BitVec 4) (t : ElTy) (i : Nat) : W32 × Bool :=
  if fmt = 0 then
    let n := if elemCount fmt t = 32 then 4 else 2
    (BitVec.ofNat 32 (l.read (n * i) n), bad &&& elemTouch l fmt t i != 0)
  else
    let x := decodeElement fmt.toNat l i
    let v : Nat := match t with
      | .fp32 => x.round fp32 .rne
      | .fp16 => x.round fp16 .rne
      | .bf16 => x.round bf16 .rne
      | .i32 => (BitVec.ofInt 32 (x.toInt .rne (-2 ^ 31) (2 ^ 31 - 1))).toNat
    (BitVec.ofNat 32 v, bad &&& elemTouch l fmt t i != 0)
/-- `ste`: the line and the nibbles written (R133). -/
def steLine (l : Line) (valid : Nibbles) (fmt : BitVec 4) (t : ElTy) (i : Nat) (v : W32) : Line × Nibbles :=
  if fmt = 0 then
    let n := if elemCount fmt t = 32 then 4 else 2
    (l.write (n * i) n v.toNat, nibbleMask (n * i) n)
  else
    let x : Exact := match t with
      | .fp32 => fp32.decode v.toNat
      | .fp16 => fp16.decode (v.toNat % 65536)
      | .bf16 => bf16.decode (v.toNat % 65536)
      | .i32 => .ofInt v.toInt
    encodeElement fmt.toNat l valid i x

/-- The registers a load from a line writes: register, value, poisoned. -/
def accessLoad (a : Access) (l : Line) (bad : Nibbles) (fmt : BitVec 4) (raw : Nat) : List (Nat × W32 × Bool) :=
  match a with
  | .bytes n d => loadRegs l bad n (raw % 128) d.toNat
  | .elem t d =>
    let v := ldeWord l bad fmt t (raw % elemCount fmt t)
    [(d.toNat, v.1, v.2)]
/-- A store into a line: the line and the nibbles written. -/
def accessStore (a : Access) (l : Line) (valid : Nibbles) (fmt : BitVec 4) (raw : Nat) (v : List W32) : Line × Nibbles :=
  match a with
  | .bytes n _ =>
    let x := v.foldr (fun w acc => w.toNat + 2 ^ 32 * acc) 0
    (l.write (raw % 128) n x, nibbleMask (raw % 128) n)
  | .elem t _ => steLine l valid fmt t (raw % elemCount fmt t) (v.headD 0)

/-- A combined atomic on a word (R138): the new word and each lane's return. -/
def combineAtom (op : AtomOp) (x : W64) (lanes : List (Nat × W64 × W64)) : W64 × List (Nat × W64) :=
  if op.isFadd then
    let step (p q : W64) : W64 := (RedOp.arith .add .fp32).combine p q
    let rets := (lanes.foldl (fun (a : W64 × List (Nat × W64)) l => (step a.1 l.2.1, a.2 ++ [(l.1, a.1)])) (x, [])).2
    let sum := match lanes with
      | [] => 0
      | l :: ls => ls.foldl (fun a m => step a m.2.1) l.2.1
    (step x sum, rets)
  else lanes.foldl (fun (a : W64 × List (Nat × W64)) l => (op.apply a.1 l.2.1 l.2.2, a.2 ++ [(l.1, a.1)])) (x, [])

/-- The registers that a 32-bit or 64-bit return writes. -/
def returnRegs (slot bytes : Nat) (d : Reg) (v : W64) (bad : Bool) : List (Nat × Nat × W32 × Bool) :=
  if bytes = 8 then [(slot, d.toNat, v.setWidth 32, bad), (slot, d.toNat + 1, (v >>> 32).setWidth 32, bad)]
  else [(slot, d.toNat, v.setWidth 32, bad)]
/-- The destination of an atomic. -/
def atomDest : Instr → Reg
  | .atom _ _ d _ _ _ => d
  | _ => 0

namespace State

/-- A device step on the request of a number: acts when the request may be performed and is of the kind that f
accepts; otherwise nothing is due. -/
def performReq (s : State) (id : Nat) (f : Req → Option State) : Result :=
  match s.req? id with
  | none => .next s
  | some r => if s.performable r then .next ((f r).getD s) else .next s

/-- A fill read (R218, R225): the line and its poison travel with the reply, a `fixed` or `own` frame's. -/
def performFill (s : State) (r : Req) : Option State :=
  match r.kind with
  | .fill _ => some (s.performed { r with result := carry (s.homeLine r.pa) (s.homePoison r.pa) })
  | _ => none
/-- A write-back or delivery that has been performed counts no more in a launch counter (R275). -/
def backDone (s : State) (r : Req) : State :=
  let s1 := s.dropReq r.id
  match r.counted with
  | some b => s1.counterDown r.core b
  | none => s1
/-- It ends when performed; from the other die, when its reply has crossed (R248). -/
def finishBack (s : State) (r : Req) : State :=
  if r.srcDie = (s.arbiter (stackOf r.pa)).owner then s.backDone r else s.performed r
/-- A write-back (R132, R219, R220). -/
def performWriteBack (s : State) (r : Req) : Option State :=
  match r.kind with
  | .writeBack mask poison data => some ((s.homeStore r.pa mask poison data).finishBack r)
  | _ => none
/-- A home-class or `sum` load (R131, R133, R141, R357). -/
def performRead (s : State) (r : Req) : Option State :=
  match r.kind with
  | .read lanes inst sum =>
    let l := if sum then s.foldedLine r.pa else s.homeLine r.pa
    let bad := s.homePoison r.pa
    some (s.performed { r with result := lanes.flatMap fun x =>
      (accessLoad (accessOf inst) l bad x.2.1 x.2.2).map fun e => (x.1, e.1, e.2.1, e.2.2) })
  | _ => none
/-- A home-class store: the lanes' accesses as one event, ascending (R131, R132, R143). DESIGN CHOICE: a `ste` under a poisoned
scale byte or group code encodes under the bits that stand there, log entry 84. -/
def performWrite (s : State) (r : Req) : Option State :=
  match r.kind with
  | .write lanes inst =>
    let w := lanes.foldl (fun (a : Line × Nibbles) x =>
      let b := accessStore (accessOf inst) a.1 (-1) x.2.1 x.2.2.1 x.2.2.2
      (b.1, a.2 ||| b.2)) ((s.foldLine r.pa).homeLine r.pa, 0)
    some ((s.homeStore r.pa w.2 0 w.1).performed r)
  | _ => none
/-- One word of a combined atomic (R138): the state after it, and what its lanes receive; a poisoned word stays, and
the lanes receive poison (R357). -/
def atomWord (line n : Nat) (op : AtomOp) (inst : Instr) (a : State × List (Nat × Nat × W32 × Bool))
    (w : Nat × List (Nat × W64 × W64)) : State × List (Nat × Nat × W32 × Bool) :=
  let x := (a.1.foldLine line).homeWord (line + w.1) n
  if a.1.wordPoisoned (line + w.1) n then (a.1, a.2 ++ w.2.flatMap fun l => returnRegs l.1 n (atomDest inst) x true)
  else
    let c := combineAtom op x w.2
    (a.1.homeUpdate (line + w.1) n fun _ => c.1,
     a.2 ++ c.2.flatMap fun l => returnRegs l.1 n (atomDest inst) l.2 false)
/-- A combined atomic request: its words, in ascending order of their lowest lane, as one event (R138, R143). -/
def performAtom (s : State) (r : Req) : Option State :=
  match r.kind with
  | .atom n op inst words =>
    let x := words.foldl (atomWord (lineAddr r.pa) n op inst) (s, [])
    some (x.1.performed { r with result := x.2 })
  | _ => none
/-- One word of a reduction or signal: an update with an operand; not performed on a poisoned word, and Knanos is told
(R357). -/
def updateWord (n : Nat) (f : W64 → W64 → W64) (s : State) (a : Nat) (v : W64) : State :=
  if s.wordPoisoned a n then s.tell 1 a else s.homeUpdate a n fun x => f x v
/-- A reduction (R140). -/
def performRed (s : State) (r : Req) : Option State :=
  match r.kind with
  | .red n op words =>
    some ((words.foldl (fun u w => u.updateWord n op.combine (lineAddr r.pa + w.1) w.2) s).performed r)
  | _ => none
/-- A signal (R189). -/
def performSig (s : State) (r : Req) : Option State :=
  match r.kind with
  | .sig n words =>
    some ((words.foldl (fun u w => u.updateWord n (fun x v => x + v) (lineAddr r.pa + w.1) w.2) s).performed r)
  | _ => none
/-- The read of a `sigw`: met, or a waiter behind those that wait, or "not met" when the slice's list is full (R190, R228). -/
def sigwRead (s : State) (r : Req) (a n : Nat) (least : W64) : State :=
  if s.wordPoisoned a n then s.performed { r with result := [(0, 0, 0, true)] }
  else if least.toNat ≤ (s.homeWord a n).toNat then s.performed { r with ok := true }
  else
    let waiting := s.reqs.countP fun q => q.stage == .waiter && sameSlice q r
    if waiting < Config.sigwWaiters then { s.dropReq r.id with reqs := (s.dropReq r.id).reqs ++ [{ r with stage := .waiter }] }
    else s.performed { r with ok := false, result := [] }
/-- `sigw` at its slice. -/
def performSigw (s : State) (r : Req) : Option State :=
  match r.kind with
  | .sigw off n _ least => some (s.sigwRead r (lineAddr r.pa + off) n least)
  | _ => none
/-- A `sum` delivery (R229). -/
def performSum (s : State) (r : Req) : Option State :=
  match r.kind with
  | .sum data => some ((s.deliverSum r.pa r.core data).finishBack r)
  | _ => none

end State

/-- `FILL_READ` (R225). -/
def execFillRead (id : Nat) (s : State) : Result := s.performReq id (s.performFill ·)
/-- `WRITE_BACK` (R219). -/
def execWriteBack (id : Nat) (s : State) : Result := s.performReq id (s.performWriteBack ·)
/-- `HOME_READ` (R131). -/
def execHomeRead (id : Nat) (s : State) : Result := s.performReq id (s.performRead ·)
/-- `HOME_WRITE` (R131). -/
def execHomeWrite (id : Nat) (s : State) : Result := s.performReq id (s.performWrite ·)
/-- `ATOMIC_REQUEST` (R138). -/
def execAtomicRequest (id : Nat) (s : State) : Result := s.performReq id (s.performAtom ·)
/-- `REDUCTION_REQUEST` (R140). -/
def execReductionRequest (id : Nat) (s : State) : Result := s.performReq id (s.performRed ·)
/-- `SIG_REQUEST` (R189). -/
def execSigRequest (id : Nat) (s : State) : Result := s.performReq id (s.performSig ·)
/-- `SIGW_READ` (R190, R228). -/
def execSigwRead (id : Nat) (s : State) : Result := s.performReq id (s.performSigw ·)
/-- `SUM_DELIVERY` (R229). -/
def execSumDelivery (id : Nat) (s : State) : Result := s.performReq id (s.performSum ·)
/-- `SIGW_RESEND` (R226, R228): after 256 cycles the core sends the request again, or holds it until an entry frees. -/
def execSigwResend (id : Nat) (s : State) : Result :=
  match s.req? id with
  | some r =>
    match r.stage with
    | .resend t => if t ≤ s.clock then .next ((s.dropReq id).sendReq r) else .next s
    | _ => .next s
  | none => .next s
/-- `REQUEST_ENTRY_FREE` (R226): a request held at its source is sent once it has an entry, with those that leave with it. -/
def execRequestEntryFree (id : Nat) (s : State) : Result :=
  match s.req? id with
  | some r =>
    if r.stage = .source then
      let l := s.leavesWith r
      .next ((State.sendAll { s with reqs := s.reqs.filter fun q => !(l.contains q) } l).getD s)
    else .next s
  | none => .next s

end Sys2Proof.Machine
end

