-- ==== Sys2Proof/Machine/Translate.lean ====
section
/-! DEFINITION. Handles (R39, R40), page tables (R231 to R233), the TLBs and walkers (R234, R235),
and the checks of an open or an engine access on a line (R119, R120, R238, R250). -/

namespace Sys2Proof.Machine

/-! Handle entries. -/

def hBase (e : BitVec 256) : Nat := (e.extractLsb' 64 56).toNat
def hLen (e : BitVec 256) : Nat := (e.extractLsb' 128 64).toNat
def hSpace (e : BitVec 256) : Nat := (e.extractLsb' 8 2).toNat
def hPeer (e : BitVec 256) : Nat := (e.extractLsb' 200 4).toNat
def hAt (e : BitVec 256) : Bool := e.getLsbD 2
def hWr (e : BitVec 256) : Bool := e.getLsbD 1
def hRd (e : BitVec 256) : Bool := e.getLsbD 0
/-- The reserved bits of R39. -/
def hReserved : BitVec 256 :=
  ((0xFFFFFFFFFFFFF#256) <<< 204) ||| ((0xFF#256) <<< 192) ||| ((0xFF#256) <<< 120) |||
    ((0x7FFFFFFFFFFFF#256) <<< 13) ||| ((0x3#256) <<< 10) ||| ((0x1F#256) <<< 3)
/-- The entry's own conditions of R39. -/
def handleOk (e : BitVec 256) : Bool :=
  e.getLsbD 12 && e.extractLsb' 184 8 == 0 && e &&& hReserved == 0 &&
    (hSpace e != 3 || (decide (hBase e + hLen e ≤ Config.scratchBytes)))

/-- Handle entry `h` of a slot's bind: the images, an entry of the table, or none at or beyond the count (R39, R198).
An entry that memory no longer holds as cached is one or the other (R40). -/
def State.handle (s : State) (c b h : Nat) : Option (BitVec 256) × State :=
  let k := (s.core c).bind b
  if h = 0 then (some k.h0, s)
  else if h = 1 then (some k.h1, s)
  else if h > k.hcnt then (none, s)
  else
    let m := BitVec.ofNat 256 (Memory.read s.mem (k.htab + 32 * h) 32)
    match k.hcache.find? h with
    | none => (some m, s.onCore c fun x => x.onBind b fun y => { y with hcache := y.hcache.put h m })
    | some v =>
      if v = m then (some m, s)
      else ((some (if s.choice.1 then v else m)), s.choice.2)

/-! Page table entries. -/

def pteClass (e : BitVec 128) : Nat := (e.extractLsb' 88 2).toNat
def pteOwner (e : BitVec 128) : Nat := (e.extractLsb' 96 8).toNat
def pteFmt (e : BitVec 128) : BitVec 4 := e.extractLsb' 92 4
def pteX (e : BitVec 128) : Bool := e.getLsbD 67
def pteAt (e : BitVec 128) : Bool := e.getLsbD 66
def pteWr (e : BitVec 128) : Bool := e.getLsbD 65
def pteRd (e : BitVec 128) : Bool := e.getLsbD 64
def pteAddr (e : BitVec 128) : Nat := (e.extractLsb' 14 38).toNat * 2 ^ 14
/-- The reserved bits of R232. -/
def pteReserved : BitVec 128 :=
  ((0xFFFFFF#128) <<< 104) ||| ((0xFFFFF#128) <<< 68) ||| ((0xFFF#128) <<< 52) ||| ((0x7FF#128) <<< 3)
/-- The page bits of a leaf's level. -/
def pageBits (level : Nat) : Nat := if level = 3 then 26 else 16
/-- Whether a non-leaf entry obeys R232. -/
def nodeOk (e : BitVec 128) : Bool :=
  e.getLsbD 0 && !e.getLsbD 1 && !e.getLsbD 2 && e.extractLsb' 64 64 == 0 && e &&& pteReserved == 0 && backed (pteAddr e)
/-- Whether a leaf at a level obeys R232, R233 and R42; `dev`, `peer` or `host` says what its ADDR must meet. -/
def leafOk (level : Nat) (dest : Dest) (e : BitVec 128) : Bool :=
  e.getLsbD 0 && e.getLsbD 1 && (level == 3 || level == 4) && e.getLsbD 2 == (level == 3) && e &&& pteReserved == 0 &&
    pteAddr e % 2 ^ pageBits level == 0 && e.extractLsb' 90 2 == 0 && decide ((pteFmt e).toNat ≤ 8) &&
    (pteClass e != 3 || pteFmt e == 0) &&
    (if pteClass e = 0 then decide (pteOwner e < Config.cores) else pteOwner e == 0) &&
    (match dest with
      | .dev => backed (pteAddr e)
      | .peer _ => decide (pteAddr e < 2 ^ 39)
      | .host => true)
/-- The index of a level (R231). -/
def levelIndex (va level : Nat) : Nat := va / 2 ^ (56 - 10 * level) % 1024

/-- What a translation gives. -/
inductive Xlat where
  | ok (level : Nat) (leaf : BitVec 128)
  /-- A translation fault at the level (R233). -/
  | fault (level : Nat)
  /-- A table lies on a stack without the use right (R238). -/
  | noUse
  /-- A walk read is held by a hand-over of the table's stack (R242). -/
  | held
  deriving DecidableEq, Repr

/-- The walk from a table at a level (R231 to R233): `fuel` levels are left. `node` gives the entry at an address that is
met, and `kept` says that it is not read at its home, where a hand-over would hold the read (R234, R242). -/
def State.walk (s : State) (node : Nat → BitVec 128) (kept : Nat → Bool) (use : BitVec 8) (dest : Dest) (va : Nat) :
    Nat → Nat → Nat → Xlat
  | 0, level, _ => .fault level
  | fuel + 1, level, table =>
    let a := table + 16 * levelIndex va level
    if !use.getLsbD (stackOf table) then .noUse
    else if !kept a && (s.arbiter (stackOf table)).step != 0 then .held
    else if (node a).getLsbD 1 then (if leafOk level dest (node a) then .ok level (node a) else .fault level)
    else if nodeOk (node a) && level != 4 then s.walk node kept use dest va fuel (level + 1) (pteAddr (node a))
    else .fault level
/-- The entry of a table at a physical address, read at its home (R233). -/
def State.pteRead (s : State) (a : Nat) : BitVec 128 := BitVec.ofNat 128 (Memory.read s.mem a 16)
/-- The non-leaf entries that a walker of a die keeps. -/
def State.walker (s : State) (die w : Nat) : List NodeEntry := s.walkers.get [] (64 * die + w)
/-- The entry that a walker keeps of an address. -/
def State.keptNode (s : State) (die w : Nat) (asid : BitVec 14) (a : Nat) : Option NodeEntry :=
  (s.walker die w).find? fun e => e.asid == asid && e.addr == a
/-- An entry as a walker meets it: the one that it keeps, or the one in memory (R234). -/
def State.nodeAt (s : State) (die w : Nat) (asid : BitVec 14) (a : Nat) : BitVec 128 :=
  match s.keptNode die w asid a with
  | some e => e.node
  | none => s.pteRead a
/-- The addresses of the entries that a walk meets, and whether each names a further table. -/
def entriesMet (node : Nat → BitVec 128) (use : BitVec 8) (va : Nat) : Nat → Nat → Nat → List (Nat × Bool)
  | 0, _, _ => []
  | fuel + 1, level, table =>
    let a := table + 16 * levelIndex va level
    if !use.getLsbD (stackOf table) then []
    else if nodeOk (node a) && level != 4 then (a, true) :: entriesMet node use va fuel (level + 1) (pteAddr (node a))
    else [(a, false)]
/-- A new entry in a structure of so many entries; where it is full, a free choice gives way (log entry 2). -/
def putLimited {α : Type} (l : List α) (size pick : Nat) (x : α) : List α :=
  if l.length < size then l ++ [x] else l.eraseIdx (pick % l.length) ++ [x]

/-- The cached entry for an address and a space in a list of entries (R234). -/
def tlbFind (l : List TlbEntry) (asid : BitVec 14) (dest : Dest) (va : Nat) : Option TlbEntry :=
  l.find? fun e => e.asid == asid && e.dest == dest && e.page == va / 2 ^ pageBits e.level
/-- The L2 TLB of a die. -/
def State.l2 (s : State) (die : Nat) : List TlbEntry := s.tlb.get [] die
/-- An entry enters a core's L1 TLB of 256 entries. -/
def State.fillL1 (s : State) (c : Nat) (e : TlbEntry) : State :=
  s.free.2.onCore c fun k => { k with l1 := putLimited k.l1 256 s.free.1.toNat e }
/-- An entry enters a die's L2 TLB of 16,384 entries. -/
def State.fillL2 (s : State) (die : Nat) (e : TlbEntry) : State :=
  { s.free.2 with tlb := s.tlb.put die (putLimited (s.l2 die) 16384 s.free.1.toNat e) }
/-- A walker keeps the non-leaf entries that it has read, 64 of them. -/
def State.keepNodes (s : State) (die w : Nat) (asid : BitVec 14) (l : List Nat) : State :=
  l.foldl (fun u a =>
    let mine := u.walker die w
    if mine.any fun e => e.asid == asid && e.addr == a then u
    else
      let new := putLimited mine 64 u.free.1.toNat { asid := asid, addr := a, node := u.pteRead a }
      { u.free.2 with walkers := u.walkers.put (64 * die + w) new }) s
/-- A walk by a walker of the die, which of its 64 is free: the entries that it does not keep are read at their homes, across
the link where another die owns their stacks (R234, R244), and its result fills the TLBs. DESIGN CHOICE: it is done in the
step of the access that needs it, and one that is held reads all of its entries after the hold, log entry 54. -/
def State.walkFill (s : State) (c : Nat) (b : Bind) (dest : Dest) (va : Nat) : Xlat × State :=
  let die := dieOf c
  let w := s.free.1.toNat % 64
  let node := s.nodeAt die w b.asid
  let kept (a : Nat) : Bool := (s.keptNode die w b.asid a).isSome
  let x := s.walk node kept b.use dest va 4 1 b.root
  let met := if x = .held then [] else entriesMet node b.use va 4 1 b.root
  let s1 := (met.filter fun e => !kept e.1).foldl (fun u e => u.agentTraffic die 96 State.codeWalk e.1 0 1)
    (s.free.2.keepNodes die w b.asid ((met.filter Prod.snd).map Prod.fst))
  match x with
  | .ok level leaf =>
    let e : TlbEntry := { asid := b.asid, page := va / 2 ^ pageBits level, level := level, leaf := leaf, dest := dest,
                          route := s.route die (stackOf (pteAddr leaf)) }
    (x, (s1.fillL2 die e).fillL1 c e)
  | _ => (x, s1)
/-- Translation by a bind's tables: the core's L1 TLB, its die's L2 TLB, or a walk (R234). DESIGN CHOICE: R235 says that a walk
fills TLB entries and not whether a hit in L2 fills L1; it does, log entry 71. -/
def State.translate (s : State) (c b : Nat) (dest : Dest) (va : Nat) : Xlat × State :=
  let k := (s.core c).bind b
  match tlbFind (s.core c).l1 k.asid dest va with
  | some e => (.ok e.level e.leaf, s)
  | none => match tlbFind (s.l2 (dieOf c)) k.asid dest va with
    | some e => (.ok e.level e.leaf, s.fillL1 c e)
    | none => s.walkFill c k dest va
/-- Knanos, or a hand-over, drops cached translations (R235): those that do not satisfy `keep` leave both levels on both
dies. -/
def State.keepTlb (s : State) (keep : TlbEntry → Bool) : State :=
  { s with tlb := s.tlb.map fun e => (e.1, e.2.filter keep)
           cores := s.cores.map fun e => (e.1, { e.2 with l1 := e.2.l1.filter keep }) }
/-- The physical address of a translated address. -/
def xlatAddr (level : Nat) (leaf : BitVec 128) (va : Nat) : Nat := pteAddr leaf + va % 2 ^ pageBits level

/-- Where a handle's space leads: peer DEVNO is this device (R250). -/
def State.spaceOf (s : State) (e : BitVec 256) : Dest :=
  match hSpace e with
  | 1 => if hPeer e = (s.devno.extractLsb' 0 4).toNat then .dev else .peer (hPeer e)
  | 2 => .host
  | _ => .dev
/-- Whether a peer is present and reached by a port (R250). -/
def State.peerOk (s : State) (p : Nat) : Bool :=
  let e := s.peers.get 0 p
  e.getLsbD 0 && e.extractLsb' 32 32 != 0

/-- Whether a device line holds bytes of the bind's handle table, which no thread may write, nor change by an atomic or a
signal (R40). DEDUCED: log entry 11. -/
def Bind.inTable (b : Bind) (pa : Nat) : Bool :=
  decide (lineAddr b.htab ≤ lineAddr pa) && decide (lineAddr pa < b.htab + 32 * (b.hcnt + 1))

/-- What the check of one line gives. -/
inductive LineCheck where
  | ok (l : OpenLine)
  | bad (cause : Cause) (level : Nat)
  | held
  deriving DecidableEq, Repr

/-- The checks of one line of an open, or of an engine access (`noSum`: R179's destination), with their order: translation, use
right, class, mode (R119, R120). -/
def State.checkLine (s : State) (c b : Nat) (e : BitVec 256) (rd wr : Bool) (va : Nat) (noSum : Bool := false) :
    LineCheck × State :=
  let dest := s.spaceOf e
  if hSpace e = 3 then
    if va ≥ Config.scratchBytes then (.bad .bounds 0, s)
    else if (rd && !hRd e) || (wr && !hWr e) then (.bad .permission 0, s)
    else (.ok { idx := 0, fkind := none, fetch := false,
                way := { kind := .scratch, rd := rd, wr := wr, fmt := 0, atom := hAt e, va := va, dest := .dev,
                         pa := va, sum := false, moved := false } }, s)
  else
    let t := s.translate c b dest va
    match t.1 with
    | .fault level => (.bad .translation level, t.2)
    | .noUse => (.bad .permission 0, t.2)
    | .held => (.held, t.2)
    | .ok level leaf =>
      let pa := xlatAddr level leaf va
      let cls := pteClass leaf
      let refused := match dest with
        | .dev => !((s.core c).bind b).use.getLsbD (stackOf pa)
        | .peer p => !s.peerOk p
        | .host => false
      let badClass := match dest with
        | .dev => (cls == 0 && pteOwner leaf != c) || (noSum && cls == 3)
        | _ => cls == 0 || cls == 3
      let badMode := (rd && !(hRd e && pteRd leaf)) || (wr && !(hWr e && pteWr leaf)) || (wr && cls == 1) ||
        (wr && dest == .dev && ((s.core c).bind b).inTable pa)
      if refused then (.bad .permission 0, t.2)
      else if badClass then (.bad .classFault 0, t.2)
      else if badMode then (.bad .permission 0, t.2)
      else
        let fkind : Option FrameKind := match cls with
          | 0 => some .own
          | 1 => some .fixed
          | 3 => some .sum
          | _ => none
        (.ok { idx := 0, fkind := fkind, fetch := rd && cls != 3,
               way := { kind := .home, rd := rd, wr := wr, fmt := pteFmt leaf,
                        atom := hAt e && pteAt leaf && !(dest == .dev && ((s.core c).bind b).inTable pa), va := va,
                        dest := dest, pa := pa, sum := cls == 3, moved := false } }, t.2)

end Sys2Proof.Machine
end

