-- ==== Sys2Proof/Machine/Lines.lean ====
section
/-! DEFINITION. Line registers and frames: `open`, `sopen`, `recall`, `flush`, `pfd` (R118 to R129, R134 to R136), frames
and their fills (R217 to R221), peg tokens and their waits (R38, R127, R222). -/

namespace Sys2Proof.Machine

/-! Tokens. -/

/-- Floor and cap of a crew: its bind's FLOOR and POOL. -/
def Core.limits (k : Core) (crew : Nat) : Nat × Nat :=
  match k.crewBind crew with
  | some b => ((k.bind b).floor, (k.bind b).pool)
  | none => (0, 0)
/-- R127: the open is met when its need is within what the floor has left and the pool may give. -/
def Core.canTake (k : Core) (crew need : Nat) : Bool :=
  let u := k.crew crew
  decide (need ≤ ((k.limits crew).1 - u.floorUsed) + min ((k.limits crew).2 - u.drawn) k.pool)
/-- An open that waits for tokens. -/
def OpenWait.forTokens (w : OpenWait) : Bool := !w.taken && w.walk.isNone
/-- R222: an older open that has waited 1,024 cycles holds one that would draw from the pool. -/
def Core.agedBefore (k : Core) (now crew need wid : Nat) : Bool :=
  decide (need > (k.limits crew).1 - (k.crew crew).floorUsed) &&
    (k.waits.takeWhile fun w => w.wid != wid).any fun w => w.forTokens && decide (now ≥ w.since + Config.agedWait)
/-- Takes tokens, floor tokens first (R127). -/
def Core.takeTokens (k : Core) (crew need : Nat) : Core :=
  let f := min need ((k.limits crew).1 - (k.crew crew).floorUsed)
  k.onCrew crew fun u => { u with floorUsed := u.floorUsed + f, drawn := u.drawn + (need - f) }
/-- Returns one token: to the pool first, up to what the crew drew (R38); an increase of Q starts the detector's count
again (R223). -/
def Core.giveToken (k : Core) (crew : Nat) : Core :=
  if (k.crew crew).drawn > 0 then { (k.onCrew crew fun u => { u with drawn := u.drawn - 1 }) with detect := 0 }
  else k.onCrew crew fun u => { u with floorUsed := u.floorUsed - 1 }

/-! Line registers. -/

def Core.lreg (k : Core) (crew n : Nat) : LineReg := (k.crew crew).lregs.get .closed n
def Core.onLreg (k : Core) (crew n : Nat) (f : LineReg → LineReg) : Core :=
  k.onCrew crew fun u => { u with lregs := u.lregs.put n (f (u.lregs.get .closed n)) }
def Core.way (k : Core) (crew n w : Nat) : Way := (k.lreg crew n).ways.get .empty w
/-- A way is bound: neither empty nor stale (R35). -/
def Way.bound (x : Way) : Bool := x.kind != .empty && x.kind != .stale
/-- Sets a way; an empty way is not listed. -/
def Core.setWay (k : Core) (crew n w : Nat) (x : Way) : Core :=
  k.onLreg crew n fun r => { r with ways := if x.kind = .empty then r.ways.del w else r.ways.put w x }
/-- Frame ways that a crew's registers other than one hold: its tokens there (R128). -/
def Crew.framesBut (u : Crew) (n : Nat) : Nat :=
  u.lregs.foldl (fun a e => if e.1 = n then a else a + e.2.ways.countP fun w =>
    match w.2.kind with
    | .frame _ => true
    | _ => false) 0

/-! Frames. -/

/-- The lowest number that no frame has, from a number on. -/
def firstFree {α : Type} : AMap α → Nat → Nat
  | [], n => n
  | (j, _) :: m, n => if j = n then firstFree m (n + 1) else n
/-- The frame of a line: the one that is not abandoned (R217, R218). -/
def Core.frameOf (k : Core) (dest : Dest) (line : Nat) : Option (Nat × Frame) :=
  List.find? (fun e => e.2.dest == dest && e.2.line == line && !e.2.abandoned) k.frames
def Core.onFrame (k : Core) (f : Nat) (g : Frame → Frame) : Core :=
  match k.frames.find? f with
  | some x => { k with frames := k.frames.put f (g x) }
  | none => k
/-- The frame's bytes as a load sees them: invalid nibbles read 0 (R121). -/
def Frame.view (f : Frame) : Line := (0 : Line).merge f.valid f.data

namespace State

/-- Write-back of a frame's dirty nibbles, which become clean, or delivery of a `sum` frame's partial, which becomes
+0.0 (R134, R219); on the channel of the lanes that started it (R227). DESIGN CHOICE: a partial leaves without poison, and the
frame's poisoned nibbles stay, log entry 86. -/
def writeFrame (s : State) (c f : Nat) (lanes : List Nat) : State :=
  match (s.core c).frames.find? f with
  | none => s
  | some x =>
    match x.kind with
    | .sum => (s.onCore c fun k => k.onFrame f fun y => { y with data := 0, dirty := 0 }).request c lanes (.sum x.data) x.dest
        x.line []
    | _ =>
      if x.dirty = 0 then s
      else (s.onCore c fun k => k.onFrame f fun y => { y with dirty := 0 }).request c lanes
        (.writeBack x.dirty (x.poison &&& x.dirty) x.data) x.dest x.line []

/-- A way leaves its frame (R218): the last way's dirty nibbles, or the partial that `red` has added to since its last
delivery, go to the queue; a filling frame is abandoned. With `keep` false, what the frame holds is discarded (R296). -/
def leaveFrame (s : State) (c f : Nat) (lanes : List Nat) (keep : Bool) : State :=
  match (s.core c).frames.find? f with
  | none => s
  | some x =>
    if x.refs.toNat > 1 then s.onCore c fun k => k.onFrame f fun y => { y with refs := y.refs - 1 }
    else
      let s1 := if keep && x.dirty != 0 then s.writeFrame c f lanes else s
      s1.onCore c fun k =>
        if x.fill.isSome then k.onFrame f fun y => { y with refs := 0, dirty := 0, abandoned := true }
        else { k with frames := k.frames.del f }

/-- Recall of one way (R134): write-back, token, empty, tags. -/
def recallWay (s : State) (c crew n w : Nat) (lanes : List Nat) : State :=
  let x := (s.core c).way crew n w
  let s1 := match x.kind with
    | .frame f => ((s.writeFrame c f lanes).onCore c fun k => k.giveToken crew).leaveFrame c f lanes true
    | _ => s
  s1.onCore c fun k => (k.setWay crew n w .empty).onLreg crew n fun r =>
    { r with tags := r.tags.filter fun e => e.2.toNat != w }
/-- The ways that `Ln` or `Ln:wk` names. -/
def waysOf (la : LineOp) : List Nat :=
  match la.way with
  | some k => [k.toNat]
  | none => [0, 1, 2, 3]
/-- Recall of a register or one of its ways. -/
def recallReg (s : State) (c crew : Nat) (la : LineOp) (lanes : List Nat) : State :=
  (waysOf la).foldl (fun u w => u.recallWay c crew la.reg.toNat w lanes) s

/-! Crew-class lanes. -/

/-- The lanes of a crew-class instruction: those whose guard holds and whose sources are not poisoned; a lane with a
poisoned source parks (R300). -/
def crewLanes (s : State) (g : Guard) (srcs : List Nat) : List Nat × State :=
  (s.active g).foldl (fun a n =>
    match (s.slot s.bundle.core n).firstPoison srcs with
    | some r => (a.1, a.2.takeTrap s.bundle.core n (poisonTrap r))
    | none => (a.1 ++ [n], a.2)) ([], s)
/-- The lanes whose guard fails step past the instruction. -/
def skipRest (s : State) (g : Guard) : State :=
  s.eachLane fun u c n => if (s.slot c n).guard g then u else u.advance c n
/-- Lanes step past the instruction. -/
def advanceAll (s : State) (c : Nat) (l : List Nat) : State := l.foldl (fun u n => u.advance c n) s

/-! Opening. -/

/-- Opens wait for a fill in flight: their O operations are noted with its request. -/
def joinFill (s : State) (id : Nat) (ops : List (Nat × Cls × Nat)) : State :=
  { s with reqs := s.reqs.map fun r => if r.id = id then { r with ops := r.ops ++ ops } else r }
/-- Sends a frame's fill (R218). -/
def sendFill (s : State) (c f : Nat) (lanes : List Nat) (ops : List (Nat × Cls × Nat)) : State :=
  match (s.core c).frames.find? f with
  | none => s
  | some x =>
    (s.onCore c fun k => k.onFrame f fun y => { y with fill := some s.nextId }).request c lanes (.fill f) x.dest x.line ops

/-- The O operations of an open. -/
def openOps (w : OpenWait) : List (Nat × Cls × Nat) := w.lanes.map fun l => (l.slot, .o, w.op)

/-- Binds a line to its way (R218, R221). -/
def bindLine (c : Nat) (w : OpenWait) (s : State) (l : OpenLine) : State :=
  let put (u : State) (kind : WayKind) : State :=
    u.onCore c fun k => k.setWay w.crew w.lreg.toNat l.idx { l.way with kind := kind }
  let slots := w.lanes.map OpenLane.slot
  match l.fkind with
  | none => put s l.way.kind
  | some kind =>
    let line := lineAddr l.way.pa
    match (s.core c).frameOf l.way.dest line with
    | some (f, x) =>
      let s1 := put (s.onCore c fun k => k.onFrame f fun y => { y with refs := y.refs + 1 }) (.frame f)
      if !l.fetch then s1
      else match x.fill with
        | some id => s1.joinFill id (openOps w)
        | none => if x.valid ||| x.dirty = -1 then s1 else s1.sendFill c f slots (openOps w)
    | none =>
      let f := firstFree (s.core c).frames 0
      let x : Frame := { dest := l.way.dest, line := line, kind := kind, refs := 1,
                         valid := if kind = .sum then -1 else 0, dirty := 0, poison := 0, data := 0, fill := none,
                         abandoned := false, ctx := w.ctx }
      let s1 := put (s.onCore c fun k => { k with frames := k.frames.put f x }) (.frame f)
      if l.fetch then s1.sendFill c f slots (openOps w) else s1

/-- A fill that an O operation waits for. -/
def fillAwaited (s : State) (c slot op : Nat) : Bool :=
  s.reqs.any fun r => r.core == c && (match r.kind with
    | .fill _ => r.ops.contains (slot, .o, op)
    | _ => false)
/-- The O operation of a slot completes, unless a fill, or the end of an open without one, is still awaited (R28). -/
def openDone (s : State) (c slot op : Nat) : State :=
  if s.fillAwaited c slot op || ((s.core c).openDue.any fun e => e.1 == slot && e.2.1 == op) then s
  else s.completeOp c none (slot, .o, op)
/-- The O operations of an open that waits for no fill complete in the cycle after issue for `sopen` (R125), else in any
later cycle (R28, R355). -/
def openTimed (s : State) (c : Nat) (w : OpenWait) : State :=
  let slots := (w.lanes.map OpenLane.slot).filter fun n => !(s.fillAwaited c n w.op)
  if slots.isEmpty then s
  else if w.isSopen then
    s.onCore c fun k => { k with openDue := k.openDue ++ slots.map fun n => (n, w.op, s.clock + 1) }
  else s.free.2.onCore c fun k => { k with openDue := k.openDue ++ slots.map fun n => (n, w.op, s.clock + 1 + s.free.1.toNat) }
/-- The opens of a core whose cycle has come complete. -/
def openTimers (s : State) (c : Nat) : State :=
  let due := (s.core c).openDue.filter fun e => decide (e.2.2 ≤ s.clock)
  if due.isEmpty then s
  else due.foldl (fun u e => u.openDone c e.1 e.2.1)
    (s.onCore c fun k => { k with openDue := k.openDue.filter fun e => !decide (e.2.2 ≤ s.clock) })

/-- Every slot of an open steps past it. -/
def openStep (s : State) (c : Nat) (w : OpenWait) (slot : Nat) : State :=
  s.onSlot c slot fun t => { (t.goto (pcAdd t.pc w.pcLen)) with
    hold := match t.hold with
      | .opening _ => .free
      | h => h }

/-- Whether a way holds a line as the check of the line would bind it (R123). -/
def holdsLine (x y : Way) : Bool :=
  (match x.kind with
    | .empty => false
    | .stale => false
    | .scratch => y.kind == .scratch
    | _ => y.kind != .scratch) && x.dest == y.dest && lineAddr x.pa == lineAddr y.pa

/-- The way of the open's register that already holds a line of it. -/
def heldAt (s : State) (c : Nat) (w : OpenWait) (l : OpenLine) : Option Nat :=
  [0, 1, 2, 3].find? fun k => holdsLine ((s.core c).way w.crew w.lreg.toNat k) l.way
/-- The plan of an open in retry mode (R123): a line keeps the way that holds it already, or takes the lowest empty way; with
none its lanes are deferred. -/
def retryPlan (s : State) (c : Nat) (w : OpenWait) : OpenWait :=
  let p := w.lines.foldl (fun (a : OpenWait) l =>
    let used (k : Nat) : Bool := ((s.core c).way w.crew w.lreg.toNat k).kind != .empty || a.lines.any fun x => x.idx == k
    let move (to_ : Option Nat) : List OpenLane := a.lanes.map fun n => if n.way = some l.idx then { n with way := to_ } else n
    match s.heldAt c w l with
    | some k => { a with lanes := move (some k) }
    | none => match [0, 1, 2, 3].find? fun k => !used k with
      | some k => { a with lines := a.lines ++ [{ l with idx := k }], lanes := move (some k) }
      | none => { a with lanes := move none }) { w with lines := [] }
  { p with need := p.lines.countP fun l => l.fkind.isSome }
/-- An open that meets a way already filling waits for that fill too (R28). -/
def joinHeld (s : State) (c : Nat) (w : OpenWait) (l : OpenLine) : State :=
  match (s.heldAt c w l).map fun k => ((s.core c).way w.crew w.lreg.toNat k).kind with
  | some (.frame f) => if !l.fetch then s else match ((s.core c).frames.find? f).bind Frame.fill with
    | some id => s.joinFill id (openOps w)
    | none => s
  | _ => s
/-- What an open does before it takes tokens, each time that it is tried (R127): it recalls its register (R119); in retry mode
it looks for its ways, and returns tokens that it took and needs no more. DEDUCED: log entry 55. -/
def readyWays (s : State) (c : Nat) (w : OpenWait) : OpenWait × State :=
  if w.keep then
    let p := s.retryPlan c w
    (p, (List.replicate (if w.taken then w.need - p.need else 0) ()).foldl (fun u _ => u.onCore c fun k => k.giveToken w.crew)
      (w.lines.foldl (fun u l => u.joinHeld c w l) s))
  else (w, s.recallReg c w.crew ⟨w.lreg, none⟩ ((w.lanes.filter OpenLane.live).map OpenLane.slot))
/-- Whether an open would be met now, after what it does first (R127, R222). -/
def meets (s : State) (c : Nat) (w : OpenWait) : Bool :=
  let p := s.readyWays c w
  (p.2.core c).canTake w.crew p.1.need

/-- Whether an open's need exceeds F + cap − H, so that it can never be met (R128). -/
def unmeetable (k : Core) (w : OpenWait) : Bool :=
  decide (w.need + (k.crew w.crew).framesBut w.lreg.toNat > (k.limits w.crew).1 + (k.limits w.crew).2)
/-- Whether that is so of a waiting open, after what it does first: another bundle of its crew has raised H. -/
def neverMet (s : State) (c : Nat) (w : OpenWait) : Bool := unmeetable ((s.readyWays c w).2.core c) (s.readyWays c w).1

/-- The open binds its lines, and writes tags, predicates and `%ostat` (R119). -/
def bindOpen (s : State) (c : Nat) (w : OpenWait) : State :=
  let s1 := w.lines.foldl (bindLine c w) s
  (w.lanes.foldl (fun u l =>
    let u1 :=
      if l.live then
        match l.way with
        | some k =>
          (u.onCore c fun x => x.onLreg w.crew w.lreg.toNat fun r =>
            { r with tags := r.tags.put (laneOf l.slot) (BitVec.ofNat 2 k) }).onSlot c l.slot fun t =>
              { (t.setPred w.p true) with ostat := ostat w.lreg (BitVec.ofNat 2 k) 0 }
        | none => u.onSlot c l.slot fun t => { (t.setPred w.p false) with ostat := ostat w.lreg 0 1 }
      else u
    u1.openStep c w l.slot) s1).openTimed c w
/-- The open completes unbound with PEGWAIT (R128, R129). -/
def pegwait (s : State) (c : Nat) (w : OpenWait) : State :=
  w.lanes.foldl (fun u l =>
    let u1 := if l.live then u.onSlot c l.slot fun t => { (t.setPred w.p false) with ostat := ostat w.lreg 0 2 } else u
    (u1.openStep c w l.slot).completeOp c none (l.slot, .o, w.op)) s

/-- Frames that an open with its tokens still needs beyond those of its lines. -/
def framesWanted (s : State) (c : Nat) (w : OpenWait) : Nat :=
  w.lines.countP fun l => l.fkind.isSome && ((s.core c).frameOf l.way.dest (lineAddr l.way.pa)).isNone
/-- The frames it needs are free (R220). -/
def framesReady (s : State) (c : Nat) (w : OpenWait) : Bool :=
  decide (s.framesWanted c w + (s.core c).frames.length ≤ Config.frames)
/-- An open that holds its tokens binds, or is held until an abandoned fill frees a frame (R220). DESIGN CHOICE: R220 gives
no order among opens for frames, and a later one that finds its frames free does not wait for an earlier one, log
entry 70. -/
def bindOrHold (s : State) (c : Nat) (w : OpenWait) : State :=
  if s.framesReady c w then s.bindOpen c w
  else
    let s1 := s.onCore c fun k => { k with waits := k.waits ++ [{ w with taken := true }] }
    w.lanes.foldl (fun u l => u.onSlot c l.slot fun t => { t with hold := .opening w.wid }) s1
/-- Opens held for frames that have become free bind (R220), in their order. DESIGN CHOICE: one whose frames are free passes
one that still needs more, log entry 70. -/
def serveFrames (s : State) (c : Nat) : State :=
  ((s.core c).waits.filter fun w => w.taken).foldl (fun u w =>
    let p := u.readyWays c w
    if p.2.framesReady c p.1 then
      (p.2.onCore c fun k => { k with waits := k.waits.filter fun x => x.wid != w.wid }).bindOpen c p.1
    else u) s

/-- What an `open` or `sopen` says. -/
structure OpenSpec where
  g     : Guard
  rd    : Bool
  wr    : Bool
  scale : Nat
  lreg  : BitVec 4
  p     : PredNo
  /-- None for `sopen`. -/
  h     : Option (BitVec 12)
  a     : Reg

def openSpec : Instr → OpenSpec
  | .openLine g mode sc l p h a =>
    { g := g, rd := mode != .w, wr := mode != .r, scale := [1, 4, 16, 128].getD sc.toNat 1, lreg := l, p := p, h := some h,
      a := a }
  | .sopen g l p a => { g := g, rd := true, wr := true, scale := 1, lreg := l, p := p, h := none, a := a }
  | _ => { g := .always, rd := true, wr := true, scale := 1, lreg := 0, p := 7, h := none, a := 0 }

/-- Where a lane's open points (R119, R125): a byte address, or the lane's trap. DEDUCED: mod 2^56, log entry 10. -/
def openTarget (sp : OpenSpec) (e : Option (BitVec 256)) (v : W32) : Except Trap Nat :=
  match sp.h with
  | none =>
    if lineAddr v.toNat ≥ Config.scratchBytes then .error { cause := .bounds, acc := 1, val := BitVec.ofNat 64 v.toNat }
    else .ok v.toNat
  | some h =>
    let bad : Trap := { cause := .handleInvalid, acc := 1, val := BitVec.ofNat 64 h.toNat }
    match e with
    | none => .error bad
    | some x =>
      if !handleOk x then .error bad
      else if v.toNat * sp.scale ≥ hLen x then
        .error { cause := .bounds, acc := 1, val := BitVec.ofNat 64 (v.toNat * sp.scale) }
      else .ok ((hBase x + v.toNat * sp.scale) % 2 ^ 56)

/-- The check of a line of an `open`, or the scratch way of an `sopen` (R125). -/
def openCheck (s : State) (c b : Nat) (sp : OpenSpec) (e : Option (BitVec 256)) (line : Nat) : LineCheck × State :=
  match e with
  | some x => s.checkLine c b x sp.rd sp.wr line
  | none =>
    (.ok { idx := 0, fkind := none, fetch := false,
           way := { kind := .scratch, rd := true, wr := true, fmt := 0, atom := true, va := line, dest := .dev, pa := line,
                    sum := false, moved := false } }, s)

/-- A lane that has parked at an `open` is known to stand at one of its register (R123). -/
def parkedOpen (s : State) (c n : Nat) (lreg : BitVec 4) : State :=
  s.onSlot c n fun t => match t.hold with
    | .parked _ _ => { t with openPark := some lreg }
    | _ => t

/-- The open of a bundle, after its recall: targets, checks, traps, tokens, and the binding or the wait (R119, R123,
R127, R128). DEDUCED: it takes its tokens at issue, before the opens that already wait are looked at at the end of the cycle
(R222), log entry 56. `live` are its active lanes, `slots` those and the lanes whose guard fails. -/
def lookOpen (s : State) (c : Nat) (inst : Instr) (live slots : List Nat) (op : Nat) (retry : Bool) (pcLen : Nat) : State :=
  let sp := openSpec inst
  let crew := crewOf (slots.headD 0)
  let b := (s.slot c (slots.headD 0)).bind
  let he := match sp.h with
    | some h => s.handle c b h.toNat
    | none => (none, s)
  let targets := live.map fun l => (l, openTarget sp he.1 ((s.slot c l).reg sp.a.toNat))
  let named := targets.filterMap fun t => match t.2 with
    | .ok a => some (lineAddr a)
    | .error _ => none
  let lines := (named.eraseDups).take 4
  let checks := lines.foldl (fun (a : List (Nat × LineCheck) × State) v =>
    let r := a.2.openCheck c b sp he.1 v
    (a.1 ++ [(v, r.1)], r.2)) ([], he.2)
  let wid := checks.2.nextId
  let base : OpenWait := { wid := wid, since := s.clock, crew := crew, lreg := sp.lreg, p := sp.p, op := op, pcLen := pcLen,
                           need := 0, taken := false, walk := some inst, lines := [],
                           lanes := slots.map fun l => { slot := l, way := none, live := live.contains l },
                           ctx := ((s.core c).bind b).ctx, keep := retry, isSopen := sp.h.isNone }
  let s1 := { checks.2 with nextId := wid + 1 }
  if checks.1.any fun k => k.2 == .held then
    let s2 := s1.onCore c fun k => { k with waits := k.waits ++ [base] }
    slots.foldl (fun u l => u.onSlot c l fun t => { t with hold := .opening wid }) s2
  else
    let verdict (v : Nat) : Option LineCheck := (checks.1.find? fun k => k.1 == v).map Prod.snd
    let trapOf (t : Nat × Except Trap Nat) : Option Trap := match t.2 with
      | .error e => some e
      | .ok a => match verdict (lineAddr a) with
        | some (.bad cause level) => some { cause := cause, acc := 1, level := level, val := BitVec.ofNat 64 a }
        | _ => none
    let trapped := targets.filterMap fun t => (trapOf t).map fun e => (t.1, e)
    let s2 := trapped.foldl (fun u t =>
      (((u.onSlot c t.1 fun y => { (y.setPred sp.p false) with hold := .free }).completeOp c none (t.1, .o, op)).takeTrap c t.1 t.2).parkedOpen
        c t.1 sp.lreg) s1
    let stay := slots.filter fun l => !(trapped.any fun t => t.1 == l)
    -- way k for the k-th line named
    let found := (checks.1.zipIdx).filterMap fun k => match k.1.2 with
      | .ok l => some (k.1.1, { l with idx := k.2 })
      | _ => none
    let lanes := stay.map fun l => ({ slot := l, live := live.contains l, way := match targets.find? fun t => t.1 == l with
      | some (_, .ok a) => (found.find? fun f => f.1 == lineAddr a).map fun f => f.2.idx
      | _ => none } : OpenLane)
    let w0 : OpenWait := { base with need := found.countP (fun f => f.2.fkind.isSome), walk := none, lines := found.map Prod.snd,
                                     lanes := lanes }
    let r := s2.readyWays c w0
    let w : OpenWait := r.1
    let s3 : State := r.2
    let k := s3.core c
    if unmeetable k w then s3.pegwait c w
    else if k.canTake crew w.need && !(k.agedBefore s.clock crew w.need wid) then
      (s3.onCore c fun x => x.takeTokens crew w.need).bindOrHold c w
    else
      let s4 := s3.onCore c fun x => { x with waits := x.waits ++ [w] }
      stay.foldl (fun u l => u.onSlot c l fun t => { t with hold := .opening wid }) s4

/-- `open` and `sopen` on the bundle (R119, R122, R123, R125). DESIGN CHOICE: a lane whose vA is poisoned takes POISON before
its handle is looked at (R280, R300), log entry 96. -/
def openInstr (inst : Instr) (s : State) : State :=
  let sp := openSpec inst
  let c := s.bundle.core
  let act := s.crewLanes sp.g [sp.a.toNat]
  if act.1.isEmpty then (s.active sp.g).foldl (fun u n => u.parkedOpen c n sp.lreg) (act.2.skipRest sp.g)
  else
    let op := act.2.nextId
    let parked := (s.active sp.g).filter fun n => !act.1.contains n
    let s1 := s.bundle.slots.foldl (fun u n => u.onSlot c n fun t => t.enter .o op false) { act.2 with nextId := op + 1 }
    let s2 := parked.foldl (fun u n => (u.completeOp c none (n, .o, op)).parkedOpen c n sp.lreg) s1
    let retry := decide (s.bundle.slots.length = 1) && (s.slot c (s.bundle.slots.headD 0)).retry
    let s3 := if retry then s2
      else (s2.recallReg c (crewOf (s.bundle.slots.headD 0)) ⟨sp.lreg, none⟩ act.1).serveFrames c
    s3.lookOpen c inst act.1 (s.bundle.slots.filter fun n => !parked.contains n) op retry s.bundle.len

/-- An open whose walk was held by a hand-over is looked at again (R242). -/
def walkAgain (s : State) (c : Nat) (w : OpenWait) (inst : Instr) : State :=
  let s1 := s.onCore c fun k => { k with waits := k.waits.filter fun x => x.wid != w.wid }
  let slots := w.lanes.map OpenLane.slot
  s1.lookOpen c inst ((w.lanes.filter OpenLane.live).map OpenLane.slot) slots w.op
    (decide (slots.length = 1) && (s1.slot c (slots.headD 0)).retry) w.pcLen

/-! Token waits. -/

/-- R127, R128, R222: the waiting open that is met next in this cycle, or ends because it can never be met. -/
def tokenNext (s : State) (c : Nat) : Option OpenWait :=
  (s.core c).waits.find? fun w => w.forTokens && (s.neverMet c w ||
    (s.meets c w && (let p := s.readyWays c w; !((p.2.core c).agedBefore s.clock w.crew p.1.need w.wid))))
/-- R223: an open waits for tokens and none of them can be met with the current Q. DEDUCED: log entry 40. -/
def detectorHolds (s : State) (c : Nat) : Bool :=
  ((s.core c).waits.any OpenWait.forTokens) && !((s.core c).waits.any fun w => w.forTokens && s.meets c w)
/-- It has held for 4,096 cycles, this one among them. -/
def detectorDue (s : State) (c : Nat) : Bool :=
  s.detectorHolds c && decide ((s.core c).detect + 1 ≥ Config.detectorCycles)

/-- The ways of a core bound to a frame: crew, register, way, and the way itself. -/
def waysOfFrame (k : Core) (f : Nat) : List (Nat × Nat × Nat × Way) :=
  k.crews.flatMap fun u => u.2.lregs.flatMap fun r => r.2.ways.filterMap fun w =>
    if w.2.kind = .frame f then some (u.1, r.1, w.1, w.2) else none
/-- A way turns stale: it leaves its frame and its token returns (R221). -/
def staleWay (s : State) (c crew n w : Nat) : State :=
  let x := (s.core c).way crew n w
  let s1 := match x.kind with
    | .frame f => (s.onCore c fun k => k.giveToken crew).leaveFrame c f [] true
    | _ => s
  s1.onCore c fun k => k.setWay crew n w { x with kind := .stale, moved := false }

/-- The fill request of a frame whose data is at the core. -/
def fillHere (s : State) (c f : Nat) : Option Req :=
  s.reqs.find? fun r => r.kind == .fill f && r.core == c && r.stage == .here
/-- The opens that waited for a fill complete, as far as they wait for no other (R28, R122). -/
def fillDone (s : State) (c : Nat) (r : Req) : State :=
  r.ops.foldl (fun u o => u.openDone c o.1 o.2.2) (s.dropReq r.id)
/-- A fill arrives at its frame (R218): at one instant, every nibble neither valid nor dirty takes the data. -/
def fillFrame (s : State) (c f : Nat) (r : Req) : State :=
  let d := carried r.result
  let s1 := s.onCore c fun k => k.onFrame f fun x =>
    let take := ~~~(x.valid ||| x.dirty)
    { x with data := x.data.merge take d.1, poison := (x.poison &&& ~~~take) ||| (d.2 &&& take), valid := -1, fill := none }
  let s2 := ((waysOfFrame (s1.core c) f).filter fun w => w.2.2.2.moved).foldl (fun u w => u.staleWay c w.1 w.2.1 w.2.2.1) s1
  s2.fillDone c r

end State

/-- `open` (R118, R119). -/
def execOpenLine (g : Guard) (mode : OpenMode) (sc : BitVec 2) (l : BitVec 4) (p : PredNo) (h : BitVec 12) (a : Reg)
    (s : State) : Result := .next (s.openInstr (.openLine g mode sc l p h a))
/-- `sopen` (R125). -/
def execSopen (g : Guard) (l : BitVec 4) (p : PredNo) (a : Reg) (s : State) : Result :=
  .next (s.openInstr (.sopen g l p a))

namespace State

/-- `recall` (R134): on the crew's register as a whole, once a lane is active. -/
def recallInstr (g : Guard) (la : LineOp) (s : State) : State :=
  let act := s.active g
  let c := s.bundle.core
  let s1 := if act.isEmpty then s else (s.recallReg c (crewOf (s.bundle.slots.headD 0)) la act).serveFrames c
  s1.advanceAll c s.bundle.slots
/-- What a `flush` traps with (R35, R135): LINE_CLOSED on a register without a bound way, or on an empty way it names.
DEDUCED: a stale way is not bound, and one that `Ln:wk` names in an open register traps with STACK_MOVED, log entry 81. -/
def flushFault (s : State) (c crew : Nat) (la : LineOp) : Option Cause :=
  let way (k : Nat) : Way := (s.core c).way crew la.reg.toNat k
  if ([0, 1, 2, 3].all fun k => !(way k).bound) || (waysOf la).all fun k => (way k).kind == .empty then some .lineClosed
  else if (waysOf la).any fun k => (way k).bound then none
  else some .stackMoved
/-- `flush` (R135). -/
def flushInstr (g : Guard) (la : LineOp) (s : State) : State :=
  let act := s.active g
  let c := s.bundle.core
  let crew := crewOf (s.bundle.slots.headD 0)
  let ways := (waysOf la).map fun w => (s.core c).way crew la.reg.toNat w
  if act.isEmpty then s.advanceAll c s.bundle.slots
  else match s.flushFault c crew la with
    | some e =>
      let v := la.reg.toNat + 16 * (la.way.getD 0).toNat
      act.foldl (fun u n => u.takeTrap c n { cause := e, val := BitVec.ofNat 64 v }) (s.skipRest g)
    | none =>
      let s1 := ways.foldl (fun u x => match x.kind with
        | .frame f => u.writeFrame c f act
        | _ => u) s
      s1.advanceAll c s.bundle.slots
/-- `pfd` (R126): translation alone has an effect a model of values can show, in the TLBs. DEDUCED: a lane whose vA is
poisoned parks as R300 says of every instruction that reads a register; R126 drops a hint silently only where its handle,
bounds, translation or permission check fails, log entry 49. -/
def pfdInstr (g : Guard) (h : BitVec 12) (a : Reg) (s : State) : State :=
  let c := s.bundle.core
  let act := s.crewLanes g [a.toNat]
  let s1 := act.1.foldl (fun u n =>
    let b := (u.slot c n).bind
    let e := u.handle c b h.toNat
    match openTarget (openSpec (.openLine g .r 0 0 7 h a)) e.1 ((u.slot c n).reg a.toNat) with
    | .ok v => (match e.1 with
      | some x => (e.2.checkLine c b x true false (lineAddr v)).2
      | none => e.2)
    | .error _ => e.2) (act.2.skipRest g)
  s1.advanceAll c act.1

end State

/-- `recall` (R134). -/
def execRecall (g : Guard) (la : LineOp) (s : State) : Result := .next (s.recallInstr g la)
def execRecallC (la : LineOp) (s : State) : Result := .next (s.recallInstr .always la)
/-- `flush` (R135). -/
def execFlush (g : Guard) (la : LineOp) (s : State) : Result := .next (s.flushInstr g la)
def execFlushC (la : LineOp) (s : State) : Result := .next (s.flushInstr .always la)
/-- `pfd` (R126). -/
def execPfd (g : Guard) (h : BitVec 12) (a : Reg) (s : State) : Result := .next (s.pfdInstr g h a)

/-- `FILL_ARRIVES` (R218): the data of a frame's fill is at its core. -/
def execFillArrives (c f : Nat) (s : State) : Result :=
  match s.fillHere c f, (s.core c).frames.find? f with
  | some r, some x => if x.fill = some r.id ∧ x.abandoned = false ∧ s.closedNow c = false then .next ((s.fillFrame c f r).serveFrames c) else .next s
  | _, _ => .next s
/-- `ABANDONED_FILL_ARRIVES` (R122, R218): the data is discarded; an abandoned frame becomes free, and an open that
waits for a frame may bind (R220). Tokens may return, so it comes before the end of a cycle's issue (R222). -/
def execAbandonedFillArrives (c f : Nat) (s : State) : Result :=
  match s.fillHere c f with
  | none => .next s
  | some r =>
    if s.closedNow c then .next s
    else match (s.core c).frames.find? f with
    | some x =>
      if x.fill = some r.id then
        if x.abandoned then
          .next (((s.onCore c fun k => { k with frames := k.frames.del f }).fillDone c r).serveFrames c)
        else .next s
      else .next ((s.fillDone c r).serveFrames c)
    | none => .next ((s.fillDone c r).serveFrames c)
/-- `WALK_READ` (R233, R242): the reads of a walk that a hand-over held are made, and its open goes on; before the end of a
cycle's issue (R222). -/
def execWalkRead (c wid : Nat) (s : State) : Result :=
  match (s.core c).waits.find? fun w => w.wid == wid with
  | some w => match w.walk with
    | some inst => if s.closedNow c then .next s else .next (s.walkAgain c w inst)
    | none => .next s
  | none => .next s

end Sys2Proof.Machine
end

