-- ==== Sys2Proof/Machine/Access.lean ====
section
/-! DEFINITION. Loads, stores, atomics and reductions through bound ways (R130 to R133, R137 to R141, R357), the
load-store unit (R139), and the replies of home, peer and host requests (R28, R251, R256, R341). -/

namespace Sys2Proof.Machine

/-- What a lane's use of a line operand gives (R35). -/
inductive WayUse where
  | ok (k : Nat) (w : Way)
  | trap (t : Trap)
  deriving DecidableEq, Repr

namespace State

/-- The way that `Ln:wk`, or the lane's tag, selects; an invalid tag or an empty way is LINE_CLOSED, a stale one
STACK_MOVED (R35, R279). DEDUCED: way bits 0 with no valid tag, log entry 46. -/
def useWay (s : State) (c n : Nat) (la : LineOp) (acc : Nat) : WayUse :=
  let r := (s.core c).lreg (crewOf n) la.reg.toNat
  let k : Option Nat := match la.way with
    | some w => some w.toNat
    | none => (AMap.find? r.tags (laneOf n)).map fun v => v.toNat
  match k with
  | none => .trap { cause := .lineClosed, acc := acc, val := BitVec.ofNat 64 la.reg.toNat }
  | some j =>
    let w := r.ways.get .empty j
    let v := BitVec.ofNat 64 (la.reg.toNat + 16 * j)
    match w.kind with
    | .empty => .trap { cause := .lineClosed, acc := acc, val := v }
    | .stale => .trap { cause := .stackMoved, acc := acc, val := v }
    | _ => .ok j w

/-- Earlier accesses of a slot in its home order that are not yet performed. -/
def pending (s : State) (c n : Nat) : List Req :=
  s.reqs.filter fun r => r.core == c && r.lanes.contains n && unperformed r.stage && threadOrdered r.kind
/-- Of these, accesses of `home` locations, which stand in the total order of R142; accesses of host memory do not. -/
def pendingHome (s : State) (c n : Nat) : Bool := (s.pending c n).any fun r => atSlice r.kind && r.dest != .host
/-- Whether a line operand of a lane names a frame of an `own` or `fixed` line. -/
def frameWay (s : State) (c n : Nat) (la : LineOp) : Bool := match s.useWay c n la 0 with
  | .ok _ w => !w.sum && (match w.kind with
    | .frame _ => true
    | _ => false)
  | .trap _ => false
/-- The line of a frame or scratch way as a load sees it, its poisoned nibbles, and those that are valid. -/
def lineImage (s : State) (c : Nat) (w : Way) : Line × Nibbles × Nibbles :=
  match w.kind with
  | .frame f => match (s.core c).frames.find? f with
    | some x => (x.view, x.poison &&& x.valid, x.valid)
    | none => (0, 0, 0)
  | _ =>
    let k := s.core c
    ((List.range 128).foldl (fun (l : Line) i => l.setByte i (k.scratch.get 0 (lineAddr w.pa + i))) 0,
     (List.range 128).foldl (fun (m : Nibbles) i =>
       if k.scratchPoison.get false (lineAddr w.pa + i) then m ||| nibbleMask i 1 else m) 0, -1)
/-- A store into a frame marks its nibbles valid and dirty and clears their poison (R131, R220); into scratch, it clears
the poison of the bytes (R300). -/
def storeImage (s : State) (c : Nat) (w : Way) (l : Line) (mask : Nibbles) : State :=
  match w.kind with
  | .frame f => s.onCore c fun k => k.onFrame f fun x =>
      { x with data := x.data.merge mask l, valid := x.valid ||| mask, poison := x.poison &&& ~~~mask,
               dirty := x.dirty ||| mask }
  | _ => s.onCore c fun k => (List.range 128).foldl (fun q i =>
      if (mask.extractLsb' (2 * i) 2) = 0 then q
      else { q with scratch := q.scratch.put (lineAddr w.pa + i) (l.byte i),
                    scratchPoison := q.scratchPoison.del (lineAddr w.pa + i) }) k
end State

/-- The nibbles that an access looks at. -/
def accessTouch (a : Access) (l : Line) (fmt : BitVec 4) (raw : Nat) : Nibbles :=
  match a with
  | .bytes n _ => nibbleMask (raw % 128) n
  | .elem t _ => elemTouch l fmt t (raw % elemCount fmt t)
/-- The lowest byte of a mask, counted from an offset and wrapping. -/
def firstByte (m : Nibbles) (o : Nat) : Nat :=
  match (List.range 128).find? fun j => m &&& nibbleMask (o + j) 1 != 0 with
  | some j => (o + j) % 128
  | none => 0
/-- The line offset of the first byte accessed (R279). -/
def accessFirst (a : Access) (l : Line) (fmt : BitVec 4) (raw : Nat) : Nat :=
  match a with
  | .bytes _ _ => raw % 128
  | .elem t _ =>
    let i := raw % elemCount fmt t
    if fmt = 0 then firstByte (elemTouch l fmt t i) 0
    else match storedIndex fmt.toNat l i with
      | some n => firstByte (elementNibbles fmt.toNat n) 0
      | none => firstByte (elemTouch l fmt t i) 0
/-- The registers that hold an access's data. -/
def accessRegs : Access → List Nat
  | .bytes n d => regRun d ((n + 3) / 4)
  | .elem _ d => [d.toNat]
/-- A fault at a byte of a way's line. -/
def faultAt (cause : Cause) (acc : Nat) (w : Way) (off : Nat) : Trap :=
  { cause := cause, acc := acc, val := BitVec.ofNat 64 (w.va + off) }

/-- A lane's access that executes at a home: slot, way, offset or element, data. -/
abbrev HomeLane := Nat × Way × Nat × List W32
/-- The lines that such lanes name, whatever the ways' format tags (R143): destination, line, `sum`. -/
def homeKey (x : HomeLane) : Dest × Nat × Bool := (x.2.1.dest, lineAddr x.2.1.pa, x.2.1.sum)

namespace State

/-- The runs of 1 to 16 bytes, aligned to their size, in which a mask's bytes from an offset are written to the host, each by a
request of its own (R256): of 2^k bytes and less. -/
def piecesAt (m : Nibbles) : Nat → Nat → List (Nat × Nat)
  | 0, off => if m &&& nibbleMask off 1 = 0 then [] else [(off, 1)]
  | k + 1, off => if m &&& nibbleMask off (2 ^ (k + 1)) = nibbleMask off (2 ^ (k + 1)) then [(off, 2 ^ (k + 1))]
    else piecesAt m k off ++ piecesAt m k (off + 2 ^ k)
def hostPieces (m : Nibbles) : List (Nat × Nat) := (List.range 8).flatMap fun i => piecesAt m 4 (16 * i)
/-- The part of a store's data that goes to a run of its line: the run's bytes as registers. -/
def pieceData (raw : Nat) (data : List W32) (p : Nat × Nat) : List W32 :=
  let v := data.foldr (fun w a => w.toNat + 2 ^ 32 * a) 0 / 256 ^ ((p.1 + 128 - raw % 128) % 128) % 256 ^ p.2
  (List.range ((p.2 + 3) / 4)).map fun i => BitVec.ofNat 32 (v / 2 ^ (32 * i))
/-- A store of a run. -/
def pieceStore (n : Nat) : Instr :=
  .st .always (if n = 1 then .b else if n = 2 then .h else if n = 4 then .w else if n = 8 then .d else .x) ⟨0, none⟩ 0 0 0
/-- What a lane's access asks of the host (R254, R256), each with its line offset: the access itself, and of a store that wraps
in its line its runs. DEDUCED: an `lde`, and an `ld` that wraps, names the line, log entry 52. -/
def hostParts (returns : Bool) (inst : Instr) (x : HomeLane) : List (Nat × Instr × HomeLane) :=
  match accessOf inst with
  | .elem t _ => [(if returns then 0 else (hostElem x.2.1.fmt t x.2.2.1).1, inst, x)]
  | .bytes n _ =>
    if wraps n x.2.2.1 then
      (if returns then [(0, inst, x)]
       else (hostPieces (nibbleMask (x.2.2.1 % 128) n)).map fun p =>
        (p.1, pieceStore p.2, (x.1, x.2.1, p.1, pieceData x.2.2.1 x.2.2.2 p)))
    else [(x.2.2.1 % 128, inst, x)]
/-- The accesses of a bundle to one home line are one request (R143); the host takes one access in each (R256). Each lane
counts in H and steps past. -/
def sendHome (s : State) (c : Nat) (lanes : List HomeLane) (returns : Bool) (inst : Instr)
    (kind : Instr → List HomeLane → Bool → ReqKind) : State :=
  let id := s.nextId
  let s1 := lanes.foldl (fun u x => u.onSlot c x.1 fun t => t.enter .h id returns) { s with nextId := id + 1 }
  let s2 := (lanes.map homeKey).eraseDups.foldl (fun u key =>
    let mine := lanes.filter fun x => homeKey x == key
    if key.1 = .host then (mine.flatMap (hostParts returns inst)).foldl (fun v x =>
      v.request c [x.2.2.1] (kind x.2.1 [x.2.2] key.2.2) .host (key.2.1 + x.1) [(x.2.2.1, .h, id)]) u
    else u.request c (mine.map fun x => x.1) (kind inst mine key.2.2) key.1 key.2.1
      (mine.map fun x => (x.1, .h, id))) s1
  s2.advanceAll c (lanes.map fun x => x.1)

/-- A load in one lane (R131): the state, and what it asks of a home. The way's state is checked first, then its rights, then poison
(R280). DESIGN CHOICE: of poison, the registers' before the line's, log entry 68. -/
def loadLane (c : Nat) (la : LineOp) (b : Reg) (off : Nat) (inst : Instr) (a : State × List HomeLane) (n : Nat) :
    State × List HomeLane :=
  let u := a.1
  let t := u.slot c n
  let acc := accessOf inst
  match u.useWay c n la 2 with
  | .trap e => (u.takeTrap c n e, a.2)
  | .ok _ w =>
    let raw := (t.reg b.toNat).toNat + off
    let img := u.lineImage c w
    if !w.rd then (u.takeTrap c n (faultAt .permission 2 w (accessFirst acc img.1 w.fmt raw)), a.2)
    else match t.firstPoison [b.toNat] with
      | some r => (u.takeTrap c n (poisonTrap r), a.2)
      | none =>
        if w.kind == .home || w.sum then (u, a.2 ++ [(n, w, raw, [])])
        else
          let bad := img.2.1 &&& accessTouch acc img.1 w.fmt raw
          if bad != 0 then (u.takeTrap c n (faultAt .poison 2 w (firstByte bad (accessFirst acc img.1 w.fmt raw))), a.2)
          else
            ((u.setSlot c n ((accessLoad acc img.1 0 w.fmt raw).foldl (fun v e => v.setReg e.1 e.2.1) t)).advance c n, a.2)
/-- A load on the bundle. -/
def loadInstr (g : Guard) (la : LineOp) (b : Reg) (off : Nat) (inst : Instr) (s : State) : State :=
  let c := s.bundle.core
  let r := (s.active g).foldl (loadLane c la b off inst) (s.skipRest g, [])
  r.1.sendHome c r.2 true inst fun i l sum => .read (l.map fun x => (x.1, x.2.1.fmt, x.2.2.1)) i sum

/-- A store in one lane (R131), its causes in the order of R280. DESIGN CHOICE: a `ste` under a poisoned scale byte or group
code encodes under the bits that stand there, log entry 84. -/
def storeLane (c : Nat) (la : LineOp) (b : Reg) (off : Nat) (inst : Instr) (a : State × List HomeLane) (n : Nat) :
    State × List HomeLane :=
  let u := a.1
  let t := u.slot c n
  let acc := accessOf inst
  match u.useWay c n la 3 with
  | .trap e => (u.takeTrap c n e, a.2)
  | .ok _ w =>
    let raw := (t.reg b.toNat).toNat + off
    let data := (accessRegs acc).map t.reg
    let img := u.lineImage c w
    let first := accessFirst acc img.1 w.fmt raw
    if !w.wr then (u.takeTrap c n (faultAt .permission 3 w first), a.2)
    else if w.sum then (u.takeTrap c n (faultAt .classFault 3 w first), a.2)
    else match t.firstPoison (b.toNat :: accessRegs acc) with
      | some r => (u.takeTrap c n (poisonTrap r), a.2)
      | none =>
        if w.kind == .home then (u, a.2 ++ [(n, w, raw, data)])
        else
          let st := accessStore acc img.1 img.2.2 w.fmt raw data
          ((u.storeImage c w st.1 st.2).advance c n, a.2)
/-- A store on the bundle. -/
def storeInstr (g : Guard) (la : LineOp) (b : Reg) (off : Nat) (inst : Instr) (s : State) : State :=
  let c := s.bundle.core
  let r := (s.active g).foldl (storeLane c la b off inst) (s.skipRest g, [])
  r.1.sendHome c r.2 false inst fun i l _ => .write (l.map fun x => (x.1, x.2.1.fmt, x.2.2.1, x.2.2.2)) i

/-! The load-store unit. -/

/-- Operations of the unit. -/
structure UnitSpec where
  g     : Guard
  la    : LineOp
  b     : Reg
  srcs  : List Nat
  bytes : Nat
  acc   : Nat
  cls   : Cls
  returns : Bool

/-- What an `atom`, `red` or `sig` says (R137, R140, R189). -/
def unitSpec : Instr → UnitSpec
  | .atom g op _ la b cc =>
    { g := g, la := la, b := b, bytes := op.bytes, acc := 4, cls := .h, returns := true,
      srcs := b.toNat :: (match op with
        | .cas _ => regRun cc (2 * (op.bytes / 4))
        | _ => regRun cc (op.bytes / 4)) }
  | .red g op la b d =>
    { g := g, la := la, b := b, bytes := op.bytes, acc := 5, cls := .h, returns := false,
      srcs := b.toNat :: regRun d (op.bytes / 4) }
  | .sig g t la b d =>
    { g := g, la := la, b := b, bytes := if t.wide then 8 else 4, acc := 5, cls := .s, returns := false,
      srcs := b.toNat :: regsOf t.wide d }
  | _ => { g := .always, la := ⟨0, none⟩, b := 0, srcs := [], bytes := 4, acc := 0, cls := .h, returns := false }
/-- The operand and second operand of a lane; `cas` has the compare value and the new one. -/
def unitArgs (t : Slot) : Instr → W64 × W64
  | .atom _ op _ _ _ cc =>
    let v (r : Nat) : W64 := if op.bytes = 8 then t.pair r else (t.reg r).setWidth 64
    (v cc.toNat, match op with
      | .cas _ => v (cc.toNat + op.bytes / 4)
      | _ => 0)
  | .red _ op _ _ d => (if op.bytes = 8 then t.pair d.toNat else (t.reg d.toNat).setWidth 64, 0)
  | .sig _ ty _ _ d => (if ty.wide then t.pair d.toNat else (t.reg d.toNat).setWidth 64, 0)
  | _ => (0, 0)
/-- The atomics that a host way accepts (R254). -/
def hostAtomic : Instr → Bool
  | .atom _ (.red (.arith .add (.int .n32))) _ _ _ _ => true
  | .atom _ (.red (.arith .add (.int .n64))) _ _ _ _ => true
  | .atom _ (.exch _) _ _ _ _ => true
  | .atom _ (.cas _) _ _ _ _ => true
  | _ => false
/-- The cause that a way gives an operation of the unit: rights first, then class (R138, R140, R189, R254, R280). -/
def unitFault (inst : Instr) (w : Way) : Option Cause :=
  match inst with
  | .sig _ _ _ _ _ =>
    if !w.atom then some .permission
    else if w.kind == .home && w.dest != .host then none else some .classFault
  | _ =>
    if !w.rd || !w.wr || !w.atom then some .permission
    else if w.sum then (match inst with
      | .red _ (.arith .add .fp32) _ _ _ => none
      | _ => some .classFault)
    else if w.dest == .host && w.kind == .home && !hostAtomic inst then some .classFault
    else none

/-- The first poisoned byte of a word of a frame or scratch way, as a line offset. -/
def wordBad (s : State) (c : Nat) (w : Way) (off bytes : Nat) : Option Nat :=
  let bad := (s.lineImage c w).2.1 &&& nibbleMask off bytes
  if bad != 0 then some (firstByte bad off) else none

/-- A lane of such an instruction at issue: its trap, the causes in the order of R280, or the way with its word's offset. DESIGN
CHOICE: of poison, the registers' before the word's, log entry 68. -/
def unitLane (s : State) (c n : Nat) (sp : UnitSpec) (inst : Instr) : Except Trap (Way × Nat) :=
  let t := s.slot c n
  match s.useWay c n sp.la sp.acc with
  | .trap e => .error e
  | .ok _ w =>
    let off := wordOff (t.reg sp.b.toNat) sp.bytes
    match unitFault inst w with
    | some cause => .error (faultAt cause sp.acc w off)
    | none => match t.firstPoison sp.srcs with
      | some r => .error (poisonTrap r)
      | none =>
        if w.kind == .home then .ok (w, off)
        else match s.wordBad c w off sp.bytes with
          | some b => .error (faultAt .poison sp.acc w b)
          | none => .ok (w, off)

/-- The request of the words of one line at a home, each with its lanes (R138, R139, R143, R189). -/
def unitKind (inst : Instr) (bytes : Nat) (words : List (Nat × List (Nat × W64 × W64))) : ReqKind :=
  match inst with
  | .atom _ op _ _ _ _ => .atom bytes op inst words
  | .red _ op _ _ _ =>
    .red bytes op (words.map fun w => (w.1, match w.2 with
      | [] => 0
      | l :: ls => ls.foldl (fun a m => op.combine a m.2.1) l.2.1))
  | _ => .sig bytes (words.map fun w => (w.1, w.2.foldl (fun a m => a + m.2.1) 0))
/-- Operands of lanes by the word that they name, in ascending order of each word's lowest lane. -/
def wordGroups (lanes : List (Nat × Nat × W64 × W64)) : List (Nat × List (Nat × W64 × W64)) :=
  ((lanes.map fun x => x.2.1).eraseDups).map fun off => (off, (lanes.filter fun x => x.2.1 == off).map fun x => (x.1, x.2.2))

/-- A compare and swap, which the host takes one lane at a time. DEDUCED: log entry 52. -/
def comparing : Instr → Bool
  | .atom _ (.cas _) _ _ _ _ => true
  | _ => false
/-- `atom`, `red` and `sig` at issue (R138, R139): one lane operand per cycle in the quadrant's unit; requests leave and
in-place lanes execute at the end. -/
def unitInstr (inst : Instr) (s : State) : State :=
  let sp := unitSpec inst
  let c := s.bundle.core
  let looked := (s.active sp.g).map fun n => (n, s.unitLane c n sp inst)
  let s1 := looked.foldl (fun u x => match x.2 with
    | .error e => u.takeTrap c x.1 e
    | .ok _ => u) (s.skipRest sp.g)
  let good := looked.filterMap fun x => match x.2 with
    | .ok w => some (x.1, w.1, w.2, unitArgs (s.slot c x.1) inst)
    | .error _ => none
  if good.isEmpty then s1
  else
    let till := s.clock + good.length
    let id := s1.nextId
    let homes := good.filter fun x => x.2.1.kind == .home
    let here := good.filter fun x => x.2.1.kind != .home
    let s2 := homes.foldl (fun u x => u.onSlot c x.1 fun t => t.enter sp.cls id sp.returns) { s1 with nextId := id + 1 }
    -- one request for each line (R143); the host takes one word in each, and one compare and new value (R256)
    let key (x : Nat × Way × Nat × W64 × W64) : Dest × Nat × Nat × Nat :=
      (x.2.1.dest, lineAddr x.2.1.pa, if x.2.1.dest = .host then (x.2.2.1, if comparing inst then x.1 else 0) else (0, 0))
    let s3 := (homes.map key).eraseDups.foldl (fun (a : List Nat × State) k =>
      let mine := homes.filter fun x => key x == k
      let r := a.2.newReq c (mine.map fun x => x.1)
        (unitKind inst sp.bytes (wordGroups (mine.map fun x => (x.1, x.2.2))))
        k.1 (k.2.1 + k.2.2.1) (mine.map fun x => (x.1, sp.cls, id))
      (a.1 ++ [r.1.id], { r.2 with reqs := r.2.reqs ++ [{ r.1 with stage := .unit }] })) ([], s2)
    let s4 := s3.2.onCore c fun k => { k with
      lsu := k.lsu ++ [{ id := id, quad := s.bundle.quad, till := till, inst := inst, pcLen := s.bundle.len, reqs := s3.1,
                         args := here }]
      lsuBusy := k.lsuBusy.put s.bundle.quad till }
    let s5 := here.foldl (fun u x => u.onSlot c x.1 fun t => { t with hold := .lsu id }) s4
    s5.advanceAll c (homes.map fun x => x.1)

/-- The new word and returns of a request in place; a `sum` partial takes the operands one by one (R138, R140). -/
def unitApply (inst : Instr) (sum : Bool) (x : W64) (lanes : List (Nat × W64 × W64)) : W64 × List (Nat × W64) :=
  match inst with
  | .atom _ op _ _ _ _ => combineAtom op x lanes
  | .red _ op _ _ _ =>
    if sum then (lanes.foldl (fun a l => op.combine a l.2.1) x, []) else ((combineAtom (.red op) x lanes).1, [])
  | _ => (x, [])
/-- The request of one word executes in place: one indivisible event. -/
def unitWord (c : Nat) (o : LsuOp) (s : State) (lanes : List (Nat × Way × Nat × W64 × W64)) : State :=
  let sp := unitSpec o.inst
  match lanes with
  | [] => s
  | x :: _ =>
    let off := x.2.2.1
    match s.wordBad c x.2.1 off sp.bytes with
    | some b => lanes.foldl (fun u l => (u.onSlot c l.1 fun t => { t with hold := .free }).takeTrap c l.1
        (faultAt .poison sp.acc l.2.1 b)) s
    | none =>
      let img := s.lineImage c x.2.1
      let r := unitApply o.inst x.2.1.sum (BitVec.ofNat 64 (img.1.read off sp.bytes)) (lanes.map fun l => (l.1, l.2.2.2))
      let s1 := s.storeImage c x.2.1 (img.1.write off sp.bytes r.1.toNat) (nibbleMask off sp.bytes)
      let s2 := r.2.foldl (fun u v => u.onSlot c v.1 fun t =>
        (returnRegs v.1 sp.bytes (atomDest o.inst) v.2 false).foldl (fun q e => q.setReg e.2.1 e.2.2.1) t) s1
      lanes.foldl (fun u l => u.onSlot c l.1 fun t => { (t.goto (pcAdd t.pc o.pcLen)) with hold := .free }) s2
/-- Whether a lane's way, when the unit's cycles end, is the one that it named at issue: else the register has been
recalled, or a hand-over has closed it (R35); a way that a hand-over only marks is still bound (R221). DEDUCED: log
entry 57. -/
def sameWay (s : State) (c : Nat) (sp : UnitSpec) (x : Nat × Way × Nat × W64 × W64) : Option Trap :=
  match s.useWay c x.1 sp.la sp.acc with
  | .trap e => some e
  | .ok _ w => if { w with moved := false } = { x.2.1 with moved := false } then none
      else some { cause := .lineClosed, acc := sp.acc, val := BitVec.ofNat 64 sp.la.reg.toNat }
/-- The end of the unit's cycles (R139): requests leave; lanes in place execute on the ways that they named. -/
def unitLeave (s : State) (c : Nat) (o : LsuOp) : State :=
  let sp := unitSpec o.inst
  let s1 := s.onCore c fun k => { k with lsu := k.lsu.filter fun x => x.id != o.id }
  let s2 := o.reqs.foldl (fun u id => match u.req? id with
    | some r => (u.dropReq id).sendReq r
    | none => u) s1
  let args := o.args.filter fun x => (s.slot c x.1).hold == .lsu o.id
  let s3 := args.foldl (fun u x => match s2.sameWay c sp x with
    | some e => (u.onSlot c x.1 fun t => { t with hold := .free }).takeTrap c x.1 e
    | none => u) s2
  let good := args.filter fun x => (s2.sameWay c sp x).isNone
  let key (x : Nat × Way × Nat × W64 × W64) : WayKind × Nat × Nat := (x.2.1.kind, lineAddr x.2.1.pa, x.2.2.1)
  (good.map key).eraseDups.foldl (fun u k => unitWord c o u (good.filter fun x => key x == k)) s3
/-- The `sum` frames that an operation of the unit adds to. -/
def sumFrames (o : LsuOp) : List WayKind := (o.args.filter fun x => x.2.1.sum).map fun x => x.2.1.kind
/-- An earlier bundle's `red` on one of its `sum` frames has not been performed: partials take the bundles' operands in
issue order (R140). -/
def sumHeld (s : State) (c : Nat) (o : LsuOp) : Bool :=
  (s.core c).lsu.any fun a => decide (a.id < o.id) && (sumFrames a).any (sumFrames o).contains

end State

/-- `ld` (R130, R131). -/
def execLd (g : Guard) (sz : Size) (d : Reg) (la : LineOp) (b : Reg) (off : BitVec 7) (s : State) : Result :=
  .next (s.loadInstr g la b off.toNat (.ld g sz d la b off))
def execLdBC (d : Reg) (la : LineOp) (b : Reg) (s : State) : Result := .next (s.loadInstr .always la b 0 (.ldBC d la b))
def execLdHC (d : Reg) (la : LineOp) (b : Reg) (s : State) : Result := .next (s.loadInstr .always la b 0 (.ldHC d la b))
def execLdWC (d : Reg) (la : LineOp) (b : Reg) (s : State) : Result := .next (s.loadInstr .always la b 0 (.ldWC d la b))
def execLdDC (d : Reg) (la : LineOp) (b : Reg) (s : State) : Result := .next (s.loadInstr .always la b 0 (.ldDC d la b))
/-- `st` (R130, R131). -/
def execSt (g : Guard) (sz : Size) (la : LineOp) (b d : Reg) (off : BitVec 7) (s : State) : Result :=
  .next (s.storeInstr g la b off.toNat (.st g sz la b d off))
def execStBC (la : LineOp) (b d : Reg) (s : State) : Result := .next (s.storeInstr .always la b 0 (.stBC la b d))
def execStHC (la : LineOp) (b d : Reg) (s : State) : Result := .next (s.storeInstr .always la b 0 (.stHC la b d))
def execStWC (la : LineOp) (b d : Reg) (s : State) : Result := .next (s.storeInstr .always la b 0 (.stWC la b d))
def execStDC (la : LineOp) (b d : Reg) (s : State) : Result := .next (s.storeInstr .always la b 0 (.stDC la b d))
/-- `lde` (R133). -/
def execLde (g : Guard) (t : ElTy) (d : Reg) (la : LineOp) (b : Reg) (off : BitVec 7) (s : State) : Result :=
  .next (s.loadInstr g la b off.toNat (.lde g t d la b off))
/-- `ste` (R133). -/
def execSte (g : Guard) (t : ElTy) (la : LineOp) (b d : Reg) (off : BitVec 7) (s : State) : Result :=
  .next (s.storeInstr g la b off.toNat (.ste g t la b d off))
/-- `atom` (R137, R138). -/
def execAtom (g : Guard) (op : AtomOp) (d : Reg) (la : LineOp) (b c : Reg) (s : State) : Result :=
  .next (s.unitInstr (.atom g op d la b c))
/-- `red` (R140). -/
def execRed (g : Guard) (op : RedOp) (la : LineOp) (b d : Reg) (s : State) : Result :=
  .next (s.unitInstr (.red g op la b d))
/-- `sig` (R189). -/
def execSig (g : Guard) (t : NatTy) (la : LineOp) (b d : Reg) (s : State) : Result :=
  .next (s.unitInstr (.sig g t la b d))

/-! Replies. -/

/-- A delivery to a register: the bank when the lane was in its handler at issue (R282). -/
def Slot.deliver (t : Slot) (inBank : Bool) (r : Nat) (v : W32) (bad : Bool) : Slot :=
  if inBank && decide (240 ≤ r) && decide (r < 248) then
    { t with bank := t.bank.put r v, bankPoison := if bad then t.bankPoison.put r true else t.bankPoison.del r }
  else { t with regs := t.regs.put r v, poison := if bad then t.poison.put r true else t.poison.del r }

/-- The bytes of an answer from outside as a line. -/
def lineOfBytes (l : List Byte) : Line := (l.zipIdx).foldl (fun (a : Line) b => a.setByte b.2 b.1) 0
/-- They as a number, little-endian. -/
def numOfBytes (l : List Byte) : Nat := l.foldr (fun b a => b.toNat + 256 * a) 0

namespace State

/-- What an answer from a peer or the host means for the registers; none is a refusal or a loss: poison (R251, R256). -/
def outerResult (r : Req) (answer : Option (List Byte)) : List (Nat × Nat × W32 × Bool) :=
  match r.kind with
  | .fill _ => match answer with
    | some l => carry (lineOfBytes l) 0
    | none => carry 0 (-1)
  | .read lanes inst _ =>
    let whole := (answer.map lineOfBytes).getD 0
    let bad : Nibbles := if answer.isSome then 0 else -1
    -- the host's answer begins at the address of the request (R256)
    let l : Line := if r.dest = .host then whole <<< (8 * (r.pa % 128)) else whole
    lanes.flatMap fun x => (accessLoad (accessOf inst) l bad x.2.1 x.2.2).map fun e => (x.1, e.1, e.2.1, e.2.2)
  | .engRead _ _ => match answer with
    | some l => carry (lineOfBytes l) 0
    | none => carry 0 (-1)
  | .sigw _ _ _ _ => if answer.isSome then [] else [(0, 0, 0, true)]
  | .atom n op inst words =>
    -- the old values of the words, in the order in which the request names them
    let olds := answer.getD []
    (words.zipIdx).flatMap fun w =>
      let x := BitVec.ofNat 64 (numOfBytes ((olds.drop (n * w.2)).take n))
      (combineAtom op x w.1.2).2.flatMap fun l => returnRegs l.1 n (atomDest inst) l.2 answer.isNone
  | _ => []

/-- Another run of the same store to the host is still awaited (R256). -/
def runsLeft (s : State) (r : Req) (o : Nat × Cls × Nat) : Bool :=
  r.dest == .host && (match r.kind with
    | .write _ _ => true
    | _ => false) && s.reqs.any fun q => q.id != r.id && q.core == r.core && q.ops.contains o
/-- The reply of a request is delivered: registers are written, with poison marked (R300, R357), and the counts
complete (R28), of a store to the host in several runs with the last. What its lanes no longer count is discarded. -/
def deliver (s : State) (r : Req) : State :=
  let s1 := r.result.foldl (fun u e =>
    let counted := r.ops.any fun o => o.1 == e.1 && (u.slot r.core o.1).counts o.2.1 o.2.2
    if counted && !r.dropped then u.onSlot r.core e.1 fun t => t.deliver (r.masked.contains e.1) e.2.1 e.2.2.1 e.2.2.2
    else u) s
  let s2 := r.ops.foldl (fun u o => if r.dropped || s.runsLeft r o then u else u.completeOp r.core r.counted o) s1
  s2.dropReq r.id

/-- A `sigw` that was met lets its lane go on; a poisoned word, or a refusal, parks it (R190, R251, R357). After "not met" the
core sends the request again, a new one, 256 cycles later (R228). -/
def sigwReply (s : State) (r : Req) (slot : Nat) : State :=
  let s1 := s.dropReq r.id
  match (s.slot r.core slot).hold with
  | .sigw id va =>
    if id = r.id then
      let s2 := s1.onSlot r.core slot fun t => { t with hold := .free }
      if r.ok then s2.onSlot r.core slot fun t => t.goto (pcAdd t.pc 12)
      else if !r.result.isEmpty then s2.takeTrap r.core slot { cause := .poison, acc := 5, val := BitVec.ofNat 64 va }
      else
        let q : Req := { r with id := s.nextId, stage := .resend (s.clock + 256), seq := 0, via := none, arrives := 0 }
        { (s1.onSlot r.core slot fun t => { t with hold := .sigw q.id va }) with reqs := s1.reqs ++ [q], nextId := s.nextId + 1 }
    else s1
  | _ => s1

end State

end Sys2Proof.Machine
end

