-- ==== Sys2Proof/Machine/Team.lean ====
section
/-! DEFINITION. Teams: membership, phases and their collectives (R155 to R162). -/

namespace Sys2Proof.Machine

/-- XOP, OP and TY of a collective as one number: the key of a phase (R157). -/
def phaseKey : Instr → Nat
  | .tred _ op _ _ _ => 0xCA + 1024 * op.op.toNat + 16384 * op.ty.toNat
  | .tbcast _ _ _ _ _ => 0xCB
  | _ => 0xC9
/-- The slots that a mask of a crew names (R158). -/
def named (crew : Nat) (mask : W32) : List Nat :=
  ((List.range 32).filter fun j => mask.getLsbD j).map fun j => 32 * crew + j

namespace State

/-- Runs f in each active lane with no poisoned source; a lane whose guard fails steps past (R93, R300). -/
def eachActive (s : State) (g : Guard) (srcs : List Nat) (f : State → Nat → Nat → State) : State :=
  s.eachLane fun u c n =>
    if (u.slot c n).guard g then
      match (u.slot c n).firstPoison srcs with
      | some r => u.takeTrap c n (poisonTrap r)
      | none => f u c n
    else u.advance c n

def team (s : State) (c k : Nat) : Option Team := AMap.find? (s.core c).teams k
def setTeam (s : State) (c k : Nat) (t : Team) : State := s.onCore c fun x => { x with teams := x.teams.put k t }

/-- What a participant receives when its phase completes (R158 to R160). -/
def phaseResult (p : Phase) (whole : Bool) (total : W64) (a : Arrival) (t : Slot) : Slot :=
  match a.inst with
  | .tbar _ pd _ _ => t.setPred pd (a.same && whole)
  | .tred _ op d _ _ =>
    let v := if a.same then total else a.value
    if op.cnt = 2 then t.setPair d.toNat v else t.setReg d.toNat (v.setWidth 32)
  | .tbcast _ d _ _ _ =>
    let v := if a.same then (match p.arrived.find? fun b => b.slot == a.sel && b.same with
      | some b => b.value
      | none => a.value)
      else a.value
    t.setReg d.toNat (v.setWidth 32)
  | _ => t
/-- The combination of the matching participants of a `tred` in ascending slot number (R159). -/
def phaseTotal (p : Phase) : W64 :=
  let mine := (List.range Config.slots).filterMap fun n => p.arrived.find? fun a => a.slot == n && a.same
  match mine with
  | [] => 0
  | a :: l => match a.inst with
    | .tred _ op _ _ _ => l.foldl (fun x b => op.combine x b.value) a.value
    | _ => 0
/-- A phase completes when every slot of its expected set has arrived (R157): results are delivered, and the
participants go on in the next cycle. -/
def phaseCheck (s : State) (c k : Nat) : State :=
  match s.team c k with
  | none => s
  | some t => match t.phase with
    | none => s
    | some p =>
      if p.expected.all fun n => p.arrived.any fun a => a.slot == n then
        let whole := p.masks.all fun m => (named m.1 m.2).all p.throughout.contains
        let total := phaseTotal p
        p.arrived.foldl (fun u a => u.onSlot c a.slot fun x =>
          { ((phaseResult p whole total a x).goto (pcAdd x.pc a.len)) with hold := .free, notBefore := s.clock + 1 })
          (s.setTeam c k { t with phase := none })
      else s

/-- A slot stops being a member (R156): an open phase no longer expects it, and may complete; the team ends with its
last member (R155). -/
def leaveTeam (s : State) (c k n : Nat) : State :=
  match s.team c k with
  | none => s
  | some t =>
    let members := t.members.filter fun m => m != n
    if members.isEmpty then s.onCore c fun x => { x with teams := x.teams.del k }
    else
      let phase := t.phase.map fun p => { p with throughout := p.throughout.filter fun m => m != n,
                                                 expected := p.expected.filter fun m => m != n }
      (s.setTeam c k { t with members := members, phase := phase }).phaseCheck c k
/-- It leaves every team (R23). -/
def leaveTeams (s : State) (c n : Nat) : State := ((s.core c).teamsOf n).foldl (fun u k => u.leaveTeam c k n) s

/-- `join` in one lane (R155, R156). -/
def joinLane (p : PredNo) (b : OpB) (s : State) (c n : Nat) : State :=
  let t := s.slot c n
  let k := (t.b32 b).toNat
  let s1 (v : Bool) (u : State) : State := (u.onSlot c n fun x => x.setPred p v).advance c n
  if k > 63 then s1 false s
  else match s.team c k with
    | none => s1 true (s.setTeam c k { bind := t.bind, members := [n], phase := none })
    | some x =>
      if x.bind ≠ t.bind then s1 false s
      else if x.members.contains n then s1 true s
      else s1 true (s.setTeam c k { x with members := x.members ++ [n] })
/-- `leave` in one lane. -/
def leaveLane (p : PredNo) (b : OpB) (s : State) (c n : Nat) : State :=
  let k := ((s.slot c n).b32 b).toNat
  let was := decide (k ≤ 63) && (match s.team c k with
    | some t => t.members.contains n
    | none => false)
  let s1 := if was then s.leaveTeam c k n else s
  (s1.onSlot c n fun x => x.setPred p was).advance c n

/-- The operands of a collective in a lane: team, mask, value, selected slot. DEDUCED: the mask of one that is no
`tbar` is full, log entry 39. -/
def collArgs (t : Slot) : Instr → Nat × W32 × W64 × Nat
  | .tbar _ _ a b => ((t.b32 b).toNat, t.reg a.toNat, 0, 0)
  | .tred _ op _ a b => ((t.b32 b).toNat, -1, if op.cnt = 2 then t.pair a.toNat else (t.reg a.toNat).setWidth 64, 0)
  | .tbcast _ _ a b cc => ((t.b32 b).toNat, -1, (t.reg a.toNat).setWidth 64, (t.reg cc.toNat).toNat % 2048)
  | _ => (64, 0, 0, 0)
/-- Whether a lane at a collective takes part: a member, with its own bit set in its mask (R157, R158). -/
def collJoins (s : State) (c n : Nat) (inst : Instr) : Bool :=
  let a := collArgs (s.slot c n) inst
  decide (a.1 ≤ 63) && (match s.team c a.1 with
    | some t => t.members.contains n
    | none => false) && a.2.1.getLsbD (laneOf n)
/-- Whether a member must wait for the phase in progress to end: it joined after the phase opened (R156). -/
def collLate (s : State) (c n : Nat) (inst : Instr) : Bool :=
  match s.team c (collArgs (s.slot c n) inst).1 with
  | some t => match t.phase with
    | some p => !p.throughout.contains n
    | none => false
  | none => false

/-- The arrival of a lane (R157): it opens a phase or joins the open one, and waits in the instruction. -/
def arrive (s : State) (c n : Nat) (inst : Instr) (len : Nat) : State :=
  let a := collArgs (s.slot c n) inst
  let k := a.1
  match s.team c k with
  | none => s
  | some t =>
    let p : Phase := t.phase.getD { key := phaseKey inst, throughout := t.members, expected := t.members, arrived := [],
                                    masks := [] }
    let crew := crewOf n
    let first := (AMap.find? p.masks crew).isNone
    let gone (m : Nat) : Bool := first && crewOf m == crew && !a.2.1.getLsbD (laneOf m)
    let q : Phase := { p with
      masks := if first then p.masks.put crew a.2.1 else p.masks
      expected := p.expected.filter fun m => !gone m
      arrived := p.arrived ++ [{ slot := n, same := phaseKey inst == p.key, inst := inst, value := a.2.2.1, sel := a.2.2.2,
                                 len := len }] }
    ((s.setTeam c k { t with phase := some q }).onSlot c n fun x => { x with hold := .team k }).phaseCheck c k
/-- A collective in one lane. A lane that takes no part goes on: a non-member's `tbar` writes false (R157, R158). One
that may not arrive yet stays at the instruction. -/
def collLane (inst : Instr) (s : State) (c n : Nat) : State :=
  let t := s.slot c n
  let a := collArgs t inst
  let member := decide (a.1 ≤ 63) && (match s.team c a.1 with
    | some x => x.members.contains n
    | none => false)
  if !member then
    (match inst with
      | .tbar _ p _ _ => s.onSlot c n fun x => x.setPred p false
      | _ => s).advance c n
  else if !a.2.1.getLsbD (laneOf n) then s.advance c n
  else if s.collLate c n inst then s
  else s.arrive c n inst s.bundle.len

end State

/-- `join` (R156). -/
def execJoin (g : Guard) (p : PredNo) (b : OpB) (s : State) : Result :=
  .next (s.eachActive g (b.srcs false) (State.joinLane p b))
/-- `leave` (R156). -/
def execLeave (g : Guard) (p : PredNo) (b : OpB) (s : State) : Result :=
  .next (s.eachActive g (b.srcs false) (State.leaveLane p b))
/-- `tbar` (R158). -/
def execTbar (g : Guard) (p : PredNo) (a : Reg) (b : OpB) (s : State) : Result :=
  .next (s.eachActive g (a.toNat :: b.srcs false) (State.collLane (.tbar g p a b)))
/-- `tred` (R159). -/
def execTred (g : Guard) (op : TredOp) (d a : Reg) (b : OpB) (s : State) : Result :=
  .next (s.eachActive g (regsOf (op.cnt == 2) a ++ b.srcs false) (State.collLane (.tred g op d a b)))
/-- `tbcast` (R160). -/
def execTbcast (g : Guard) (d a : Reg) (b : OpB) (c : Reg) (s : State) : Result :=
  .next (s.eachActive g (a.toNat :: c.toNat :: b.srcs false) (State.collLane (.tbcast g d a b c)))

end Sys2Proof.Machine
end

