-- ==== Sys2Proof/Machine/Control.lean ====
section
/-! DEFINITION. Transfers of control (R146 to R148), the end of an item (R152, R275), and the state in which a slot is
filled (R44). -/

namespace Sys2Proof.Machine

/-- A PC-relative target: the object stays (R147). -/
def pcRel (pc off : W32) : W32 := pc.extractLsb' 24 8 ++ (pc.extractLsb' 0 24 + off.setWidth 24)

namespace State

/-- A transfer to a register's code reference, with or without the link: bits 1:0 not zero are detail TARGET (R85). -/
def transferLane (a : Reg) (link : Bool) (s : State) (c n : Nat) : State :=
  let t := s.slot c n
  let v := t.reg a.toNat
  if v.extractLsb' 0 2 ≠ 0 then s.takeTrap c n (illegalTrap .target)
  else
    let next := pcAdd t.pc s.bundle.len
    s.setSlot c n ((if link then t.setReg 253 next else t).goto v)
/-- A PC-relative transfer. -/
def relativeLane (off : W32) (link : Bool) (s : State) (c n : Nat) : State :=
  let t := s.slot c n
  let next := pcAdd t.pc s.bundle.len
  s.setSlot c n ((if link then t.setReg 253 next else t).goto (pcRel t.pc off))
/-- A call of an import (R148, R304). DEDUCED: a valid entry whose code reference has bits 1:0 not zero is called like any
other, log entry 60. -/
def importLane (entry : BitVec 12) (s : State) (c n : Nat) : State :=
  let t := s.slot c n
  match s.importEntry c (s.bindOf c n).ctx entry.toNat with
  | .ok v => s.setSlot c n ((t.setReg 253 (pcAdd t.pc s.bundle.len)).goto v)
  | .invalid => s.takeTrap c n (illegalTrap .target)
  | .poisoned => s.takeTrap c n { cause := .poison, val := BitVec.ofNat 64 entry.toNat }

/-- A write-back or delivery whose lowest lane a slot is, not yet passed to a launch counter. -/
def ownsBack (c n : Nat) (r : Req) : Bool :=
  r.core == c && neverHeld r.kind && r.counted.isNone && r.lanes.head? == some n
/-- A request with a counted operation of the slot. -/
def ownsOp (c n : Nat) (r : Req) : Bool := r.core == c && r.ops.any fun o => o.1 == n && o.2.1 != .o
/-- What an exiting slot leaves to its bind's launch counter (R152, R275): its operations that have not completed, and
the write-backs of bundles whose lowest lane it is. -/
def passCounts (s : State) (c n : Nat) : State :=
  let t := s.slot c n
  let b := t.bind
  let left := ([Cls.h, Cls.c, Cls.m, Cls.s].map fun k => (t.ops k).countP fun o => !o.done).foldl (· + ·) 0
  let back := s.reqs.countP (ownsBack c n)
  let s1 := { s with reqs := s.reqs.map fun r => if ownsBack c n r || ownsOp c n r then { r with counted := some b } else r }
  s1.onCore c fun k => k.onBind b fun x => { x with counter := x.counter + BitVec.ofNat 32 (left + back) }
/-- A slot that becomes vacant (R20, R152): its registers and what its last trap saved keep their contents, and nothing of its work
is left. -/
def vacate (t : Slot) : Slot :=
  { t with
    occupied := false, opsO := [], opsH := [], opsC := [], opsM := [], opsS := [], hold := .free, masked := false,
    retry := false, stay := none, recent := [], seam := none, parker := false, openPark := none }
/-- Every slot of a bind is vacant. -/
def allVacant (k : Core) (e : Nat) : Bool := !((k.bind e).slotList.any fun n => (k.slots.get Slot.reset n).occupied)
/-- A running bind whose items are exhausted and whose slots are all vacant drains (R269). -/
def drainSpent (s : State) (c e : Nat) : State :=
  let b := (s.core c).bind e
  if b.state = .running ∧ b.exh = true ∧ allVacant (s.core c) e = true then
    s.onCore c fun k => k.onBind e fun x => { x with state := .draining }
  else s
/-- The slot becomes vacant (R152 steps 2 to 4): registers, `%tcmp` and line registers keep their contents. -/
def retire (s : State) (c n : Nat) : State :=
  let s1 := ((s.passCounts c n).leaveTeams c n).onCore c fun k =>
    { k with halts := k.halts.map fun h => { h with members := h.members.filter fun m => m.1 != n } }
  (s1.onSlot c n vacate).drainSpent c (s.slot c n).bind
/-- R30: O is 0 and every value-returning H access has completed. -/
def mayRetire (t : Slot) : Bool := t.opsO.isEmpty && !(t.opsH.any fun o => o.returns && !o.done)
/-- `exit` in one lane: in a handler it ends as `rte.exit` does. -/
def exitLane (s : State) (c n : Nat) : State :=
  let s1 := (s.onSlot c n fun t => { t with masked := false, retry := false, parker := false, hold := .exiting }).endHalts c n
  if mayRetire (s1.slot c n) then s1.retire c n else s1

/-- A slot receives an item (R44, R271). -/
def fillSlot (s : State) (c b n : Nat) (item : W32) : State :=
  let k := (s.core c).bind b
  s.onSlot c n fun t =>
    let u : Slot := { t with
      occupied := true, bind := b, item := item, fill := s.clock, preds := 0, opsO := [], opsH := [], opsC := [],
      opsM := [], opsS := [], masked := false, retry := false, hold := .free, notBefore := s.clock + 1, stay := none,
      recent := [], seam := none, parker := false, openPark := none, used := true, pc := if t.used then k.refill else k.entry }
    u.setReg 0 item
/-- A slot at the bind of a launch: its registers, its bank and what else R44 gives a first fill. -/
def Slot.atBind (b : Nat) : Slot := { Slot.reset with bind := b }

end State

/-- `bra` (R147). -/
def execBra (g : Guard) (off : W32) (s : State) : Result := .next (s.eachActive g [] (State.relativeLane off false))
/-- `call`, PC-relative (R147). -/
def execCall (g : Guard) (off : W32) (s : State) : Result := .next (s.eachActive g [] (State.relativeLane off true))
/-- `call` of an import (R147, R148). -/
def execCallImport (g : Guard) (entry : BitVec 12) (s : State) : Result :=
  .next (s.eachActive g [] (State.importLane entry))
/-- `callx` (R147). DESIGN CHOICE: in `callx`, `jmpx` and `ret` a poisoned register traps with POISON before bits 1:0 of its value
are looked at, log entry 83. -/
def execCallx (g : Guard) (a : Reg) (s : State) : Result := .next (s.eachActive g [a.toNat] (State.transferLane a true))
/-- `jmpx` (R147). -/
def execJmpx (g : Guard) (a : Reg) (s : State) : Result := .next (s.eachActive g [a.toNat] (State.transferLane a false))
/-- `ret` (R147). -/
def execRet (g : Guard) (a : Reg) (s : State) : Result := .next (s.eachActive g [a.toNat] (State.transferLane a false))
def execRetC (a : Reg) (s : State) : Result := .next (s.eachActive .always [a.toNat] (State.transferLane a false))
/-- `exit` (R152). -/
def execExit (g : Guard) (s : State) : Result := .next (s.eachActive g [] State.exitLane)
def execExitC (s : State) : Result := .next (s.eachActive .always [] State.exitLane)
/-- `EXIT_RETIRE` (R152): an exiting slot whose waits are met becomes vacant. -/
def execExitRetire (c n : Nat) (s : State) : Result :=
  if (s.slot c n).hold = .exiting ∧ State.mayRetire (s.slot c n) = true then .next (s.retire c n) else .next s

end Sys2Proof.Machine
end

