-- ==== Sys2Proof/Machine/Cross.lean ====
section
/-! DEFINITION. Cross-lane instructions and their width units (R163 to R171). -/

namespace Sys2Proof.Machine

/-- The lane of a slot in its width unit, `%lane` (R31, R163); `width` is the bind's WIDTH. -/
def unitLaneOf (width : BitVec 2) (n : Nat) : Nat :=
  if width = 1 then laneOf n % 16 else if width = 3 then laneOf n + 32 * (crewOf n % 2) else laneOf n
/-- Lanes of a unit. -/
def unitSize (width : BitVec 2) : Nat := if width = 1 then 16 else if width = 3 then 64 else 32
/-- The slot at lane j of the unit of a slot. -/
def unitSlot (width : BitVec 2) (n j : Nat) : Nat := n - unitLaneOf width n + j
/-- A mask register, or a pair in a unit of 64 lanes (R165). -/
def Slot.setMask (t : Slot) (width : BitVec 2) (d : Reg) (v : W64) : Slot :=
  if width = 3 then t.setPair d.toNat v else t.setReg d.toNat (v.setWidth 32)

namespace State

/-- The width of the bundle's bind. -/
def bundleWidth (s : State) : BitVec 2 := (s.bindOf s.bundle.core (s.bundle.slots.headD 0)).width
/-- A cross-lane instruction: f gives each lane of `active` its change from the state that every lane read. -/
def crossLane (s : State) (act : List Nat × State) (g : Guard) (f : State → List Nat → Nat → Slot → Slot) : State :=
  let c := s.bundle.core
  act.1.foldl (fun u n => (u.onSlot c n fun t => f s act.1 n t).advance c n) (act.2.skipRest g)
/-- A cross-lane instruction whose lanes read one register of their own. -/
def crossReg (s : State) (g : Guard) (a : Reg) (f : State → List Nat → Nat → Slot → Slot) : State :=
  s.crossLane (s.crewLanes g [a.toNat]) g f
/-- The mask of the lanes of a list that satisfy p. -/
def maskOf (width : BitVec 2) (l : List Nat) (p : Nat → Bool) : W64 :=
  l.foldl (fun m n => if p n then m ||| ((1#64) <<< unitLaneOf width n) else m) 0

/-- The lane that `shfl` reads, if it is in the unit (R166). -/
def shflLane (mode : ShflMode) (size l b : Nat) : Option Nat :=
  match mode with
  | .idx => if b < size then some b else none
  | .up => if b ≤ l then some (l - b) else none
  | .down => if l + b < size then some (l + b) else none
  | .xor => if l ^^^ b < size then some (l ^^^ b) else none
/-- The slot and validity of a `shfl` source; outside the unit it is the lane itself. -/
def shflSource (s : State) (mode : ShflMode) (b : OpB) (n : Nat) : Nat × Bool :=
  let w := s.bundleWidth
  match shflLane mode (unitSize w) (unitLaneOf w n) ((s.slot s.bundle.core n).b32 b).toNat with
  | some j => (unitSlot w n j, true)
  | none => (n, false)
/-- `shfl` (R166): a lane whose own operand, or the register it reads in the other lane, is poisoned parks (R300).
DEDUCED: log entry 13. DEDUCED: numbers 240 to 247 name in the source lane what they name there under its own trap mask
(R282), log entry 61. -/
def shflInstr (g : Guard) (mode : ShflMode) (d a : Reg) (b : OpB) (p : PredNo) (s : State) : State :=
  let c := s.bundle.core
  let act := (s.active g).foldl (fun (x : List Nat × State) n =>
    match (s.slot c n).firstPoison (b.srcs false) with
    | some r => (x.1, x.2.takeTrap c n (poisonTrap r))
    | none =>
      if (s.slot c (s.shflSource mode b n).1).poisoned a.toNat then (x.1, x.2.takeTrap c n (poisonTrap a.toNat))
      else (x.1 ++ [n], x.2)) ([], s)
  s.crossLane act g fun u _ n t =>
    let src := u.shflSource mode b n
    (t.setReg d.toNat ((u.slot c src.1).reg a.toNat)).setPred p src.2
/-- The truth of a predicate in a lane of the bundle. -/
def lanePred (s : State) (a : PredNo) (n : Nat) : Bool := (s.slot s.bundle.core n).pred a
/-- The register of a lane of the bundle. -/
def laneReg (s : State) (a : Reg) (n : Nat) : W32 := (s.slot s.bundle.core n).reg a.toNat
/-- `vote` (R167). -/
def voteInstr (g : Guard) (dst : VoteDst) (a : PredNo) (s : State) : State :=
  let w := s.bundleWidth
  s.crossLane (s.active g, s) g fun u l _ t =>
    match dst with
    | .all p => t.setPred p (l.all (u.lanePred a))
    | .any p => t.setPred p (l.any (u.lanePred a))
    | .eq p => t.setPred p (l.all (u.lanePred a) || !(l.any (u.lanePred a)))
    | .ball d => t.setMask w d (maskOf w l (u.lanePred a))
/-- `match` (R168). -/
def matchInstr (g : Guard) (ty : MatchTy) (d a : Reg) (s : State) : State :=
  let w := s.bundleWidth
  s.crossReg g a fun u l n t =>
    t.setMask w d (maskOf w l fun m => m == n || (match ty with
      | .b32 => u.laneReg a m == u.laneReg a n
      | .fp32 => Cond.onFp .eq (fp32.decode (u.laneReg a m).toNat) (fp32.decode (u.laneReg a n).toNat)))
/-- `confl` (R169). -/
def conflInstr (g : Guard) (d a : Reg) (s : State) : State :=
  let w := s.bundleWidth
  s.crossReg g a fun u l n t =>
    t.setMask w d (maskOf w l fun m => decide (m < n) && u.laneReg a m == u.laneReg a n)
/-- The combination of values from left to right; none of an empty list. -/
def combineAll (op : CrOp) : List W32 → Option W32
  | [] => none
  | x :: l => some (l.foldl op.combine x)
/-- `cred` (R170). -/
def credInstr (g : Guard) (op : CrOp) (d a : Reg) (s : State) : State :=
  s.crossReg g a fun u l _ t => t.setReg d.toNat ((combineAll op (l.map (u.laneReg a))).getD 0)
/-- `cscan` (R170). -/
def cscanInstr (g : Guard) (op : CrOp) (excl : Bool) (d a : Reg) (s : State) : State :=
  s.crossReg g a fun u l n t =>
    let upto := (l.filter fun m => if excl then decide (m < n) else decide (m ≤ n)).map (u.laneReg a)
    t.setReg d.toNat ((combineAll op upto).getD op.identity)
/-- `elect` (R171). -/
def electInstr (g : Guard) (p : PredNo) (s : State) : State :=
  s.crossLane (s.active g, s) g fun _ l n t => t.setPred p (l.head? == some n)

end State

/-- `shfl` (R166). -/
def execShfl (g : Guard) (mode : ShflMode) (d a : Reg) (b : OpB) (c : PredNo) (s : State) : Result :=
  .next (s.shflInstr g mode d a b c)
/-- `shfl.idx` in the C form: no validity predicate. -/
def execShflIdxC (d a b : Reg) (s : State) : Result := .next (s.shflInstr .always .idx d a (.reg b) 7)
/-- `shfl.xor` in the C form. -/
def execShflXorC (d a : Reg) (i : BitVec 8) (s : State) : Result :=
  .next (s.shflInstr .always .xor d a (.imm (i.setWidth 32)) 7)
/-- `vote` (R167). -/
def execVote (g : Guard) (dst : VoteDst) (a : PredNo) (s : State) : Result := .next (s.voteInstr g dst a)
def execVoteAnyC (d a : PredNo) (s : State) : Result := .next (s.voteInstr .always (.any d) a)
def execVoteAllC (d a : PredNo) (s : State) : Result := .next (s.voteInstr .always (.all d) a)
def execVoteBallC (d : Reg) (a : PredNo) (s : State) : Result := .next (s.voteInstr .always (.ball d) a)
/-- `match` (R168). -/
def execMatchLanes (g : Guard) (t : MatchTy) (d a : Reg) (s : State) : Result := .next (s.matchInstr g t d a)
/-- `confl` (R169). -/
def execConfl (g : Guard) (d a : Reg) (s : State) : Result := .next (s.conflInstr g d a)
/-- `cred` (R170). -/
def execCred (g : Guard) (op : CrOp) (d a : Reg) (s : State) : Result := .next (s.credInstr g op d a)
/-- `cscan` (R170). -/
def execCscan (g : Guard) (op : CrOp) (excl : Bool) (d a : Reg) (s : State) : Result := .next (s.cscanInstr g op excl d a)
/-- `elect` (R171). -/
def execElect (g : Guard) (p : PredNo) (s : State) : Result := .next (s.electInstr g p)
def execElectC (d : PredNo) (s : State) : Result := .next (s.electInstr .always d)

end Sys2Proof.Machine
end

