-- ==== Sys2Proof/Machine/System.lean ====
section
/-! DEFINITION. System instructions (R188 to R202), instruction fetch (R199, R305), traps and halts as they meet a slot
(R280 to R291). -/

namespace Sys2Proof.Machine

/-! Code. -/

/-- The code line of a code reference. -/
def lineRef (pc : W32) : W32 := pc &&& 0xFFFFFF80
def codeKey (ctx : Nat) (pc : W32) : Nat := ctx * 2 ^ 32 + (lineRef pc).toNat
/-- The object table entry of a code reference, through a core's adopted root (R305). -/
def State.objEntry (s : State) (c ctx : Nat) (pc : W32) : BitVec 128 :=
  BitVec.ofNat 128 (Memory.read s.mem (rootObjt ((s.core c).roots.get 0 ctx) + 16 * (pc.extractLsb' 24 8).toNat) 16)
def objState (e : BitVec 128) : Nat := (e.extractLsb' 0 2).toNat
def objLen (e : BitVec 128) : Nat := (e.extractLsb' 32 24).toNat
def objBase (e : BitVec 128) : Nat := (e.extractLsb' 64 56).toNat

/-- What a demand fetch gives (R199, R279, R305). -/
inductive Fetch where
  | ok (l : CodeLine)
  | trap (t : Trap)
  /-- A hand-over holds a walk read or the line's read (R241). -/
  | held
  deriving DecidableEq, Repr

/-- The FETCH trap with its reason. -/
def fetchTrap (pc : W32) (reason level : Nat) : Trap :=
  { cause := .fetch, acc := 8, level := level, val := BitVec.ofNat 64 (pc.toNat + reason * 2 ^ 32) }

namespace State

/-- A line enters the instruction cache of 64 KiB; where 512 lines are in it, a free choice of them gives way (R3). -/
def cacheLine (s : State) (c key : Nat) (l : CodeLine) : State :=
  let k := s.core c
  if (k.icache.find? key).isSome || decide (k.icache.length < 512) then
    s.setCore c { k with icache := k.icache.put key l }
  else
    let out := (k.icache[s.free.1.toNat % k.icache.length]?.map Prod.fst).getD 0
    s.free.2.setCore c { k with icache := (k.icache.del out).put key l }
/-- A fetch of a code line from its home. DEDUCED: the order of reasons, log entry 12. -/
def fetchHome (s : State) (c b : Nat) (pc : W32) : Fetch × State :=
  let ctx := ((s.core c).bind b).ctx
  let e := s.objEntry c ctx pc
  if (objState e ≠ 1 ∧ objState e ≠ 2) ∨ (pc.extractLsb' 0 24).toNat ≥ objLen e then (.trap (fetchTrap pc 1 0), s)
  else
    let va := lineAddr (objBase e + (pc.extractLsb' 0 24).toNat)
    let t := s.translate c b .dev va
    match t.1 with
    | .fault level => (.trap (fetchTrap pc 2 level), t.2)
    | .noUse => (.trap (fetchTrap pc 4 0), t.2)
    | .held => (.held, t.2)
    | .ok level leaf =>
      let pa := xlatAddr level leaf va
      if !((s.core c).bind b).use.getLsbD (stackOf pa) then (.trap (fetchTrap pc 4 0), t.2)
      else if !pteX leaf then (.trap (fetchTrap pc 3 0), t.2)
      else if (s.arbiter (stackOf pa)).step ≠ 0 then (.held, t.2)
      else
        let u := t.2.agentTraffic (dieOf c) (c % 96) codeLine (lineAddr pa) 0 8
        if s.homePoison pa != 0 then (.trap (fetchTrap pc 5 0), u)
        else
          let l : CodeLine := { data := s.homeLine pa, len := objLen e }
          (.ok l, u.cacheLine c (codeKey ctx pc) l)
/-- A fetch that may take the cached line; `again` says that it has been evicted. -/
def fetchCode (s : State) (c b : Nat) (pc : W32) (again : Bool) : Fetch × State :=
  match AMap.find? (s.core c).icache (codeKey ((s.core c).bind b).ctx pc) with
  | some l =>
    if again then s.fetchHome c b pc
    else if (pc.extractLsb' 0 24).toNat ≥ l.len then (.trap (fetchTrap pc 1 0), s)
    else (.ok l, s)
  | none => s.fetchHome c b pc

/-! Boundaries (R280). -/

/-- A timer trap is due in a slot (R33). -/
def timerDue (s : State) (c n : Nat) : Bool :=
  let t := s.slot c n
  t.tcmp.getLsbD 63 && decide (s.coreClock c % 2 ^ 63 ≥ (t.tcmp.extractLsb' 0 63).toNat)
/-- The slot stands at an instruction boundary where a trap or a stop may be taken. -/
def atBoundary (t : Slot) : Bool :=
  t.occupied && (match t.hold with
    | .free => true
    | .sigw _ _ => true
    | _ => false)
/-- The cycle in which a halt reaches a member (R287). -/
def reach (h : Halt) (member : Nat) : Nat := h.cycle + (if quadOf member = quadOf h.slot then 3 else 5)
/-- A halt has reached the slot, whose stop is still to come. -/
def stopDue (s : State) (c n : Nat) : Bool :=
  (s.core c).halts.any fun h => h.members.any fun m => m.1 == n && m.2 != .stopped && decide (s.clock ≥ reach h n)
/-- A timer trap is taken here and now: not before a stop that is due, not in a handler (R280, R284). -/
def timerHere (s : State) (c n : Nat) : Bool :=
  let t := s.slot c n
  atBoundary t && !t.masked && !(s.stopDue c n) && decide (t.notBefore ≤ s.clock) && s.timerDue c n
/-- What the slot needs next is a fetch: no version of its line stays with it, or its code ends here. -/
def needsFetch (t : Slot) : Bool :=
  match t.stay with
  | some (l, x) => l != lineRef t.pc || decide ((t.pc.extractLsb' 0 24).toNat ≥ x.len)
  | none => true
/-- The slot waits for a fetch alone: nothing that R280 lists before it is due. -/
def fetchWaits (s : State) (c n : Nat) : Bool :=
  let t := s.slot c n
  t.occupied && t.hold == .free && needsFetch t && decide (t.notBefore ≤ s.clock) && !(!t.masked && s.stopDue c n) &&
    !(!t.masked && s.timerDue c n)
/-- Its line is in the instruction cache. -/
def lineCached (s : State) (c n : Nat) : Bool :=
  ((s.core c).icache.find? (codeKey (s.bindOf c n).ctx (s.slot c n).pc)).isSome
/-- The slots that wait for the line that a slot waits for, itself among them (R199). -/
def fetchGroup (s : State) (c n : Nat) : List Nat :=
  (s.core c).slots.keys.filter fun m => s.fetchWaits c m &&
    codeKey (s.bindOf c m).ctx (s.slot c m).pc == codeKey (s.bindOf c n).ctx (s.slot c n).pc

/-- Bytes of the encoding at a code reference in its line. -/
def lineBytes (l : Line) (pc : W32) : List Byte :=
  let o := pc.toNat % 128
  (List.range (128 - o)).map fun i => l.byte (o + i)
/-- The length of the encoding there (R70). -/
def encLength (l : Line) (pc : W32) : Nat := 4 * lengthWords (BitVec.ofNat 32 (l.read (pc.toNat % 128) 4))

/-! Waits, timers, traps, special registers. -/

/-- Whether the counts of a slot are within the thresholds of a `wait` (R188). -/
def waitMet (w : WaitSet) (t : Slot) : Bool :=
  let ok (x : Option (BitVec 6)) (k : Cls) : Bool := match x with
    | some v => decide (t.count k ≤ v.toNat)
    | none => true
  ok w.o .o && ok w.h .h && ok w.c .c && ok w.m .m && ok w.s .s
/-- A lane whose counts are not yet met stays at its `wait`. -/
def waitLane (w : WaitSet) (s : State) (c n : Nat) : State := if waitMet w (s.slot c n) then s.advance c n else s

/-- `sigw` in one lane (R190): its checks in the order of R280, then a read at the home that is met or waits there. -/
def sigwLane (wide : Bool) (la : LineOp) (b d : Reg) (s : State) (c n : Nat) : State :=
  let t := s.slot c n
  let bytes := if wide then 8 else 4
  match s.useWay c n la 5 with
  | .trap e => s.takeTrap c n e
  | .ok _ w =>
    let off := wordOff (t.reg b.toNat) bytes
    if !w.rd then s.takeTrap c n (faultAt .permission 5 w off)
    else if w.kind ≠ .home ∨ w.dest = .host then s.takeTrap c n (faultAt .classFault 5 w off)
    else match t.firstPoison (b.toNat :: regsOf wide d) with
    | some r => s.takeTrap c n (poisonTrap r)
    | none =>
      let least : W64 := if wide then t.pair d.toNat else (t.reg d.toNat).setWidth 64
      let id := s.nextId
      (s.request c [n] (.sigw off bytes n least) w.dest (lineAddr w.pa) []).onSlot c n fun u =>
        { u with hold := .sigw id (w.va + off) }

/-- What a special register holds (R31, R32). -/
def readSReg (s : State) (c n : Nat) (r : SReg) : W64 :=
  let t := s.slot c n
  match r with
  | .item => t.item.setWidth 64
  | .lane => BitVec.ofNat 64 (unitLaneOf (s.bindOf c n).width n)
  | .crew => BitVec.ofNat 64 (crewOf n % 16)
  | .quad => BitVec.ofNat 64 (quadOf n)
  | .core => BitVec.ofNat 64 c
  | .die => BitVec.ofNat 64 (dieOf c)
  | .age => BitVec.ofNat 64 ((t.fill + (Config.clockSkew c).val) % 2 ^ 32)
  | .clock => BitVec.ofNat 64 (s.coreClock c)
  | .tcmp => t.tcmp
  | .team => (s.core c).teamMask n
  | .ostat => t.ostat.setWidth 64
  | .tpc => t.tpc.setWidth 64
  | .tcause => t.tcause.setWidth 64
  | .tval => t.tval
/-- `mfs` in one lane (R197). -/
def mfsLane (d : Reg) (r : SReg) (s : State) (c n : Nat) : State :=
  let v := s.readSReg c n r
  (s.onSlot c n fun t => if r.cnt = 2 then t.setPair d.toNat v else t.setReg d.toNat (v.setWidth 32)).advance c n
/-- The registers that `mts` writes only in the handler (R31). -/
def handlerOnly : SReg → Bool
  | .tpc => true
  | .tcause => true
  | .tval => true
  | _ => false
/-- The bits of a cause record that are not reserved: reserved ones read 0 (R278). -/
def causeBits : W32 := 0x0F0FF1FF
/-- `mts` in one lane (R31): outside the handler `%tpc`, `%tcause` and `%tval` are detail PRIVILEGE, which comes before the
poison of what is read (R280); `%tcmp` is always written, no other register. -/
def mtsLane (r : SReg) (a : Reg) (s : State) (c n : Nat) : State :=
  let t := s.slot c n
  if handlerOnly r && !t.masked then s.takeTrap c n (illegalTrap .privilege)
  else match t.firstPoison (regsOf (r.cnt == 2) a) with
    | some x => s.takeTrap c n (poisonTrap x)
    | none =>
      match r with
      | .tcmp => (s.setSlot c n { t with tcmp := t.pair a.toNat }).advance c n
      | .tpc => (s.setSlot c n { t with tpc := t.reg a.toNat }).advance c n
      | .tcause => (s.setSlot c n { t with tcause := t.reg a.toNat &&& causeBits }).advance c n
      | .tval => (s.setSlot c n { t with tval := t.pair a.toNat }).advance c n
      | _ => s.takeTrap c n (illegalTrap .register)

/-- `rte.skip` in one lane of a handler (R196): the line at `%tpc` is fetched to learn the length; when that fetch fails
the lane takes FETCH there with `%tpc` unchanged. A lane that parked at an `open` is left SKIPPED in that `open`'s register
(R123). -/
def rteSkipLane (s : State) (c n : Nat) : State :=
  let t := s.slot c n
  match s.fetchCode c t.bind t.tpc false with
  | (.held, s1) => s1
  | (.trap e, s1) =>
    let s2 := (s1.onSlot c n fun u => { u with masked := false, parker := false, openPark := none }).endHalts c n
    s2.enterHandler c n t.tpc (e.record) e.val
  | (.ok l, s1) =>
    let s2 := match t.openPark with
      | some lreg => s1.onSlot c n fun u => { u with ostat := ostat lreg 0 3 }
      | none => s1
    s2.rteTo c n (pcAdd t.tpc (encLength l.data t.tpc)) false
/-- An `rte` in one lane: outside a handler it is detail PRIVILEGE (R196). -/
def rteLane (f : State → Nat → Nat → State) (s : State) (c n : Nat) : State :=
  if (s.slot c n).masked then f s c n else s.takeTrap c n (illegalTrap .privilege)

/-- `icinv` in one lane (R200): the line leaves the cache, and every stay in it ends; a reference to no loaded object, one
whose STATE is not live (R305), is ignored. -/
def icinvLane (a : Reg) (s : State) (c n : Nat) : State :=
  let ref := (s.slot c n).reg a.toNat
  let ctx := (s.bindOf c n).ctx
  if objState (s.objEntry c ctx ref) ≠ 1 then s.advance c n
  else
    let s1 := s.onCore c fun k => { k with
      icache := k.icache.del (codeKey ctx ref)
      slots := k.slots.map fun e => (e.1, if (k.bind e.2.bind).ctx = ctx ∧ (e.2.stay.map Prod.fst) = some (lineRef ref)
        then { e.2 with stay := none } else e.2) }
    s1.advance c n
/-- `pfi` in one lane (R201). DEDUCED: it takes no trap, so a lane whose register is poisoned drops its request too, log entry 49.
DESIGN CHOICE: a retiring object's line is still fetched, log entry 87. -/
def pfiLane (a : Reg) (s : State) (c n : Nat) : State :=
  let t := s.slot c n
  if t.poisoned a.toNat then s.advance c n else (s.fetchCode c t.bind (t.reg a.toNat) false).2.advance c n
/-- `hld` in one lane (R198). -/
def hldLane (f : HldField) (d : Reg) (h : BitVec 12) (s : State) (c n : Nat) : State :=
  let r := s.handle c (s.slot c n).bind h.toNat
  let e := r.1.getD 0
  let v : W64 := match f with
    | .base => e.extractLsb' 64 56 |>.setWidth 64
    | .len => e.extractLsb' 128 64
    | .flags => (e.extractLsb' 0 64 &&& ~~~((0xF#64) <<< 16)) ||| ((e.extractLsb' 200 4).setWidth 64 <<< 16)
  (r.2.onSlot c n fun t => t.setPair d.toNat v).advance c n

/-- `stkgive` in one lane (R191, R242): it enters S; the cases that end at once complete there, and pD is written when S
reports them (R28); otherwise a request that the arbiter decides at the end of the cycle. -/
def giveLane (p : PredNo) (a : Reg) (b : OpB) (s : State) (c n : Nat) : State :=
  let t := s.slot c n
  let k := (t.reg a.toNat).toNat
  let die := (t.b32 b).toNat
  let at_ : W64 := (t.reg a.toNat).setWidth 64
  if k > 7 ∨ die > 1 then s.takeTrap c n { cause := .paramInvalid, acc := 0, val := at_ }
  else if !(s.bindOf c n).give.getLsbD k then s.takeTrap c n { cause := .permission, acc := 0, val := at_ }
  else
    let arb := s.arbiter k
    let id := s.nextId
    let s1 := { s with nextId := id + 1 }.onSlot c n fun u => u.enter .s id false
    let done (v : Bool) : State := (s1.onSlot c n fun u => u.complete .s id (some (p, v))).advance c n
    if arb.owner ≠ dieOf c ∨ arb.step ≠ 0 then done false
    else if arb.owner = die then done true
    else
      let r := s1.newReq c [n] (.give k die p) .dev (k * 2 ^ 36) [(n, .s, id)]
      ({ r.2 with reqs := r.2.reqs ++ [{ r.1 with stage := .port }] }).advance c n
/-- `stkown` in one lane (R192): the arbiter of the core's own die answers when S completes, the other die's when asked. -/
def ownLane (p : PredNo) (a : Reg) (s : State) (c n : Nat) : State :=
  let t := s.slot c n
  let k := (t.reg a.toNat).toNat
  if k > 7 then s.takeTrap c n { cause := .paramInvalid, acc := 0, val := (t.reg a.toNat).setWidth 64 }
  else
    let id := s.nextId
    let s1 := { s with nextId := id + 1 }.onSlot c n fun u => u.enter .s id false
    let r := s1.newReq c [n] (.own k p) .dev (k * 2 ^ 36) [(n, .s, id)]
    (r.2.sendReq r.1).advance c n

/-! Halts (R287 to R289). -/

/-- SKID: the member's instructions that issued from cycle P + 1 to the cycle before the halt reached it (R289), and an `xseam` that
issued before and which the halt found running (R213). DEDUCED: log entry 72. -/
def skidOf (h : Halt) (n : Nat) (t : Slot) : Nat :=
  (t.recent.countP fun y => decide (h.cycle < y) && decide (y < reach h n)) + (h.inSeam.contains n).toNat
/-- The stop of a member: its record, and the slot not ready until the halt ends. DESIGN CHOICE: a member that another halt has
stopped already keeps that halt's record, log entry 95. -/
def stopMember (s : State) (c n : Nat) (h : Halt) : State :=
  let s1 := s.onCore c fun k => { k with halts := k.halts.map fun x => if x.slot = h.slot ∧ x.cycle = h.cycle then
    { x with members := x.members.map fun m => if m.1 = n then (n, .stopped) else m } else x }
  s1.onSlot c n fun t =>
    if t.hold = .halted then t
    else { t with hold := .halted, tpc := t.pc, tcause := haltRecord (skidOf h n t), tval := BitVec.ofNat 64 h.slot }
/-- A running seam that issued at or before the cycle P of a halt (R213). -/
def seamBefore (h : Halt) (t : Slot) : Bool := t.hold == .seam && !(t.recent.head?.any fun y => decide (h.cycle < y))
/-- A member whose stop a handler, a park or an instruction in progress puts off. -/
def deferMember (s : State) (c n : Nat) (h : Halt) : State :=
  s.onCore c fun k => { k with halts := k.halts.map fun x => if x.slot = h.slot ∧ x.cycle = h.cycle then
    { x with members := x.members.map (fun m => if m = (n, .running) then (n, .deferred) else m)
             inSeam := if x.members.contains (n, .running) && seamBefore h (s.slot c n) then x.inSeam ++ [n] else x.inSeam } else x }
/-- Whether the stop takes effect now (R287): the slot is ready or held by a wait, pause, `sigw`, counter, home order or
tile state, and not in its handler; a slot stopped by another halt stays stopped. -/
def stopsNow (t : Slot) : Bool :=
  t.occupied && !t.masked && (match t.hold with
    | .free => true
    | .sigw _ _ => true
    | .pause _ _ => true
    | .halted => true
    | _ => false)

end State

/-- `wait` (R188). -/
def execWait (g : Guard) (w : WaitSet) (s : State) : Result := .next (s.eachActive g [] (State.waitLane w))
/-- `sigw` (R190). -/
def execSigw (g : Guard) (t : NatTy) (la : LineOp) (b d : Reg) (s : State) : Result :=
  .next (s.eachActive g [] (State.sigwLane t.wide la b d))
/-- `stkgive` (R191). -/
def execStkgive (g : Guard) (p : PredNo) (a : Reg) (b : OpB) (s : State) : Result :=
  .next (s.eachActive g (a.toNat :: b.srcs false) (State.giveLane p a b))
/-- `stkown` (R192). -/
def execStkown (g : Guard) (p : PredNo) (a : Reg) (s : State) : Result :=
  .next (s.eachActive g [a.toNat] (State.ownLane p a))
/-- `tmset` (R194). -/
def execTmset (g : Guard) (a : Reg) (s : State) : Result := .next (s.eachActive g [] (State.mtsLane .tcmp a))
/-- `trap` (R195). -/
def execTrap (g : Guard) (code : W32) (s : State) : Result :=
  .next (s.eachActive g [] fun u c n => u.takeTrap c n { cause := .userTrap, val := code.setWidth 64 })
/-- `bkpt` (R195). -/
def execBkpt (g : Guard) (tag : W32) (s : State) : Result :=
  .next (s.eachActive g [] fun u c n => u.takeTrap c n { cause := .breakpoint, val := tag.setWidth 64 })
/-- `rte.retry` (R123, R196). -/
def execRteRetry (g : Guard) (s : State) : Result :=
  .next (s.eachActive g [] (State.rteLane fun u c n => u.rteTo c n (u.slot c n).tpc true))
/-- `rte.skip` (R196). -/
def execRteSkip (g : Guard) (s : State) : Result := .next (s.eachActive g [] (State.rteLane State.rteSkipLane))
/-- `rte.exit` (R196). -/
def execRteExit (g : Guard) (s : State) : Result := .next (s.eachActive g [] (State.rteLane State.exitLane))
/-- `mfs` (R197). -/
def execMfs (g : Guard) (d : Reg) (sr : SReg) (s : State) : Result := .next (s.eachActive g [] (State.mfsLane d sr))
def execMfsC (d : Reg) (sr : SReg) (s : State) : Result := .next (s.eachActive .always [] (State.mfsLane d sr))
/-- `mts` (R197). -/
def execMts (g : Guard) (sr : SReg) (a : Reg) (s : State) : Result := .next (s.eachActive g [] (State.mtsLane sr a))
/-- `icinv` (R200). -/
def execIcinv (g : Guard) (a : Reg) (s : State) : Result := .next (s.eachActive g [a.toNat] (State.icinvLane a))
/-- `pfi` (R201). -/
def execPfi (g : Guard) (a : Reg) (s : State) : Result := .next (s.eachActive g [] (State.pfiLane a))
/-- `pause` (R202): not ready for the next 16 cycles; the slot stands at the instruction until then. DEDUCED: log
entry 48. -/
def State.pauseLane (s : State) (c n : Nat) : State :=
  s.onSlot c n fun t => { t with hold := .pause (s.clock + 17) s.bundle.len }
def execPause (g : Guard) (s : State) : Result := .next (s.eachActive g [] State.pauseLane)
def execPauseC (s : State) : Result := .next (s.eachActive .always [] State.pauseLane)
/-- `hld` (R198). -/
def execHld (g : Guard) (f : HldField) (d : Reg) (h : BitVec 12) (s : State) : Result :=
  .next (s.eachActive g [] (State.hldLane f d h))
/-- `ILLEGAL_INSTRUCTION` (R89): every lane of the bundle takes the trap with the detail. -/
def execIllegalInstruction (why : Detail) (s : State) : Result :=
  .next (s.eachLane fun u c n => u.takeTrap c n (illegalTrap why))

/-- `PARKED_HANDLER_ENTRY` (R286): at P + 1 or P + 5 the parked slot enters its handler with the record it wrote, and is ready
in that cycle. -/
def execParkedHandlerEntry (c n : Nat) (s : State) : Result :=
  let t := s.slot c n
  match t.hold with
  | .parked _ enter => if enter ≤ s.clock then .next (s.enterHandlerAt c n s.clock t.tpc t.tcause t.tval) else .next s
  | _ => .next s
/-- `HALT_REACHES_MEMBER` (R287). -/
def execHaltReachesMember (c parked member : Nat) (s : State) : Result :=
  match (s.core c).halts.find? fun h => h.slot == parked && h.members.any fun m => m.1 == member && m.2 != .stopped with
  | none => .next s
  | some h =>
    if State.reach h member > s.clock then .next s
    else if State.stopsNow (s.slot c member) then .next (s.stopMember c member h)
    else .next (s.deferMember c member h)
/-- `TIMER_TRAP` (R33, R285). -/
def execTimerTrap (c n : Nat) (s : State) : Result :=
  if s.timerHere c n then
    let t := s.slot c n
    let s1 := s.setSlot c n { t with tcmp := t.tcmp &&& 0x7FFFFFFFFFFFFFFF, hold := .free }
    .next (s1.takeTrap c n { cause := .timer, val := BitVec.ofNat 64 (s.coreClock c) })
  else .next s
/-- `PAUSE_EXPIRY` (R202). -/
def execPauseExpiry (c n : Nat) (s : State) : Result :=
  let t := s.slot c n
  match t.hold with
  | .pause till len =>
    if till ≤ s.clock then .next (s.setSlot c n { (t.goto (pcAdd t.pc len)) with hold := .free }) else .next s
  | _ => .next s
/-- What a slot that waits for a line gets: its stay in the line, or the FETCH trap. -/
def State.fetchSlot (again : Bool) (s : State) (c n : Nat) : State :=
  let t := s.slot c n
  match s.fetchCode c t.bind t.pc again with
  | (.ok l, s1) => s1.onSlot c n fun u => { u with stay := some (lineRef t.pc, l) }
  | (.trap e, s1) => s1.takeTrap c n e
  | (.held, s1) => s1
/-- `INSTRUCTION_FETCH` (R199, R280): the core fetches the line that a slot's next instruction lies in, at one instant; it
stays with every slot that waits for it, or they take FETCH. -/
def execInstructionFetch (c n : Nat) (again : Bool) (s : State) : Result :=
  if s.fetchWaits c n then
    .next (((s.fetchGroup c n).filter (· != n)).foldl (fun u m => u.fetchSlot false c m) (s.fetchSlot again c n))
  else .next s

end Sys2Proof.Machine
end

