-- ==== Sys2Proof/Machine/Engine.lean ====
section
/-! DEFINITION. Tiles, the copy engine and the matrix macros (R41, R172 to R187): issue checks, effects line by line, and
completion. -/

namespace Sys2Proof.Machine

/-! Tile entries (R41). -/

def tState (e : W64) : Nat := (e.extractLsb' 62 2).toNat
def tFmt (e : W64) : Nat := (e.extractLsb' 58 4).toNat
def tAlloc (e : W64) : Bool := e.getLsbD 57
def tBind (e : W64) : Nat := (e.extractLsb' 54 3).toNat
def tBase (e : W64) : Nat := 512 * (e.extractLsb' 34 10).toNat
/-- Lines per row, and rows. -/
def tLpr (e : W64) : Nat := (e.extractLsb' 24 4).toNat + 1
def tRows (e : W64) : Nat := (e.extractLsb' 8 8).toNat + 1
def tSize (e : W64) : Nat := tRows e * tLpr e * 128
/-- The reserved bits of an entry image (R41). -/
def tReserved : W64 := ((0x3FF#64) <<< 44) ||| ((0x3F#64) <<< 28) ||| ((0xFF#64) <<< 16) ||| 0xFF#64
/-- The entry in another state: 0 empty, 1 filling, 2 ready, 3 draining. -/
def tInState (e : W64) (st : Nat) : W64 := (e &&& 0x3FFFFFFFFFFFFFFF) ||| (BitVec.ofNat 64 st <<< 62)
/-- Whether a bind may name a tile. -/
def Core.owns (k : Core) (b t : Nat) : Bool := tAlloc (k.tile t) && tBind (k.tile t) == b
def Core.freeTile (k : Core) (t : Nat) : Core := { k with tiles := k.tiles.put t (k.tile t &&& 0x3DFFFFFFFFFFFFFF) }
/-- The tiles of a bind that no operation names are freed (R176). -/
def Core.freeIdle (k : Core) (b : Nat) : Core :=
  (List.range 64).foldl (fun (x : Core) t => if x.owns b t && !(x.engine.any fun o => o.tiles.contains t) then x.freeTile t else x) k
def Core.onMacro (k : Core) (m : Nat) (f : Macro → Macro) : Core := { k with macros := k.macros.put m (f (k.macro m)) }
def Core.setTileState (k : Core) (t st : Nat) : Core := { k with tiles := k.tiles.put t (tInState (k.tile t) st) }

/-- An engine trap (R172): ACC 6. -/
def engineTrap (cause : Cause) (v : Nat) : Trap := { cause := cause, acc := 6, val := BitVec.ofNat 64 v }
/-- An address or offset that may be negative, as 64 bits. -/
def engineTrapInt (cause : Cause) (v : Int) : Trap := { cause := cause, acc := 6, val := BitVec.ofInt 64 v }

/-- What the issue of an engine operation comes to in a lane. -/
inductive Issue where
  | trap (t : Trap)
  /-- Not ready: a tile's state, or a walk held by a hand-over. -/
  | hold
  | go (o : EngineOp)
  deriving Repr

namespace State

/-- A quiesce point of a context (R236). -/
def quiet (s : State) (x : Nat) : Bool :=
  s.cores.all fun e => !(e.2.binds.any fun b => b.2.state != .free && b.2.ctx == x)
/-- `n` bytes of scratch from an address. -/
def scratchNum (s : State) (c a n : Nat) : Nat :=
  (List.range n).foldl (fun v i => v + ((s.core c).scratch.get 0 (a + i)).toNat * 256 ^ i) 0
/-- Step 1 of R172: the block's placement, then poison in it. -/
def blockFault (s : State) (c a size : Nat) : Option Trap :=
  if a % size ≠ 0 ∨ a + size > Config.scratchBytes then some (engineTrap .paramInvalid a)
  else ((List.range size).find? fun i => (s.core c).scratchPoison.get false (a + i)).map fun i => engineTrap .poison (a + i)
/-- Step 2: the first tile of a list that the bind may not name. -/
def tileFault (s : State) (c b : Nat) (l : List Nat) : Option Trap :=
  (l.find? fun t => !(s.core c).owns b t).map fun t => engineTrap .tileInvalid t

/-- The issue of an operation in a lane: it enters its counter and proceeds without the slot. -/
def issueOp (s : State) (c n : Nat) (k : Cls) (o : EngineOp) : State :=
  let id := s.nextId
  let s1 := { s with nextId := id + 1 }.onSlot c n fun t => t.enter k id false
  (s1.onCore c fun x => { x with engine := x.engine ++ [{ o with id := id, opId := id, slot := n }] }).advance c n
/-- An operation with nothing filled in. -/
def emptyOp (inst : Instr) (b : Nat) (block : Line) : EngineOp :=
  { id := 0, slot := 0, opId := 0, bind := b, inst := inst, block := block, tiles := [], macros := 0, srcBase := 0,
    dstBase := 0, runs := [], src := [], dst := [], reads := [], asked := [], written := [], began := none }

/-! Order and time of operations (R173, R182, R187). -/

/-- R173: every earlier operation that names one of its tiles or macros has finished; and no macro of it is due for its
self test (R186). -/
def mayRun (s : State) (c : Nat) (o : EngineOp) : Bool :=
  !((s.core c).engine.any fun x => decide (x.id < o.id) && ((x.tiles.any o.tiles.contains) || x.macros &&& o.macros != 0)) &&
    (List.range 16).all fun j => !o.macros.getLsbD j || decide (((s.core c).macro j).count < 64)
/-- Whether an operation is an `mload` or `mma`, which occupies macros. -/
def usesMacros (o : EngineOp) : Bool := o.macros != 0
/-- Whether a named macro is fenced (R186). -/
def namesFenced (k : Core) (o : EngineOp) : Bool := (List.range 16).any fun j => o.macros.getLsbD j && (k.macro j).fenced
/-- The operations on macros that may start now do, in this cycle. -/
def beginOps (s : State) (c : Nat) : State :=
  s.onCore c fun k =>
    let start (o : EngineOp) : EngineOp :=
      if usesMacros o && o.began.isNone && s.mayRun c o then { o with began := some (s.clock, namesFenced k o) } else o
    { k with engine := k.engine.map start }
/-- What an `Issue` does in its lane. -/
def settle (s : State) (c n : Nat) (k : Cls) (i : Issue) (f : Core → Core) : State :=
  match i with
  | .trap t => s.takeTrap c n t
  | .hold => s
  | .go o => ((s.onCore c f).issueOp c n k o).beginOps c

end State

/-! Copy. -/

/-- A dimension record: COUNT, SSTR, DSTR. -/
def dimOf (l : Line) (k : Nat) : Nat × Int × Int :=
  ((l.word (8 + 4 * k)).toNat, (l.word (10 + 4 * k)).toInt, (l.word (11 + 4 * k)).toInt)
/-- Offsets of runs in visiting order: the first record varies fastest (R179). -/
def runOffsets : List (Nat × Int × Int) → List (Int × Int)
  | [] => [(0, 0)]
  | (n, ss, ds) :: l => (runOffsets l).flatMap fun o => (List.range n).map fun (i : Nat) => (o.1 + (i : Int) * ss, o.2 + (i : Int) * ds)

/-- The fields of a copy's block (R178). -/
def copyNdim (l : Line) : Nat := (l.word 0).toNat % 8
def copySk (l : Line) : Bool := (l.word 0).getLsbD 3
def copyDk (l : Line) : Bool := (l.word 0).getLsbD 4
def copyRel (l : Line) : Bool := (l.word 0).getLsbD 5
/-- Tile or handle index of a side. -/
def copySrc (l : Line) : Nat := (l.word 1).toNat % (if copySk l then 64 else 4096)
def copyDst (l : Line) : Nat := (l.word 4).toNat % (if copyDk l then 64 else 4096)
/-- Step 3 of R172 for a copy, but for the conditions of R180. -/
def copyFieldsOk (l : Line) : Bool :=
  let nd := copyNdim l
  let word (i : Nat) : Nat := (l.word i).toNat
  decide (1 ≤ nd) && decide (nd ≤ 6) && decide (word 0 < 64) && (!copyRel l || copySk l) &&
    decide (word 1 < (if copySk l then 64 else 4096)) && decide (word 4 < (if copyDk l then 64 else 4096)) &&
    word 5 == 0 && word 10 == 0 && word 11 == 0 &&
    ((List.range 6).all fun k =>
      if k < nd then decide (1 ≤ word (8 + 4 * k)) && word (9 + 4 * k) == 0
      else word (8 + 4 * k) == 0 && word (9 + 4 * k) == 0 && word (10 + 4 * k) == 0 && word (11 + 4 * k) == 0) &&
    !(copySk l && copyDk l && copySrc l == copyDst l)
/-- The runs' offsets. -/
def copyRuns (l : Line) : List (Int × Int) :=
  let so : Int := (l.read 8 8 : Nat)
  let d0 : Int := (l.read 24 8 : Nat)
  (runOffsets ((List.range (copyNdim l - 1)).map fun k => dimOf l (k + 1))).map fun o => (so + o.1, d0 + o.2)

/-- A side of a copy: a tile's entry, or a handle's index and entry. -/
inductive Side where
  | tile (e : W64)
  | handle (h : Nat) (e : Option (BitVec 256))
  deriving DecidableEq, Repr

/-- The byte address of offset 0: scratch for a tile or a scratch handle, else virtual. -/
def Side.base : Side → Nat
  | .tile e => tBase e
  | .handle _ e => hBase (e.getD 0)

/-- What the check of a byte of a side gives: a trap, a hold, or the way of its line. -/
inductive ByteCheck where
  | trap (t : Trap)
  | held
  | ok (w : Way)
  deriving Repr

/-- What a copy finds of the format tag of a run's side: the tag, no page, or a walk held by a hand-over (R242). -/
inductive RunTag where
  | tag (fmt : Nat)
  | absent
  | held
  deriving DecidableEq, Repr

/-- A scratch place. -/
def scratchWay (a : Nat) : Way :=
  { kind := .scratch, rd := true, wr := true, fmt := 0, atom := true, va := lineAddr a, dest := .dev, pa := lineAddr a,
    sum := false, moved := false }

namespace State

/-- The check of one byte of a side (R119, R179); `known` are the ways of lines already checked. -/
def byteCheck (s : State) (c b : Nat) (known : List Way) (sd : Side) (wr : Bool) (o : Int) : ByteCheck × State :=
  match sd with
  | .tile e =>
    if o < 0 ∨ o ≥ (tSize e : Int) then (.trap (engineTrapInt .bounds (tBase e + o)), s)
    else (.ok (scratchWay (tBase e + o.toNat)), s)
  | .handle h e =>
    match e with
    | none => (.trap (engineTrap .handleInvalid h), s)
    | some x =>
      if !handleOk x then (.trap (engineTrap .handleInvalid h), s)
      else if o < 0 ∨ o ≥ (hLen x : Int) then (.trap (engineTrapInt .bounds o), s)
      else
        let va := (hBase x + o.toNat) % 2 ^ 56
        match known.find? fun w => w.va == lineAddr va with
        | some w => (.ok w, s)
        | none =>
          let r := s.checkLine c b x (!wr) wr (lineAddr va) wr
          match r.1 with
          | .held => (.held, r.2)
          | .bad cause level => (.trap { cause := cause, acc := 6, level := level, val := BitVec.ofNat 64 va }, r.2)
          | .ok l => (.ok l.way, r.2)
/-- The format tag of a side's run (R180): the tile's, or that of the page of the run's first line, whatever rights and class
the page has, which step 6 of R172 checks; none where no page is found; or not known yet. -/
def runTag (s : State) (c b : Nat) (sd : Side) (o : Int) : RunTag × State :=
  match sd with
  | .tile e => (.tag (tFmt e), s)
  | .handle _ none => (.absent, s)
  | .handle _ (some x) =>
    if !handleOk x || decide (o < 0) || decide (o ≥ (hLen x : Int)) then (.absent, s)
    else if hSpace x = 3 then (.tag 0, s)
    else
      let t := s.translate c b (s.spaceOf x) (lineAddr ((hBase x + o.toNat) % 2 ^ 56))
      match t.1 with
      | .ok _ leaf => (.tag (pteFmt leaf).toNat, t.2)
      | .held => (.held, t.2)
      | _ => (.absent, t.2)
/-- The tags of a copy's runs, in visiting order, and how step 3 of R172 stands with them (R180): whether a run has failed, and
whether the walk of a run's first line is held by a hand-over, so that it is not decided yet. -/
def runTags (s : State) (c b : Nat) (ss ds : Side) (l : Line) : List (Int × Int × Nat × Nat) × Bool × Bool × State :=
  let strides := (List.range (copyNdim l)).all fun i => (dimOf l i).2.1 % 128 == 0 && (dimOf l i).2.2 % 128 == 0
  (copyRuns l).foldl (fun (x : List (Int × Int × Nat × Nat) × Bool × Bool × State) (o : Int × Int) =>
    let rs := x.2.2.2.runTag c b ss o.1
    let rd := rs.2.runTag c b ds o.2
    match rs.1, rd.1 with
    | .tag p, .tag q =>
      let ok := p == q || (o.1 % 128 == 0 && o.2 % 128 == 0 && strides)
      (x.1 ++ [(o.1, o.2, p, q)], x.2.1 || !ok, x.2.2.1, rd.2)
    | p, q => (x.1 ++ [(o.1, o.2, 0, 0)], x.2.1, x.2.2.1 || p == .held || q == .held, rd.2)) ([], false, false, s)

end State

/-- The bytes that a run touches on the two sides, in visiting order: offsets, and whether the destination's (R179,
R180). DEDUCED: log entry 47. -/
def runBytes (n : Nat) (r : Int × Int × Nat × Nat) : List (Bool × Int) :=
  let ts := r.2.2.1
  let td := r.2.2.2
  let ns := if ts = td then n else 128 * ((n + elementCount ts - 1) / elementCount ts)
  let nd := if ts = td then n else 128 * ((n + elementCount td - 1) / elementCount td)
  (List.range (max ns nd)).flatMap fun (i : Nat) =>
    (if i < ns then [(false, r.1 + i)] else []) ++ (if i < nd then [(true, r.2.1 + i)] else [])

namespace State

/-- Step 6 of R172: every byte of every run. -/
def checkBytes (s : State) (c b : Nat) (ss ds : Side) (bytes : List (Bool × Int)) :
    (ByteCheck ⊕ (List Way × List Way)) × State :=
  bytes.foldl (fun (a : (ByteCheck ⊕ (List Way × List Way)) × State) x =>
    match a.1 with
    | .inl e => (.inl e, a.2)
    | .inr l =>
      let known := if x.1 then l.2 else l.1
      let r := a.2.byteCheck c b known (if x.1 then ds else ss) x.1 x.2
      match r.1 with
      | .ok w =>
        if known.any fun k => k.va == w.va then (.inr l, r.2)
        else (.inr (if x.1 then (l.1, l.2 ++ [w]) else (l.1 ++ [w], l.2)), r.2)
      | e => (.inl e, r.2)) (.inr ([], []), s)

/-- The issue of a `copy` in a lane (R172, R174, R178 to R180). -/
def copyIssue (s : State) (c n : Nat) (inst : Instr) (a : Nat) : Issue × State :=
  let b := (s.slot c n).bind
  match s.blockFault c a 128 with
  | some t => (.trap t, s)
  | none =>
    let l : Line := BitVec.ofNat 1024 (s.scratchNum c a 128)
    let tiles := (if copySk l then [copySrc l] else []) ++ (if copyDk l then [copyDst l] else [])
    match s.tileFault c b tiles with
    | some t => (.trap t, s)
    | none =>
      if !copyFieldsOk l then (.trap (engineTrap .paramInvalid a), s)
      else
        let k := s.core c
        let hs := if copySk l then (none, s) else s.handle c b (copySrc l)
        let hd := if copyDk l then (none, hs.2) else hs.2.handle c b (copyDst l)
        let ss : Side := if copySk l then .tile (k.tile (copySrc l)) else .handle (copySrc l) hs.1
        let ds : Side := if copyDk l then .tile (k.tile (copyDst l)) else .handle (copyDst l) hd.1
        let (runs, failed, held, u) := hd.2.runTags c b ss ds l
        if failed then (.trap (engineTrap .paramInvalid a), u)
        else if held || (copySk l && tState (k.tile (copySrc l)) != 2) || (copyDk l && tState (k.tile (copyDst l)) != 0) then
          (.hold, u)
        else
          let r := u.checkBytes c b ss ds (runs.flatMap (runBytes (dimOf l 0).1))
          match r.1 with
          | .inl (.trap t) => (.trap t, r.2)
          | .inl _ => (.hold, r.2)
          | .inr w => (.go { emptyOp inst b l with tiles := tiles, srcBase := ss.base, dstBase := ds.base, runs := runs,
                                                   src := w.1, dst := w.2 }, r.2)
/-- `copy` in one lane. -/
def copyLane (a : Reg) (inst : Instr) (s : State) (c n : Nat) : State :=
  let r := s.copyIssue c n inst ((s.slot c n).reg a.toNat).toNat
  r.2.settle c n .c r.1 fun k => match r.1 with
    | .go o =>
      let k1 := if copySk o.block then k.setTileState (copySrc o.block) 3 else k
      if copyDk o.block then k1.setTileState (copyDst o.block) 1 else k1
    | _ => k

end State

/-! Matrix operations. -/

/-- The mask of macros of a list that are fenced or not granted (R182, R184). -/
def fencedMask (k : Core) (granted : BitVec 16) (l : List Nat) : BitVec 16 :=
  l.foldl (fun m j => if !granted.getLsbD j || (k.macro j).fenced then m ||| ((1#16) <<< j) else m) 0
/-- The kind of B that an `mload` of a tile loads, if its format and geometry are one of R182's. -/
def loadKind (e : W64) : Option MacroB :=
  if tFmt e = 1 ∧ tRows e = 256 ∧ tLpr e = 1 then some .lns6
  else if tFmt e = 2 ∧ tRows e = 256 ∧ tLpr e = 1 then some .sparse
  else if tFmt e = 3 ∧ tRows e = 128 ∧ tLpr e = 2 then some .lns12
  else none
/-- The fields of an `mload` block. -/
def loadTile (l : Line) : Nat := (l.byte 0).toNat % 64
def loadMacro (l : Line) : Nat := (l.byte 1).toNat % 16
def loadRel (l : Line) : Bool := (l.byte 2).getLsbD 0

/-- The fields of an `mma` block (R183). -/
def mmaMask (l : Line) : BitVec 16 := l.extractLsb' 0 16
def mmaMacros (l : Line) : List Nat := (List.range 16).filter fun j => (mmaMask l).getLsbD j
def mmaChain (l : Line) : Nat := 2 ^ (l.extractLsb' 16 3).toNat
def mmaAcc (l : Line) : Bool := l.getLsbD 19
def mmaSp (l : Line) : Bool := l.getLsbD 20
def mmaRla (l : Line) : Bool := l.getLsbD 21
def mmaA (l : Line) : Nat := (l.byte 4).toNat % 64
def mmaC (l : Line) : Nat := (l.byte 5).toNat % 64
def mmaPasses (l : Line) : Nat := (l.byte 6).toNat
def mmaRows (l : Line) : Nat := (l.byte 8).toNat + 1
def mmaArow (l : Line) : Nat := (l.byte 9).toNat
def mmaCrow (l : Line) : Nat := (l.byte 10).toNat
def mmaSplits (l : Line) : Nat := (mmaMacros l).length / mmaChain l
/-- A lines per pass. -/
def mmaLpp (fmt : Nat) (sp : Bool) : Nat := if fmt = 1 ∧ sp = false then 1 else 2
/-- The kind of B that the format and SP require (R184). -/
def mmaKind (fmt : Nat) (sp : Bool) : MacroB := if fmt = 1 then (if sp then .sparse else .lns6) else .lns12
/-- The conditions of R184. -/
def mmaOk (k : Core) (l : Line) : Bool :=
  let a := k.tile (mmaA l)
  let x := k.tile (mmaC l)
  let n := (mmaMacros l).length
  let kc := mmaChain l
  l.extractLsb' 22 10 == 0 && (l.byte 4).toNat == mmaA l && (l.byte 5).toNat == mmaC l && l.byte 7 == 0 &&
    ((List.range 53).all fun i => l.byte (11 + i) == 0) && mmaA l != mmaC l &&
    n != 0 && n % kc == 0 && decide (kc ≤ 16) && decide (1 ≤ mmaPasses l) && decide (mmaPasses l ≤ kc) &&
    (tFmt a == 1 || (tFmt a == 3 && !mmaSp l)) &&
    ((mmaMacros l).all fun j => (k.macro j).kind == mmaKind (tFmt a) (mmaSp l)) &&
    decide (tLpr a ≥ mmaPasses l * mmaLpp (tFmt a) (mmaSp l)) && decide (mmaArow l + mmaRows l ≤ tRows a) &&
    tFmt x == 0 && decide (tLpr x ≥ (if tFmt a = 1 then 8 else 4)) &&
    decide (mmaCrow l + mmaSplits l * mmaRows l ≤ tRows x)

namespace State

/-- The issue of an `mload` in a lane (R182). -/
def mloadIssue (s : State) (c n : Nat) (inst : Instr) (a : Nat) : Issue :=
  let b := (s.slot c n).bind
  match s.blockFault c a 64 with
  | some t => .trap t
  | none =>
    let l : Line := BitVec.ofNat 1024 (s.scratchNum c a 64)
    match s.tileFault c b [loadTile l] with
    | some t => .trap t
    | none =>
      let e := (s.core c).tile (loadTile l)
      if (l.byte 0).toNat ≥ 64 ∨ (l.byte 1).toNat ≥ 16 ∨ (l.byte 2).toNat ≥ 2 ∨ l >>> 24 ≠ 0 ∨ loadKind e = none then
        .trap (engineTrap .paramInvalid a)
      else
        let bad := fencedMask (s.core c) ((s.core c).bind b).macros [loadMacro l]
        if bad ≠ 0 then .trap (engineTrap .macroFenced bad.toNat)
        else if tState e ≠ 2 then .hold
        else .go { emptyOp inst b l with tiles := [loadTile l], macros := (1#16) <<< loadMacro l }
/-- `mload` in one lane: the kind of B is set when it issues. -/
def mloadLane (a : Reg) (inst : Instr) (s : State) (c n : Nat) : State :=
  let i := s.mloadIssue c n inst ((s.slot c n).reg a.toNat).toNat
  s.settle c n .m i fun k => match i with
    | .go o => k.onMacro (loadMacro o.block) fun x => { x with kind := (loadKind (k.tile (loadTile o.block))).getD .none }
    | _ => k

/-- The C lines that an `mma` writes. -/
def mmaLines (k : Core) (l : Line) : List Way :=
  let x := k.tile (mmaC l)
  let segs := if tFmt (k.tile (mmaA l)) = 1 then 8 else 4
  (List.range (mmaSplits l * mmaRows l)).flatMap fun r => (List.range segs).map fun g =>
    scratchWay (tBase x + ((mmaCrow l + r) * tLpr x + g) * 128)
/-- The issue of an `mma` in a lane (R184). -/
def mmaIssue (s : State) (c n : Nat) (inst : Instr) (a : Nat) : Issue :=
  let b := (s.slot c n).bind
  match s.blockFault c a 64 with
  | some t => .trap t
  | none =>
    let l : Line := BitVec.ofNat 1024 (s.scratchNum c a 64)
    match s.tileFault c b [mmaA l, mmaC l] with
    | some t => .trap t
    | none =>
      let k := s.core c
      if !mmaOk k l then .trap (engineTrap .paramInvalid a)
      else
        let bad := fencedMask k (k.bind b).macros (mmaMacros l)
        if bad ≠ 0 then .trap (engineTrap .macroFenced bad.toNat)
        else if tState (k.tile (mmaA l)) ≠ 2 ∨ tState (k.tile (mmaC l)) ≠ 2 then .hold
        else .go { emptyOp inst b l with tiles := [mmaA l, mmaC l], macros := mmaMask l, dst := mmaLines k l }
/-- `mma` in one lane. -/
def mmaLane (a : Reg) (inst : Instr) (s : State) (c n : Nat) : State :=
  s.settle c n .m (s.mmaIssue c n inst ((s.slot c n).reg a.toNat).toNat) id

/-- Whether an operation that has issued is a `talloc`. -/
def isTalloc (o : EngineOp) : Bool :=
  match o.inst with
  | .talloc _ _ _ => true
  | _ => false
/-- `talloc` in one lane (R175). Its effect comes after every earlier operation that names the tile (R173), at once when
there is none. DEDUCED: until then a second `talloc` of the tile meets it as allocated, log entry 58. -/
def tallocLane (t : BitVec 6) (a : Reg) (inst : Instr) (s : State) (c n : Nat) : State :=
  let e := (s.slot c n).pair a.toNat
  let b := (s.slot c n).bind
  let earlier := (s.core c).engine.filter fun o => o.tiles.contains t.toNat
  if tAlloc ((s.core c).tile t.toNat) || earlier.any isTalloc then s.takeTrap c n (engineTrap .tileInvalid t.toNat)
  else if tFmt e > 8 then s.takeTrap c n (illegalTrap .reserved)
  else if e &&& tReserved ≠ 0 ∨ tBase e + tSize e > Config.scratchBytes then
    s.takeTrap c n { cause := .paramInvalid, acc := 6, val := e }
  else
    let new : W64 := (e &&& 0x3C3FFFFFFFFFFFFF) ||| ((1#64) <<< 57) ||| (BitVec.ofNat 64 (b % 8) <<< 54)
    let id := s.nextId
    if earlier.isEmpty then
      let s1 := ({ s with nextId := id + 1 }.onCore c fun k => { k with tiles := k.tiles.put t.toNat new }).onSlot c n fun u =>
        (u.enter .m id false).complete .m id
      s1.advance c n
    else s.issueOp c n .m { emptyOp inst b (new.setWidth 1024) with tiles := [t.toNat] }
/-- `tfree` in one lane (R176): held while a copy fills or drains the tile. -/
def tfreeLane (t : BitVec 6) (inst : Instr) (s : State) (c n : Nat) : State :=
  let k := s.core c
  let b := (s.slot c n).bind
  if !k.owns b t.toNat then s.takeTrap c n (engineTrap .tileInvalid t.toNat)
  else if tState (k.tile t.toNat) = 1 ∨ tState (k.tile t.toNat) = 3 then s
  else s.issueOp c n .m { emptyOp inst b 0 with tiles := [t.toNat] }
/-- `tstat` in one lane (R177). -/
def tstatLane (d : Reg) (t : BitVec 6) (s : State) (c n : Nat) : State :=
  let k := s.core c
  let v := if k.owns (s.slot c n).bind t.toNat then k.tile t.toNat else 0
  (s.onSlot c n fun u => u.setPair d.toNat v).advance c n

/-! Progress. -/

def engineOp (s : State) (c id : Nat) : Option EngineOp := (s.core c).engine.find? fun o => o.id == id
def setOp (s : State) (c : Nat) (o : EngineOp) : State :=
  s.onCore c fun k => { k with engine := k.engine.map fun x => if x.id = o.id then o else x }
/-- The cycles for which an operation occupies its macros (R182, R187). -/
def occupies (k : Core) (o : EngineOp) : Nat :=
  match o.inst with
  | .mma _ _ => (if tFmt (k.tile (mmaA o.block)) = 1 then 6 else 12) * mmaRows o.block + 40
  | _ => 512
/-- Whether those cycles are over. -/
def opOver (s : State) (c : Nat) (o : EngineOp) : Bool :=
  match o.began with
  | some (t, _) => decide (t + occupies (s.core c) o ≤ s.clock)
  | none => false
/-- An operation on macros, or a self test, whose cycles are over is still to complete. -/
def engineDue (s : State) (c : Nat) : Bool :=
  ((s.core c).engine.any fun o => usesMacros o && s.opOver c o) ||
    (s.core c).macros.any fun e => decide (64 ≤ e.2.count) && decide (e.2.testAt ≤ s.clock)
/-- R136: the write-backs that its slot started before a `copy` are performed. -/
def backsDone (s : State) (c : Nat) (o : EngineOp) : Bool :=
  match o.inst with
  | .copy _ _ => !(s.reqs.any fun r => neverHeld r.kind && r.core == c && r.lanes.contains o.slot && decide (r.id < o.id) &&
      unperformed r.stage)
  | _ => true
/-- An operation leaves the engine, and its count completes (R28), in its slot or in the launch counter; after an unbind the
tiles that it alone named are freed (R176, R269). -/
def opEnd (s : State) (c : Nat) (k : Cls) (o : EngineOp) : State :=
  (s.completeOp c (some o.bind) (o.slot, k, o.opId)).onCore c fun x =>
    let y : Core := { x with engine := x.engine.filter fun y => y.id != o.id }
    if (x.bind o.bind).unbound then y.freeIdle o.bind else y
/-- The `talloc`s that waited for earlier operations on their tiles take effect (R173). -/
def allocate (s : State) (c : Nat) : State :=
  ((s.core c).engine.filter isTalloc).foldl (fun u o =>
    if u.mayRun c o then
      (u.onCore c fun k => { k with tiles := o.tiles.foldl (fun m t => m.put t (o.block.setWidth 64)) k.tiles }).opEnd c .m o
    else u) s
/-- The end of an operation, and what waited for it. -/
def opDone (s : State) (c : Nat) (k : Cls) (o : EngineOp) : State := ((s.opEnd c k o).allocate c).beginOps c

/-- A byte of a copy's source at a byte address, which wraps at 2^56, with its poison, if its line has been read. -/
def srcByte (o : EngineOp) (a : Nat) : Option (Byte × Bool) :=
  match o.src.findIdx? fun w => w.va == lineAddr (a % 2 ^ 56) with
  | none => none
  | some i => (AMap.find? o.reads i).map fun r => (r.1.byte (a % 128), r.2 &&& nibbleMask (a % 128) 1 != 0)
/-- 128 bytes from a byte address. -/
def srcLine (o : EngineOp) (a : Nat) : Option (Line × Nibbles) :=
  (List.range 128).foldl (fun (x : Option (Line × Nibbles)) i => match x, srcByte o (a + i) with
    | some l, some v => some (l.1.setByte i v.1, if v.2 then l.2 ||| nibbleMask i 1 else l.2)
    | _, _ => none) (some (0, 0))
/-- The nibbles that a source element is decoded from. -/
def convTouch (fmt : Nat) (l : Line) (i : Nat) : Nibbles :=
  (if fmt = 2 then groupNibbles (i / 2) else 0) ||| match storedIndex fmt l i with
  | none => 0
  | some n => elementNibbles fmt n ||| (if (blockEmax fmt).isSome then nibbleMask (n / 16) 1 else 0)
/-- The nibbles of a destination line that depend on element i: its own, or its whole block with the block's header.
DEDUCED: log entry 14. -/
def convSpread (fmt i : Nat) : Nibbles :=
  match blockEmax fmt with
  | none => elementNibbles fmt i
  | some _ =>
    let j := if fmt = 2 then i / 32 else i / 16
    (List.range 16).foldl (fun m k => m ||| elementNibbles fmt (16 * j + k))
      (nibbleMask j 1 ||| (if fmt = 2 then nibbleMask (8 + 3 * j) 3 else 0))
/-- Line k of a converting run (R180): the values of the run that fall in it, re-encoded. -/
def convLine (o : EngineOp) (n : Nat) (r : Int × Int × Nat × Nat) (k : Nat) : Option (Line × Nibbles) :=
  let ns := elementCount r.2.2.1
  let nd := elementCount r.2.2.2
  let s0 := ((o.srcBase : Int) + r.1).toNat
  let vals := (List.range nd).map fun i =>
    let v := nd * k + i
    if v < n then (srcLine o (s0 + 128 * (v / ns))).map fun l =>
      (decodeElement r.2.2.1 l.1 (v % ns), l.2 &&& convTouch r.2.2.1 l.1 (v % ns) != 0)
    else some (Exact.val false ⟨0, 0⟩, false)
  if vals.any Option.isNone then none
  else
    let xs := vals.filterMap id
    some (encodeLine r.2.2.2 (xs.map Prod.fst),
          (xs.zipIdx).foldl (fun m x => if x.1.2 then m ||| convSpread r.2.2.2 x.2 else m) 0)
/-- What a copy writes to a destination line, with mask and poison, if what it needs has been read; a later run's bytes
stand over an earlier one's. Addresses wrap at 2^56 (log entry 10). -/
def copyLine (o : EngineOp) (w : Way) : Option (Line × Nibbles × Nibbles) :=
  let n := (dimOf o.block 0).1
  o.runs.foldl (fun (x : Option (Line × Nibbles × Nibbles)) r =>
    let d0 := ((o.dstBase : Int) + r.2.1).toNat
    let s0 := ((o.srcBase : Int) + r.1).toNat
    let len := if r.2.2.1 = r.2.2.2 then n else 128 * ((n + elementCount r.2.2.2 - 1) / elementCount r.2.2.2)
    (List.range 128).foldl (fun (y : Option (Line × Nibbles × Nibbles)) b =>
      let i := (w.va + b + (2 ^ 56 - d0 % 2 ^ 56)) % 2 ^ 56
      if len ≤ i then y
      else
        let v := if r.2.2.1 = r.2.2.2 then srcByte o (s0 + i)
          else (convLine o n r (i / 128)).map fun l => (l.1.byte (i % 128), l.2 &&& nibbleMask (i % 128) 1 != 0)
        match y, v with
        | some l, some q => some (l.1.setByte b q.1, l.2.1 ||| nibbleMask b 1,
            if q.2 then l.2.2 ||| nibbleMask b 1 else l.2.2 &&& ~~~(nibbleMask b 1))
        | _, _ => none) x) (some (0, 0, 0))

/-- Writes the nibbles of a line in scratch, with poison by byte (R300). -/
def scratchStore (s : State) (c a : Nat) (l : Line) (mask poison : Nibbles) : State :=
  s.onCore c fun k => (List.range 128).foldl (fun q i =>
    if (mask.extractLsb' (2 * i) 2) = 0 then q
    else { q with scratch := q.scratch.put (a + i) (l.byte i),
                  scratchPoison := if (poison.extractLsb' (2 * i) 2) = 0 then q.scratchPoison.del (a + i)
                                   else q.scratchPoison.put (a + i) true }) k

/-- The 128 bytes of scratch at an address, with their poison. -/
def scratchLine (s : State) (c a : Nat) : Line × Nibbles :=
  let i := s.lineImage c (scratchWay a)
  (i.1, i.2.1)
/-- The nibbles of the A lines of one pass from which an element is computed (R65, R66, R300), under its column's B line:
scales and elements, and under sparse B those elements that its codes pick. -/
def mmaTouch (fmt : Nat) (sp : Bool) (b : Line) : Nibbles × Nibbles :=
  let scales := nibbleMask 0 8
  if fmt ≠ 1 then (-1, -1)
  else if !sp then (scales ||| nibbleMask 32 96, 0)
  else (List.range 128).foldl (fun m i => match storedPos b i with
    | none => m
    | some p => if p < 128 then (m.1 ||| elementNibbles 1 p, m.2) else (m.1, m.2 ||| elementNibbles 1 (p - 128))) (scales, scales)
/-- The C line number j of an `mma` (R185): 32 elements, and the nibbles that poison reaches (R300). DESIGN CHOICE: the A rows and
the old C line are read in the event that writes the line, log entry 85. -/
def mmaLine (s : State) (c : Nat) (o : EngineOp) (j : Nat) (fenced : Bool) : Line × Nibbles :=
  let k := s.core c
  let l := o.block
  let a := k.tile (mmaA l)
  let fmt := tFmt a
  let segs := if fmt = 1 then 8 else 4
  let r := j / segs
  let g := r / mmaRows l
  let m := r % mmaRows l
  let old := s.scratchLine c ((o.dst.getD j .empty).pa)
  let lpp := mmaLpp fmt (mmaSp l)
  let aLine (i : Nat) : Line × Nibbles := s.scratchLine c (tBase a + ((mmaArow l + m) * tLpr a + i) * 128)
  let used := (List.range (mmaPasses l)).map fun p => k.macro ((mmaMacros l).getD (g * mmaChain l + p) 0)
  let badMacro := used.any Macro.poisoned
  let badA (n : Nat) : Bool := used.zipIdx.any fun u =>
    let t := mmaTouch fmt (mmaSp l) (u.1.rows.get 0 n)
    (aLine (lpp * u.2)).2 &&& t.1 != 0 || (lpp == 2 && (aLine (lpp * u.2 + 1)).2 &&& t.2 != 0)
  (List.range 32).foldl (fun (x : Line × Nibbles) i =>
    let n := 32 * (j % segs) + i
    if fenced then (x.1.setWord i (BitVec.ofNat 32 fp32.nanCode), x.2)
    else
      let sums := used.zipIdx.map fun u =>
        let p := u.2
        if fmt = 1 then
          (if mmaSp l then passSum (sparsePartial (aLine (2 * p)).1 (aLine (2 * p + 1)).1 (u.1.rows.get 0 n))
           else passSum (densePartial (aLine p).1 (u.1.rows.get 0 n)))
        else passSum (lns12Partial (aLine (2 * p)).1 (aLine (2 * p + 1)).1 (u.1.rows.get 0 (2 * n)) (u.1.rows.get 0 (2 * n + 1)))
      let bad := badMacro || badA n || (mmaAcc l && old.2 &&& nibbleMask (4 * i) 4 != 0)
      (x.1.setWord i (chains (if mmaAcc l then old.1.word i else 0) sums),
       if bad then x.2 ||| nibbleMask (4 * i) 4 else x.2)) (0, 0)

/-- The tile states that a finished `copy` or `mma` moves (R174), with its last write. -/
def lastWrite (s : State) (c : Nat) (o : EngineOp) : State :=
  let l := o.block
  match o.inst with
  | .copy _ _ => s.onCore c fun k =>
      let k1 := if copySk l then k.setTileState (copySrc l) (if copyRel l then 0 else 2) else k
      if copyDk l then k1.setTileState (copyDst l) 2 else k1
  | .mma _ _ => if mmaRla l then s.onCore c fun k => k.setTileState (mmaA l) 0 else s
  | _ => s
/-- Notes a destination line as written. -/
def noteWritten (s : State) (c : Nat) (o : EngineOp) (j : Nat) : State :=
  let o1 := { o with written := o.written ++ [j] }
  let s1 := s.setOp c o1
  if o1.written.length = o.dst.length then s1.lastWrite c o1 else s1
/-- One more operation of the macros that it named: after 64 the self test runs, for 12 cycles (R186). -/
def countMacros (k : Core) (m : BitVec 16) (now : Nat) : Core :=
  (List.range 16).foldl (fun x j => if m.getLsbD j then x.onMacro j fun y => { y with count := y.count + 1, testAt := now + 12 } else x) k
/-- The end of an `mload` or `mma`: it counts for its macros before what waited for them starts. -/
def macroOpDone (s : State) (c : Nat) (o : EngineOp) : State :=
  (s.onCore c fun k => countMacros k o.macros s.clock).opDone c .m o
/-- Whether a named macro was fenced when the operation started (R186). -/
def startedFenced (o : EngineOp) : Bool :=
  match o.began with
  | some (_, f) => f
  | none => false
/-- The requests that write a line of an operation: for the host its pieces (R256), which leave together, so that a copy that stops
leaves no half-written line (R296). -/
def sendEngWrite (s : State) (c id j : Nat) (w : Way) (l : Line × Nibbles × Nibbles) : State :=
  if w.dest = .host then
    let made := (hostPieces l.2.1).foldl (fun (a : List Req × State) p =>
      let r := a.2.newReq c [] (.engWrite id j l.1 (l.2.1 &&& nibbleMask p.1 p.2) l.2.2) .host (lineAddr w.pa + p.1) []
      (a.1 ++ [r.1], r.2)) ([], s)
    (made.2.sendAll made.1).getD { made.2 with reqs := made.2.reqs ++ made.1 }
  else s.request c [] (.engWrite id j l.1 l.2.1 l.2.2) w.dest (lineAddr w.pa) []

end State

/-- `mma` (R183, R184). -/
def execMma (g : Guard) (a : Reg) (s : State) : Result := .next (s.eachActive g [a.toNat] (State.mmaLane a (.mma g a)))
/-- `mload` (R182). -/
def execMload (g : Guard) (a : Reg) (s : State) : Result :=
  .next (s.eachActive g [a.toNat] (State.mloadLane a (.mload g a)))
/-- `talloc` (R175). -/
def execTalloc (g : Guard) (t : BitVec 6) (a : Reg) (s : State) : Result :=
  .next (s.eachActive g (regsOf true a) (State.tallocLane t a (.talloc g t a)))
/-- `tfree` (R176). -/
def execTfree (g : Guard) (t : BitVec 6) (s : State) : Result :=
  .next (s.eachActive g [] (State.tfreeLane t (.tfree g t)))
/-- `tstat` (R177). -/
def execTstat (g : Guard) (d : Reg) (t : BitVec 6) (s : State) : Result := .next (s.eachActive g [] (State.tstatLane d t))
/-- `copy` (R178, R179). -/
def execCopy (g : Guard) (a : Reg) (s : State) : Result := .next (s.eachActive g [a.toNat] (State.copyLane a (.copy g a)))

/-- The request of a line of an engine operation, once it has been asked for and waits to be performed (R226). -/
def State.engineReq (s : State) (c : Nat) (k : ReqKind → Bool) : Option Req :=
  s.reqs.find? fun r => r.core == c && k r.kind && unperformed r.stage && r.dest == .dev
/-- `ENGINE_LINE_READ` (R181): a source line of a copy is read at one instant: in scratch at once; elsewhere the line is
asked for, and read at its home as R141 reads a `sum` line and R131 another. -/
def execEngineLineRead (c id i : Nat) (s : State) : Result :=
  match s.engineOp c id with
  | none => .next s
  | some o =>
    match o.src[i]? with
    | none => .next s
    | some w =>
      if o.asked.contains i then
        match s.engineReq c (· == .engRead id i) with
        | some r =>
          if s.performable r then
            let l := if w.sum then s.foldedLine w.pa else s.homeLine w.pa
            .next (s.performed { r with result := State.carry l (s.homePoison w.pa) })
          else .next s
        | none => .next s
      else if (AMap.find? o.reads i).isSome || !s.mayRun c o || !s.backsDone c o then .next s
      else if w.kind = .scratch then .next (s.setOp c { o with reads := o.reads.put i (s.scratchLine c w.pa) })
      else .next ((s.request c [] (.engRead id i) w.dest (lineAddr w.pa) []).setOp c { o with asked := o.asked ++ [i] })
/-- A request that writes line j of an operation. -/
def writesLine (id j : Nat) : ReqKind → Bool
  | .engWrite o k _ _ _ => o == id && k == j
  | _ => false
/-- An engine's write of a line at its home (R144). -/
def State.performEngWrite (s : State) (c : Nat) (o : EngineOp) (j : Nat) (r : Req) : State :=
  match r.kind with
  | .engWrite _ _ data mask poison => ((s.homeStore r.pa mask poison data).performed r).noteWritten c o j
  | _ => s
/-- `ENGINE_LINE_WRITE` (R144, R181, R185): a destination line is written as one event, once what it needs is read: in
scratch at once, elsewhere when its request is performed. -/
def execEngineLineWrite (c id j : Nat) (s : State) : Result :=
  match s.engineOp c id with
  | none => .next s
  | some o =>
    match o.dst[j]? with
    | none => .next s
    | some w =>
      if o.asked.contains (j + o.src.length) then
        match s.engineReq c (writesLine id j) with
        | some r => if s.performable r then .next (s.performEngWrite c o j r) else .next s
        | none => .next s
      else if o.written.contains j || !s.mayRun c o || !s.backsDone c o then .next s
      else
        match o.inst with
        | .mma _ _ =>
          let l := s.mmaLine c o j (State.startedFenced o)
          .next ((s.scratchStore c w.pa l.1 (-1) l.2).noteWritten c o j)
        | .copy _ _ =>
          match State.copyLine o w with
          | none => .next s
          | some l =>
            if w.kind = .scratch then .next ((s.scratchStore c w.pa l.1 l.2.1 l.2.2).noteWritten c o j)
            else .next ((s.sendEngWrite c id j w l).setOp c { o with asked := o.asked ++ [j + o.src.length] })
        | _ => .next s
/-- `COPY_COMPLETE` (R181): every destination line is written and the tile states have moved; the C count completes. -/
def execCopyComplete (c id : Nat) (s : State) : Result :=
  match s.engineOp c id with
  | some o => match o.inst with
    | .copy _ _ => if o.written.length = o.dst.length then .next (s.opDone c .c o) else .next s
    | _ => .next s
  | none => .next s
/-- `MMA_COMPLETE` (R185 to R187): its lines are written, and the cycles for which it occupies its macros are over. -/
def execMmaComplete (c id : Nat) (s : State) : Result :=
  match s.engineOp c id with
  | some o => match o.inst with
    | .mma _ _ =>
      if o.written.length = o.dst.length ∧ s.opOver c o = true then .next (s.macroOpDone c o) else .next s
    | _ => .next s
  | none => .next s
/-- `MLOAD_COMPLETE` (R182, R186): after its 512 cycles the macro has the B tile's lines, unless it was fenced before the load
started. DESIGN CHOICE: the tile is read as it stands at that moment, log entry 85. -/
def execMloadComplete (c id : Nat) (s : State) : Result :=
  match s.engineOp c id with
  | some o => match o.inst with
    | .mload _ _ =>
      if !s.opOver c o then .next s
      else
        let t := loadTile o.block
        let e := (s.core c).tile t
        let m := loadMacro o.block
        let lines := (List.range (tRows e * tLpr e)).map fun i => s.scratchLine c (tBase e + 128 * i)
        let rows : AMap Line := (lines.zipIdx).map fun x => (x.2, x.1.1)
        let s1 := if State.startedFenced o then s
          else s.onCore c fun k => k.onMacro m fun x => { x with rows := rows, poisoned := lines.any fun y => y.2 != 0 }
        let s2 := if loadRel o.block then s1.onCore c fun k => k.setTileState t 0 else s1
        .next (s2.macroOpDone c o)
    | _ => .next s
  | none => .next s
/-- `TFREE_EFFECT` (R176): after every earlier operation on the tile has finished. -/
def execTfreeEffect (c id : Nat) (s : State) : Result :=
  match s.engineOp c id with
  | some o => match o.inst with
    | .tfree _ t =>
      if s.mayRun c o then
        .next ((s.onCore c fun k => k.freeTile t.toNat).opDone c .m o)
      else .next s
    | _ => .next s
  | none => .next s
/-- The binds of a core that hold a macro. -/
def Core.holders (k : Core) (mac : Nat) : List Nat :=
  (List.range 8).filter fun b => (k.bind b).state != .free && (k.bind b).macros.getLsbD mac
/-- `MACRO_SELF_TEST` (R186): after every 64 operations a product of a fixed pattern, of 12 cycles; a wrong one fences the
macro. -/
def execMacroSelfTest (c mac : Nat) (good : Bool) (s : State) : Result :=
  let m := (s.core c).macro mac
  if m.count < 64 ∨ s.clock < m.testAt then .next s
  else
    let s1 := s.onCore c fun k => k.onMacro mac fun x => { x with
      count := 0, fenced := x.fenced || !good
      fencedIn := if good then x.fencedIn else (k.holders mac).map fun b => (k.bind b).ctx }
    .next ((if good then s1 else s1.tell 2 (16 * c + mac)).beginOps c)
/-- `MACRO_FENCE_CLEAR` (R186): Knanos clears the fence after a passing retest, at a quiesce point. DEDUCED: of the contexts
whose binds held the macro when it was fenced, with no bind of the core holding it, log entry 73. -/
def execMacroFenceClear (c mac : Nat) (s : State) : Result :=
  let k := s.core c
  if (k.macro mac).fenced && (k.holders mac).isEmpty && !(k.engine.any fun o => o.macros.getLsbD mac) &&
      (k.macro mac).fencedIn.all s.quiet then
    .next (s.onCore c fun x => x.onMacro mac fun y => { y with fenced := false, fencedIn := [] })
  else .next s

end Sys2Proof.Machine
end

