-- ==== Sys2Proof/Machine/Elementary.lean ====
section
/-! DEFINITION. The functions of R104, each rounded once from its exact value: quotients and roots exactly, the others
from fixed-point series carried far beyond any FP32 rounding boundary (log entry 3). -/

namespace Sys2Proof.Machine

/-- The integer square root of n, one bit at a time from bit b down. -/
def isqrtFrom : Nat → Nat → Nat → Nat
  | 0, _, r => r
  | b + 1, n, r =>
    let r' := r + 2 ^ b
    isqrtFrom b n (if r' * r' ≤ n then r' else r)
def isqrt (n : Nat) : Nat := isqrtFrom (n.log2 / 2 + 1) n 0

/-- The code of (−1)^neg · (m + θ) · 2^e, 0 ≤ θ < 1, θ > 0 when sticky. -/
def roundSticky (rm : RM) (neg : Bool) (m : Nat) (e : Int) (sticky : Bool) : Nat := fp32.roundMag rm neg m e sticky

/-- 1/A (R104). -/
def frcpCode (rm : RM) (a : Nat) : Nat :=
  match fp32.decode a with
  | .nan => fp32.nanCode
  | .inf n => fp32.signed n 0
  | .val n d =>
    if d.m = 0 then fp32.signed n fp32.infCode
    else
      let m := d.m.natAbs
      roundSticky rm (d.m < 0) (2 ^ 200 / m) (-200 - d.e) (2 ^ 200 % m != 0)

/-- √A. -/
def fsqrtCode (rm : RM) (a : Nat) : Nat :=
  match fp32.decode a with
  | .nan => fp32.nanCode
  | .inf n => if n then fp32.nanCode else fp32.infCode
  | .val n d =>
    if d.m = 0 then fp32.signed n 0
    else if d.m < 0 then fp32.nanCode
    else
      let odd := d.e.emod 2 = 1
      let m := d.m.natAbs * (if odd then 2 else 1) * 2 ^ 100
      let e := (if odd then d.e - 1 else d.e) / 2 - 50
      let r := isqrt m
      roundSticky rm false r e (r * r != m)

/-- 1/√A. -/
def frsqrtCode (rm : RM) (a : Nat) : Nat :=
  match fp32.decode a with
  | .nan => fp32.nanCode
  | .inf n => if n then fp32.nanCode else 0
  | .val n d =>
    if d.m = 0 then fp32.signed n fp32.infCode
    else if d.m < 0 then fp32.nanCode
    else
      let odd := d.e.emod 2 = 1
      let m := d.m.natAbs * (if odd then 2 else 1)
      let e := (if odd then d.e - 1 else d.e) / 2
      let r := isqrt (2 ^ 200 / m)
      roundSticky rm false r (-100 - e) (r * r * m != 2 ^ 200)

/-- Binary places carried by the series. -/
def places : Nat := 640
/-- Binary places of π, enough for the reduction of any FP32 angle. -/
def piPlaces : Nat := 800

/-- Σ t / k!-like series: `n` terms of x^k/k! from term `t` (scaled by 2^places), alternating when `alt`, two factors at
a time when `two`. -/
def expTerms (x : Nat) : Nat → Nat → Nat → Nat
  | 0, _, _ => 0
  | n + 1, k, t => t + expTerms x n (k + 1) (t * x / 2 ^ places / (k + 1))

/-- Alternating series of sine (k odd) and cosine (k even): terms x^k/k!, x^(k+2)/(k+2)!, … -/
def trigTerms (x2 : Nat) : Nat → Nat → Nat → Bool → Int
  | 0, _, _, _ => 0
  | n + 1, k, t, neg =>
    (if neg then -(t : Int) else t) + trigTerms x2 n (k + 2) (t * x2 / 2 ^ places / ((k + 1) * (k + 2))) (!neg)

/-- Σ z^(2j+1)/(2j+1), scaled by 2^p: the series of atanh, and of atan when alternating. -/
def atanTerms (p z2 : Nat) (alt : Bool) : Nat → Nat → Nat → Bool → Int
  | 0, _, _, _ => 0
  | n + 1, k, t, neg =>
    (if neg then -((t / k : Nat) : Int) else (t / k : Nat)) + atanTerms p z2 alt n (k + 2) (t * z2 / 2 ^ p) (alt && !neg)

/-- ln 2 = 2 atanh(1/3), scaled by 2^places. -/
def ln2 : Nat := 2 * (atanTerms places (2 ^ places / 9) false 210 1 (2 ^ places / 3) false).toNat

/-- π by Machin's formula, scaled by 2^piPlaces. -/
def piFixed : Nat :=
  let at5 := atanTerms piPlaces (2 ^ piPlaces / 25) true 180 1 (2 ^ piPlaces / 5) false
  let at239 := atanTerms piPlaces (2 ^ piPlaces / 57121) true 60 1 (2 ^ piPlaces / 239) false
  (16 * at5 - 4 * at239).toNat

/-- 2^A: the fraction's power by the exponential series of f ln 2. -/
def fexp2Code (rm : RM) (a : Nat) : Nat :=
  match fp32.decode a with
  | .nan => fp32.nanCode
  | .inf n => if n then 0 else fp32.infCode
  | .val _ d =>
    if d.e ≥ 0 then
      let i : Int := max (-2000) (min 2000 (d.m * 2 ^ (min d.e.toNat 20)))
      roundSticky rm false 1 i false
    else
      let k := (-d.e).toNat
      let i := d.m / (2 ^ k : Nat)
      let f := (d.m.emod (2 ^ k : Nat)).toNat
      if f = 0 then roundSticky rm false 1 (max (-2000) (min 2000 i)) false
      else
        let x := f * ln2 / 2 ^ k
        let r := expTerms x 140 0 (2 ^ places)
        roundSticky rm false (r / 2 ^ 16) (max (-2000) (min 2000 i) - places + 16) true

/-- log2 A. -/
def flog2Code (rm : RM) (a : Nat) : Nat :=
  match fp32.decode a with
  | .nan => fp32.nanCode
  | .inf n => if n then fp32.nanCode else fp32.infCode
  | .val _ d =>
    if d.m = 0 then fp32.signed true fp32.infCode
    else if d.m < 0 then fp32.nanCode
    else
      let m := d.m.natAbs
      let l := m.log2
      let e : Int := d.e + l
      if m = 2 ^ l then (Exact.ofInt e).round fp32 rm
      else
        let z := (m - 2 ^ l) * 2 ^ places / (m + 2 ^ l)
        let lny := 2 * (atanTerms places (z * z / 2 ^ places) false 210 1 z false).toNat
        let v : Int := e * 2 ^ places + (lny * 2 ^ places / ln2 : Nat)
        let w : Int := v / 2 ^ 32
        if w ≥ 0 then roundSticky rm false w.toNat (-places + 32) true
        else roundSticky rm true (-w - 1).toNat (-places + 32) true

/-- A reduced by multiples of π/2: the quadrant, and the remainder r with |r| ≤ π/4 scaled by 2^places. -/
def reduceAngle (d : Dy) : Nat × Int :=
  let x : Int := if d.e ≥ 0 then d.m * 2 ^ (d.e.toNat + piPlaces) else d.m * 2 ^ (piPlaces - (-d.e).toNat)
  let half : Int := piFixed / 2
  let k := (2 * x + half) / (2 * half)
  ((k.emod 4).toNat, (x - k * half) / 2 ^ (piPlaces - places))

/-- sin and cos of the remainder, scaled by 2^places. -/
def sinFixed (r : Int) : Int :=
  let m := r.natAbs
  let s := trigTerms (m * m / 2 ^ places) 75 1 m false
  if r < 0 then -s else s
def cosFixed (r : Int) : Int :=
  let m := r.natAbs
  trigTerms (m * m / 2 ^ places) 75 0 (2 ^ places) false

/-- Rounds an irrational value known to within the dropped places. -/
def roundFixed (rm : RM) (v : Int) : Nat :=
  let w := v / 2 ^ 24
  if w ≥ 0 then roundSticky rm false w.toNat (-places + 24) true
  else roundSticky rm true (-w - 1).toNat (-places + 24) true

/-- sin A, and cos A, A in radians. -/
def fsinCode (rm : RM) (a : Nat) : Nat :=
  match fp32.decode a with
  | .nan => fp32.nanCode
  | .inf _ => fp32.nanCode
  | .val n d =>
    if d.m = 0 then fp32.signed n 0
    else
      let q := reduceAngle d
      roundFixed rm (match q.1 with
        | 0 => sinFixed q.2
        | 1 => cosFixed q.2
        | 2 => -sinFixed q.2
        | _ => -cosFixed q.2)
def fcosCode (rm : RM) (a : Nat) : Nat :=
  match fp32.decode a with
  | .nan => fp32.nanCode
  | .inf _ => fp32.nanCode
  | .val _ d =>
    if d.m = 0 then 0x3F800000
    else
      let q := reduceAngle d
      roundFixed rm (match q.1 with
        | 0 => cosFixed q.2
        | 1 => -sinFixed q.2
        | 2 => -cosFixed q.2
        | _ => sinFixed q.2)

end Sys2Proof.Machine
end

