-- ==== Sys2Proof/Machine/Fp.lean ====
section
/-! DEFINITION. Floating-point, LNS, conversion and byte instructions (R102 to R117) and their C forms. -/

namespace Sys2Proof.Machine

/-- FP32 codes as register values. -/
def w32 (n : Nat) : W32 := BitVec.ofNat 32 n
/-- `fabs`, `fneg` and `fcsgn` are bit operations on the sign (R103). -/
def signBit (f : Fmt) : Nat := 2 ^ (f.eb + f.mb)
def fabsCode (f : Fmt) (a : Nat) : Nat := a % signBit f
def fnegCode (f : Fmt) (a : Nat) : Nat := if a / signBit f % 2 = 1 then a - signBit f else a + signBit f
def fcsgnCode (f : Fmt) (a b : Nat) : Nat := a % signBit f + b / signBit f % 2 * signBit f
/-- `fclamp` (R103). -/
def fclampCode (f : Fmt) (a b c : Nat) : Nat := fminCode f (fmaxCode f a b) c
/-- `fdot2` (R105). -/
def fdot2Code (f : Fmt) (rm : RM) (a b c : W32) : W32 :=
  let p (k : Nat) : Exact := (f.decode (half a k)).mul (f.decode (half b k))
  w32 ((((p 0).add rm (p 1)).add rm (fp32.decode c.toNat)).round fp32 rm)
/-- The elements of an LNS register (R106). -/
def lnsElems (t : LnTy) (x : W32) : List Nat :=
  match t with
  | .lns6 => (List.range 4).map fun k => x.toNat / 2 ^ (8 * k) % 64
  | .lns12 => (List.range 2).map fun k => x.toNat / 2 ^ (16 * k) % 4096
/-- `lmul` (R107). -/
def lmulWord (t : LnTy) (x y : W32) : W32 :=
  let z := (lnsElems t x).zip (lnsElems t y)
  match t with
  | .lns6 => w32 (z.foldr (fun e acc => lnsNominal 32 16 e.1 e.2 + 256 * acc) 0)
  | .lns12 => w32 (z.foldr (fun e acc => lnsNominal 2048 1024 e.1 e.2 + 65536 * acc) 0)
/-- `lmac` (R108). -/
def lmacWord (t : LnTy) (rm : RM) (a b c : W32) : W32 :=
  let x := ((lnsElems t a).zip (lnsElems t b)).foldl (fun (x : Exact) e =>
    match (match t with
      | .lns6 => lns6Product e.1 e.2
      | .lns12 => lns12Product e.1 e.2) with
    | none => x
    | some d => x.add rm (.val (decide (d.m < 0)) d)) (fp32.decode c.toNat)
  w32 (x.round fp32 rm)

/-- The value of a `cvt` source (R109). -/
def cvtSource (t : CvtTy) (u : Slot) (a : Reg) : Exact :=
  match t with
  | .i32 => .ofInt (u.reg a.toNat).toInt
  | .n32 => .ofInt (u.reg a.toNat).toNat
  | .i64 => .ofInt (u.pair a.toNat).toInt
  | .n64 => .ofInt (u.pair a.toNat).toNat
  | .fp32 => fp32.decode (u.reg a.toNat).toNat
  | .fp16 => fp16.decode (half (u.reg a.toNat) 0)
  | .bf16 => bf16.decode (half (u.reg a.toNat) 0)
/-- Writes a value converted to a `cvt` destination type (R109). -/
def cvtInto (t : CvtTy) (rm : RM) (u : Slot) (d : Reg) (x : Exact) : Slot :=
  match t with
  | .i32 => u.setReg d.toNat (BitVec.ofInt 32 (x.toInt rm (-2 ^ 31) (2 ^ 31 - 1)))
  | .n32 => u.setReg d.toNat (BitVec.ofInt 32 (x.toInt rm 0 (2 ^ 32 - 1)))
  | .i64 => u.setPair d.toNat (BitVec.ofInt 64 (x.toInt rm (-2 ^ 63) (2 ^ 63 - 1)))
  | .n64 => u.setPair d.toNat (BitVec.ofInt 64 (x.toInt rm 0 (2 ^ 64 - 1)))
  | .fp32 => u.setReg d.toNat (w32 (x.round fp32 rm))
  | .fp16 => u.setReg d.toNat (w32 (x.round fp16 rm))
  | .bf16 => u.setReg d.toNat (w32 (x.round bf16 rm))
/-- Whether a `cvt` type names a pair. -/
def cvtWide (t : CvtTy) : Bool := t.cnt == 2
/-- An FP32 value as an eight-bit code (R111), and decoded from one. -/
def pk8Code (t : Pk8Ty) (rm : RM) (x : Nat) : Nat :=
  match t with
  | .fp8e4 => (fp32.decode x).toE4 rm
  | .fp8e5 => (fp32.decode x).toE5 rm
  | .i8 => (BitVec.ofInt 8 ((fp32.decode x).toInt rm (-128) 127)).toNat
  | .n8 => (BitVec.ofInt 8 ((fp32.decode x).toInt rm 0 255)).toNat
def unp8Word (t : Pk8Ty) (c : Nat) : W32 :=
  match t with
  | .fp8e4 => w32 ((decodeE4 c).round fp32 .rne)
  | .fp8e5 => w32 ((fp8e5.decode c).round fp32 .rne)
  | .i8 => (BitVec.ofNat 8 c).signExtend 32
  | .n8 => w32 c
/-- The four-bit conversions (R112). -/
def pk4Code (t : Pk4Ty) (rm : RM) (x : Nat) : Nat :=
  match t with
  | .fp4 => (fp32.decode x).toFp4 rm
  | .i4 => (BitVec.ofInt 4 ((fp32.decode x).toInt rm (-8) 7)).toNat
def unp4Word (t : Pk4Ty) (c : Nat) : W32 :=
  match t with
  | .fp4 => w32 ((fp4.finite c).round fp32 .rne)
  | .i4 => (BitVec.ofNat 4 c).signExtend 32
/-- `lenc` and `ldec` (R113). -/
def lencWord (t : LnTy) (x : W32) : W32 :=
  match t with
  | .lns6 => w32 (lns6Code (fp32.decode x.toNat))
  | .lns12 => w32 (lns12Code (fp32.decode x.toNat))
def ldecWord (t : LnTy) (x : W32) : W32 :=
  match t with
  | .lns6 => w32 ((lns6Value (x.toNat % 64)).round fp32 .rne)
  | .lns12 => w32 ((lns12Value (x.toNat % 4096)).round fp32 .rne)
/-- `scal` (R114). -/
def scalWord (t : ScalTy) (x : W32) : W32 :=
  w32 (scaleByte (match t with
    | .lns6 => 3
    | .fp4 => 2
    | .fp8e4 => 8
    | .fp8e5 => 15) (fp32.decode x.toNat))
/-- Byte k of a number. -/
def byteAt (x k : Nat) : Nat := x / 256 ^ k % 256
/-- Four bytes made one by one. -/
def bytes4 (f : Nat → Nat) : W32 := w32 (f 0 + 256 * f 1 + 65536 * f 2 + 16777216 * f 3)
/-- `perm` (R115): a and c are pairs. -/
def permWord (a : W64) (b : W32) (c : W64) : W32 :=
  bytes4 fun k => byteAt (a.toNat + 2 ^ 64 * c.toNat) (byteAt b.toNat k % 16)
/-- `prmt` (R116). -/
def prmtWord (a b c : W32) : W32 :=
  bytes4 fun k =>
    let n := c.toNat / 16 ^ k % 16
    let v := byteAt (a.toNat + 2 ^ 32 * b.toNat) (n % 8)
    if n ≥ 8 then (if v ≥ 128 then 255 else 0) else v


/-- `fadd` (R103). -/
def execFadd (g : Guard) (t : FTy) (rm : RM) (d a : Reg) (b : OpB) (s : State) : Result :=
  lanes g ([a.toNat] ++ b.srcs false) (fun u => u.setReg d.toNat (fun2 t (fun f x y => faddCode f rm x y) (u.reg a.toNat) (u.b32 b))) s

/-- `fsub` (R103). -/
def execFsub (g : Guard) (t : FTy) (rm : RM) (d a : Reg) (b : OpB) (s : State) : Result :=
  lanes g ([a.toNat] ++ b.srcs false) (fun u => u.setReg d.toNat (fun2 t (fun f x y => fsubCode f rm x y) (u.reg a.toNat) (u.b32 b))) s

/-- `fmul` (R103). -/
def execFmul (g : Guard) (t : FTy) (rm : RM) (d a : Reg) (b : OpB) (s : State) : Result :=
  lanes g ([a.toNat] ++ b.srcs false) (fun u => u.setReg d.toNat (fun2 t (fun f x y => fmulCode f rm x y) (u.reg a.toNat) (u.b32 b))) s

/-- `fma` (R103). -/
def execFma (g : Guard) (t : FTy) (rm : RM) (d a : Reg) (b : OpB) (c : Reg) (s : State) : Result :=
  lanes g ([a.toNat] ++ b.srcs false ++ [c.toNat]) (fun u => u.setReg d.toNat (fun3 t (fun f x y z => fmaCode f rm x y z) (u.reg a.toNat) (u.b32 b) (u.reg c.toNat))) s

/-- `fmin` (R103). -/
def execFmin (g : Guard) (t : FTy) (d a : Reg) (b : OpB) (s : State) : Result :=
  lanes g ([a.toNat] ++ b.srcs false) (fun u => u.setReg d.toNat (fun2 t fminCode (u.reg a.toNat) (u.b32 b))) s

/-- `fmax` (R103). -/
def execFmax (g : Guard) (t : FTy) (d a : Reg) (b : OpB) (s : State) : Result :=
  lanes g ([a.toNat] ++ b.srcs false) (fun u => u.setReg d.toNat (fun2 t fmaxCode (u.reg a.toNat) (u.b32 b))) s

/-- `fabs` (R103). -/
def execFabs (g : Guard) (t : FTy) (d a : Reg) (s : State) : Result :=
  lanes g [a.toNat] (fun u => u.setReg d.toNat (fun1 t fabsCode (u.reg a.toNat))) s

/-- `fneg` (R103). -/
def execFneg (g : Guard) (t : FTy) (d a : Reg) (s : State) : Result :=
  lanes g [a.toNat] (fun u => u.setReg d.toNat (fun1 t fnegCode (u.reg a.toNat))) s

/-- `fcsgn` (R103). -/
def execFcsgn (g : Guard) (t : FTy) (d a : Reg) (b : OpB) (s : State) : Result :=
  lanes g ([a.toNat] ++ b.srcs false) (fun u => u.setReg d.toNat (fun2 t fcsgnCode (u.reg a.toNat) (u.b32 b))) s

/-- `fscale` (R103). -/
def execFscale (g : Guard) (rm : RM) (d a : Reg) (b : OpB) (s : State) : Result :=
  lanes g ([a.toNat] ++ b.srcs false) (fun u => u.setReg d.toNat (w32 (fscaleCode rm (u.reg a.toNat).toNat (u.b32 b).toInt))) s

/-- `fclamp` (R103). -/
def execFclamp (g : Guard) (t : FTy) (_rm : RM) (d a : Reg) (b : OpB) (c : Reg) (s : State) : Result :=
  lanes g ([a.toNat] ++ b.srcs false ++ [c.toNat]) (fun u => u.setReg d.toNat (fun3 t fclampCode (u.reg a.toNat) (u.b32 b) (u.reg c.toNat))) s

/-- `frnd` (R103). -/
def execFrnd (g : Guard) (t : FTy) (rm : RM) (d a : Reg) (s : State) : Result :=
  lanes g [a.toNat] (fun u => u.setReg d.toNat (fun1 t (fun f x => frndCode f rm x) (u.reg a.toNat))) s

/-- `frcp` (R104). -/
def execFrcp (g : Guard) (rm : RM) (d a : Reg) (s : State) : Result :=
  lanes g [a.toNat] (fun u => u.setReg d.toNat (w32 (frcpCode rm (u.reg a.toNat).toNat))) s

/-- `fsqrt` (R104). -/
def execFsqrt (g : Guard) (rm : RM) (d a : Reg) (s : State) : Result :=
  lanes g [a.toNat] (fun u => u.setReg d.toNat (w32 (fsqrtCode rm (u.reg a.toNat).toNat))) s

/-- `frsqrt` (R104). -/
def execFrsqrt (g : Guard) (rm : RM) (d a : Reg) (s : State) : Result :=
  lanes g [a.toNat] (fun u => u.setReg d.toNat (w32 (frsqrtCode rm (u.reg a.toNat).toNat))) s

/-- `fexp2` (R104). -/
def execFexp2 (g : Guard) (rm : RM) (d a : Reg) (s : State) : Result :=
  lanes g [a.toNat] (fun u => u.setReg d.toNat (w32 (fexp2Code rm (u.reg a.toNat).toNat))) s

/-- `flog2` (R104). -/
def execFlog2 (g : Guard) (rm : RM) (d a : Reg) (s : State) : Result :=
  lanes g [a.toNat] (fun u => u.setReg d.toNat (w32 (flog2Code rm (u.reg a.toNat).toNat))) s

/-- `fsin` (R104). -/
def execFsin (g : Guard) (rm : RM) (d a : Reg) (s : State) : Result :=
  lanes g [a.toNat] (fun u => u.setReg d.toNat (w32 (fsinCode rm (u.reg a.toNat).toNat))) s

/-- `fcos` (R104). -/
def execFcos (g : Guard) (rm : RM) (d a : Reg) (s : State) : Result :=
  lanes g [a.toNat] (fun u => u.setReg d.toNat (w32 (fcosCode rm (u.reg a.toNat).toNat))) s

/-- `fdot2` (R105). -/
def execFdot2 (g : Guard) (t : F16Ty) (rm : RM) (d a : Reg) (b : OpB) (c : Reg) (s : State) : Result :=
  lanes g ([a.toNat] ++ b.srcs false ++ [c.toNat]) (fun u => u.setReg d.toNat (fdot2Code t.fmt rm (u.reg a.toNat) (u.b32 b) (u.reg c.toNat))) s

/-- `lmul` (R107). -/
def execLmul (g : Guard) (t : LnTy) (_rm : RM) (d a : Reg) (b : OpB) (s : State) : Result :=
  lanes g ([a.toNat] ++ b.srcs false) (fun u => u.setReg d.toNat (lmulWord t (u.reg a.toNat) (u.b32 b))) s

/-- `lmac` (R108). -/
def execLmac (g : Guard) (t : LnTy) (rm : RM) (d a : Reg) (b : OpB) (c : Reg) (s : State) : Result :=
  lanes g ([a.toNat] ++ b.srcs false ++ [c.toNat]) (fun u => u.setReg d.toNat (lmacWord t rm (u.reg a.toNat) (u.b32 b) (u.reg c.toNat))) s

/-- `cvt` (R109). -/
def execCvt (g : Guard) (dst src : CvtTy) (rm : RM) (d a : Reg) (s : State) : Result :=
  lanes g (regsOf (cvtWide src) a) (fun u => cvtInto dst rm u d (cvtSource src u a)) s

/-- `cvtp` (R110). -/
def execCvtp (g : Guard) (t : F16Ty) (rm : RM) (d a : Reg) (b : OpB) (s : State) : Result :=
  lanes g ([a.toNat] ++ b.srcs false) (fun u => u.setReg d.toNat (w32 ((fp32.decode (u.reg a.toNat).toNat).round t.fmt rm + 65536 * (fp32.decode (u.b32 b).toNat).round t.fmt rm))) s

/-- `cvtx` (R110). -/
def execCvtx (g : Guard) (t : F16Ty) (_rm : RM) (d a : Reg) (k : BitVec 1) (s : State) : Result :=
  lanes g [a.toNat] (fun u => u.setReg d.toNat (w32 ((t.fmt.decode (half (u.reg a.toNat) k.toNat)).round fp32 .rne))) s

/-- `pk8` (R111): the two bytes it does not write are read from vD. -/
def execPk8 (g : Guard) (t : Pk8Ty) (rm : RM) (d a : Reg) (b : OpB) (h : BitVec 1) (s : State) : Result :=
  lanes g ([a.toNat] ++ b.srcs false ++ [d.toNat]) (fun u =>
    let v := pk8Code t rm (u.reg a.toNat).toNat + 256 * pk8Code t rm (u.b32 b).toNat
    u.setReg d.toNat (bytes4 fun k => if k / 2 = h.toNat then byteAt v (k % 2) else byteAt (u.reg d.toNat).toNat k)) s

/-- `unp8` (R111). -/
def execUnp8 (g : Guard) (t : Pk8Ty) (d a : Reg) (k : BitVec 2) (s : State) : Result :=
  lanes g [a.toNat] (fun u => u.setReg d.toNat (unp8Word t (byteAt (u.reg a.toNat).toNat k.toNat))) s

/-- `pk4` (R112): the bytes it does not write are read from vD. -/
def execPk4 (g : Guard) (t : Pk4Ty) (rm : RM) (d a : Reg) (b : OpB) (h : BitVec 2) (s : State) : Result :=
  lanes g ([a.toNat] ++ b.srcs false ++ [d.toNat]) (fun u =>
    let v := pk4Code t rm (u.reg a.toNat).toNat + 16 * pk4Code t rm (u.b32 b).toNat
    u.setReg d.toNat (bytes4 fun k => if k = h.toNat then v else byteAt (u.reg d.toNat).toNat k)) s

/-- `unp4` (R112). -/
def execUnp4 (g : Guard) (t : Pk4Ty) (d a : Reg) (n : BitVec 3) (s : State) : Result :=
  lanes g [a.toNat] (fun u => u.setReg d.toNat (unp4Word t ((u.reg a.toNat).toNat / 16 ^ n.toNat % 16))) s

/-- `lenc` (R113). -/
def execLenc (g : Guard) (t : LnTy) (d a : Reg) (s : State) : Result :=
  lanes g [a.toNat] (fun u => u.setReg d.toNat (lencWord t (u.reg a.toNat))) s

/-- `ldec` (R113). -/
def execLdec (g : Guard) (t : LnTy) (d a : Reg) (s : State) : Result :=
  lanes g [a.toNat] (fun u => u.setReg d.toNat (ldecWord t (u.reg a.toNat))) s

/-- `scal` (R114). -/
def execScal (g : Guard) (t : ScalTy) (d a : Reg) (s : State) : Result :=
  lanes g [a.toNat] (fun u => u.setReg d.toNat (scalWord t (u.reg a.toNat))) s

/-- `perm` (R115). -/
def execPerm (g : Guard) (d a : Reg) (b : OpB) (c : Reg) (s : State) : Result :=
  lanes g (regsOf true a ++ b.srcs false ++ regsOf true c) (fun u => u.setReg d.toNat (permWord (u.pair a.toNat) (u.b32 b) (u.pair c.toNat))) s

/-- `prmt` (R116). -/
def execPrmt (g : Guard) (d a : Reg) (b : OpB) (c : Reg) (s : State) : Result :=
  lanes g ([a.toNat] ++ b.srcs false ++ [c.toNat]) (fun u => u.setReg d.toNat (prmtWord (u.reg a.toNat) (u.b32 b) (u.reg c.toNat))) s

/-- `bswp` (R117). -/
def execBswp (g : Guard) (d a : Reg) (s : State) : Result :=
  lanes g [a.toNat] (fun u => u.setReg d.toNat (bytes4 fun k => byteAt (u.reg a.toNat).toNat (3 - k))) s

/-- `bcmp` (R117). -/
def execBcmp (g : Guard) (c : Cond) (d a : Reg) (b : OpB) (s : State) : Result :=
  lanes g ([a.toNat] ++ b.srcs false) (fun u => u.setReg d.toNat (bytes4 fun k =>
      let x := byteAt (u.reg a.toNat).toNat k
      let y := byteAt (u.b32 b).toNat k
      if c.holds (x == y) (decide (x < y)) then 255 else 0)) s

/-- `bsub` (R117). -/
def execBsub (g : Guard) (d a : Reg) (b : OpB) (s : State) : Result :=
  lanes g ([a.toNat] ++ b.srcs false) (fun u => u.setReg d.toNat (bytes4 fun k => byteAt (u.reg a.toNat).toNat k - byteAt (u.b32 b).toNat k)) s

/-- C-form `fadd.fp32` (R103). -/
def execFaddFp32C (d a b : Reg) (s : State) : Result :=
  lanes .always [a.toNat, b.toNat] (fun u => u.setReg d.toNat (fun2 .fp32 (fun f x y => faddCode f .rne x y) (u.reg a.toNat) (u.reg b.toNat))) s

/-- C-form `fadd.fp32` (R103) with literal. -/
def execFaddFp32Clit (d a : Reg) (lit : W32) (s : State) : Result :=
  lanes .always [a.toNat] (fun u => u.setReg d.toNat (fun2 .fp32 (fun f x y => faddCode f .rne x y) (u.reg a.toNat) lit)) s

/-- C-form `fmul.fp32` (R103). -/
def execFmulFp32C (d a b : Reg) (s : State) : Result :=
  lanes .always [a.toNat, b.toNat] (fun u => u.setReg d.toNat (fun2 .fp32 (fun f x y => fmulCode f .rne x y) (u.reg a.toNat) (u.reg b.toNat))) s

/-- C-form `fmul.fp32` (R103) with literal. -/
def execFmulFp32Clit (d a : Reg) (lit : W32) (s : State) : Result :=
  lanes .always [a.toNat] (fun u => u.setReg d.toNat (fun2 .fp32 (fun f x y => fmulCode f .rne x y) (u.reg a.toNat) lit)) s

/-- C-form `fmin.fp32` (R103). -/
def execFminFp32C (d a b : Reg) (s : State) : Result :=
  lanes .always [a.toNat, b.toNat] (fun u => u.setReg d.toNat (fun2 .fp32 fminCode (u.reg a.toNat) (u.reg b.toNat))) s

/-- C-form `fmin.fp32` (R103) with literal. -/
def execFminFp32Clit (d a : Reg) (lit : W32) (s : State) : Result :=
  lanes .always [a.toNat] (fun u => u.setReg d.toNat (fun2 .fp32 fminCode (u.reg a.toNat) lit)) s

/-- C-form `fmax.fp32` (R103). -/
def execFmaxFp32C (d a b : Reg) (s : State) : Result :=
  lanes .always [a.toNat, b.toNat] (fun u => u.setReg d.toNat (fun2 .fp32 fmaxCode (u.reg a.toNat) (u.reg b.toNat))) s

/-- C-form `fmax.fp32` (R103) with literal. -/
def execFmaxFp32Clit (d a : Reg) (lit : W32) (s : State) : Result :=
  lanes .always [a.toNat] (fun u => u.setReg d.toNat (fun2 .fp32 fmaxCode (u.reg a.toNat) lit)) s

/-- C-form `fadd.bf16` (R103). -/
def execFaddBf16C (d a b : Reg) (s : State) : Result :=
  lanes .always [a.toNat, b.toNat] (fun u => u.setReg d.toNat (fun2 .bf16 (fun f x y => faddCode f .rne x y) (u.reg a.toNat) (u.reg b.toNat))) s

/-- C-form `fadd.bf16` (R103) with literal. -/
def execFaddBf16Clit (d a : Reg) (lit : W32) (s : State) : Result :=
  lanes .always [a.toNat] (fun u => u.setReg d.toNat (fun2 .bf16 (fun f x y => faddCode f .rne x y) (u.reg a.toNat) lit)) s

/-- C-form `fmul.bf16` (R103). -/
def execFmulBf16C (d a b : Reg) (s : State) : Result :=
  lanes .always [a.toNat, b.toNat] (fun u => u.setReg d.toNat (fun2 .bf16 (fun f x y => fmulCode f .rne x y) (u.reg a.toNat) (u.reg b.toNat))) s

/-- C-form `fmul.bf16` (R103) with literal. -/
def execFmulBf16Clit (d a : Reg) (lit : W32) (s : State) : Result :=
  lanes .always [a.toNat] (fun u => u.setReg d.toNat (fun2 .bf16 (fun f x y => fmulCode f .rne x y) (u.reg a.toNat) lit)) s

/-- C-form `cvt.fp32.i32` (R109). -/
def execCvtFp32I32C (d a : Reg) (s : State) : Result :=
  lanes .always [a.toNat] (fun u => cvtInto .fp32 .rne u d (cvtSource .i32 u a)) s

/-- C-form `cvt.i32.fp32` (R109). -/
def execCvtI32Fp32C (d a : Reg) (s : State) : Result :=
  lanes .always [a.toNat] (fun u => cvtInto .i32 .rne u d (cvtSource .fp32 u a)) s

end Sys2Proof.Machine
end

