-- ==== Sys2Proof/Machine/Seam.lean ====
section
/-! DEFINITION. Seams (R204 to R216): the checks and the effect of `seamld`, `xseam`, and each micro-op of a running
seam. -/

namespace Sys2Proof.Machine

/-! The seam table (R205). -/

/-- A control store word and a seam table entry. -/
def Core.cword (k : Core) (i : Nat) : W64 := k.cstore.get 0 i
def Core.seamEntry (k : Core) (ctx n : Nat) : W32 := (k.seams.get [] ctx).get 0 n
def seamBound (e : W32) : Bool := e.getLsbD 31
def seamStart (e : W32) : Nat := (e.extractLsb' 7 13).toNat
def seamCount (e : W32) : Nat := (e.extractLsb' 0 7).toNat
def seamEntryOf (start cnt : Nat) : W32 := BitVec.ofNat 32 (2 ^ 31 + start * 2 ^ 7 + cnt)
/-- Whether two runs of words meet. -/
def meets (a n b m : Nat) : Bool := decide (0 < n) && decide (0 < m) && decide (a < b + m) && decide (b < a + n)
/-- Whether a valid entry of the context names one of the words. -/
def Core.namesWord (k : Core) (ctx start cnt : Nat) : Bool :=
  (List.range 64).any fun n =>
    let e := k.seamEntry ctx n
    seamBound e && meets start cnt (seamStart e) (seamCount e)
/-- Whether a seam of the context runs in the words (R215). -/
def Core.runsIn (k : Core) (ctx start cnt : Nat) : Bool :=
  k.slots.any fun e => match e.2.seam with
    | some r => (k.bind e.2.bind).ctx == ctx && meets start cnt r.start r.words.length
    | none => false

/-! Checks (R211, R216). -/

/-- Cycles that a micro-op is charged (R208). -/
def uopCost : Instr → Nat
  | .uopFadd _ _ _ _ _ => 2
  | .uopFmul _ _ _ _ _ => 2
  | .uopFma _ _ _ _ _ _ => 2
  | .uopCvt _ _ _ _ _ => 2
  | .uopPack _ _ _ _ _ _ => 2
  | .uopShfl _ _ _ _ _ => 2
  | .uopLld _ _ _ _ => 4
  | _ => 1
/-- The body of a loop at word i: its last word. -/
def loopLast : Instr → Option Nat
  | .uopLoop _ _ last _ => some last.toNat
  | _ => none
/-- The loop whose body holds word i: the loop's index, its last word, and its count. -/
def bodyOf (l : List Instr) (i : Nat) : Option (Nat × Nat × Nat) :=
  (l.zipIdx).findSome? fun x => match x.1 with
    | .uopLoop _ _ last cnt => if x.2 < i ∧ i ≤ last.toNat then some (x.2, last.toNat, cnt.toNat) else none
    | _ => none
/-- Whether word i obeys R211 in a seam. -/
def flowOk (l : List Instr) (x : Instr × Nat) : Bool :=
  match x.1 with
  | .uopLoop _ _ last cnt =>
    decide (x.2 < last.toNat) && decide (last.toNat < l.length - 1) && decide (1 ≤ cnt.toNat) && decide (cnt.toNat ≤ 16) &&
      ((l.drop (x.2 + 1)).take (last.toNat - x.2)).all fun i => match i with
        | .uopLoop _ _ _ _ => false
        | .uopShfl _ _ _ _ _ => false
        | .uopEnd => false
        | _ => true
  | .uopBrf _ _ t =>
    decide (x.2 < t.toNat) && decide (t.toNat < l.length) && (match bodyOf l x.2 with
      | some b => decide (t.toNat ≤ b.2.1 + 1)
      | none => (bodyOf l t.toNat).isNone)
  | _ => true
/-- A sum over words, each taken as often as its loop may run it (R216). -/
def charged (l : List Instr) (f : Instr → Nat) : Nat :=
  (l.zipIdx).foldl (fun a x => a + f x.1 * (match bodyOf l x.2 with
    | some b => b.2.2
    | none => 1)) 0
/-- Reasons 0x06 to 0x0A of R216 with the first offending index; none where the image passes. DESIGN CHOICE: R216 gives an
index "where one applies"; none does to CYCLES and LINES, which name sums, and a `loop` that breaks R211 by a micro-op in its
body is itself the offending word, log entry 74. -/
def imageFault (image : List W64) : Option (Nat × Nat) :=
  match image.findIdx? fun w => (decodeUop w).isNone with
  | some i => some (6, i)
  | none =>
    let l := image.filterMap decodeUop
    match l.findIdx? fun u => u == .uopEnd with
    | none => some (7, l.length - 1)
    | some i =>
      if i ≠ l.length - 1 then some (7, i)
      else match (l.zipIdx).find? fun x => !flowOk l x with
        | some x => some (8, x.2)
        | none =>
          if charged l uopCost > 512 then some (9, 0)
          else if charged l (fun u => match u with
              | .uopLld _ _ _ _ => 1
              | _ => 0) > 4 ∨ charged l (fun u => match u with
              | .uopLst _ _ _ _ => 1
              | _ => 0) > 2 then some (10, 0)
          else none
/-- Reasons 0x04 and 0x05: the words lie in the context's region, and no valid entry names one. DESIGN CHOICE: with micro-op
index 0, log entry 74. -/
def placeFault (k : Core) (ctx start cnt : Nat) : Option (Nat × Nat) :=
  match AMap.find? k.regions ctx with
  | none => some (4, 0)
  | some r =>
    if start < 1024 * r ∨ start + cnt > 1024 * r + 1024 then some (4, 0)
    else if k.namesWord ctx start cnt then some (5, 0)
    else none
/-- Writes an image and binds the entry in one event (R215). -/
def Core.loadSeam (k : Core) (ctx n start : Nat) (image : List W64) (bad : List Bool) : Core :=
  let k1 := (image.zipIdx).foldl (fun (x : Core) w => { x with cstore := x.cstore.put (start + w.2) w.1 }) k
  let k2 := (bad.zipIdx).foldl (fun (x : Core) b => { x with
    cstorePoison := if b.1 then x.cstorePoison.put (start + b.2) true else x.cstorePoison.del (start + b.2) }) k1
  { k2 with seams := k2.seams.put ctx ((k2.seams.get [] ctx).put n (seamEntryOf start image.length)) }
/-- Unbinds an entry. -/
def Core.unbindSeam (k : Core) (ctx n : Nat) : Core :=
  { k with seams := k.seams.put ctx ((k.seams.get [] ctx).put n (k.seamEntry ctx n &&& 0x7FFFFFFF)) }

/-- The control word of `seamld` (R215). -/
def sldOp (v : W32) : Nat := (v.extractLsb' 29 3).toNat
def sldCount (v : W32) : Nat := (v.extractLsb' 22 7).toNat
def sldStart (v : W32) : Nat := (v.extractLsb' 9 13).toNat
def sldBind (v : W32) : Nat := (v.extractLsb' 6 3).toNat
def sldSeam (v : W32) : Nat := (v.extractLsb' 0 6).toNat
/-- Whether the control word breaks reason 0x01. -/
def sldOperandBad (v : W32) : Bool :=
  match sldOp v with
  | 0 => sldCount v == 0 || decide (sldCount v > 64)
  | 1 => sldCount v != 0 || sldStart v != 0
  | _ => true

namespace State

/-- The words of a seam image in scratch, with their poison. DEDUCED: poison goes with them, log entry 16. -/
def imageWords (s : State) (c a cnt : Nat) : List (W64 × Bool) :=
  (List.range cnt).map fun i =>
    (BitVec.ofNat 64 (s.scratchNum c (a + 8 * i) 8),
     (List.range 8).any fun j => (s.core c).scratchPoison.get false (a + 8 * i + j))
/-- What refuses a request (R216): reason and index, in the table's order. -/
def seamFault (s : State) (c a : Nat) (v : W32) : Option (Nat × Nat) :=
  let k := s.core c
  if sldOperandBad v then some (1, 0)
  else if (k.bind (sldBind v)).state = .free then some (2, 0)
  else if sldOp v = 1 then none
  else if a % 8 ≠ 0 ∨ a + 8 * sldCount v > Config.scratchBytes then some (3, 0)
  else match placeFault k (k.bind (sldBind v)).ctx (sldStart v) (sldCount v) with
    | some e => some e
    | none => imageFault ((s.imageWords c a (sldCount v)).map Prod.fst)
/-- `seamld` in one lane (R215): its request; one into words that a seam still runs in is held. -/
def seamldLane (a b : Reg) (s : State) (c n : Nat) : State :=
  let t := s.slot c n
  let v := t.reg b.toNat
  let addr := (t.reg a.toNat).toNat
  let ctx := ((s.core c).bind (sldBind v)).ctx
  match s.seamFault c addr v with
  | some e => s.takeTrap c n { cause := .seamResource, val := BitVec.ofNat 64 (e.1 + 256 * e.2) }
  | none =>
    if sldOp v = 1 then (s.onCore c fun k => k.unbindSeam ctx (sldSeam v)).advance c n
    else if (s.core c).runsIn ctx (sldStart v) (sldCount v) then s
    else
      let w := s.imageWords c addr (sldCount v)
      (s.onCore c fun k => k.loadSeam ctx (sldSeam v) (sldStart v) (w.map Prod.fst) (w.map Prod.snd)).advance c n
/-- `seamld` (R203): without privilege every lane of the bundle traps. -/
def seamldInstr (g : Guard) (a b : Reg) (s : State) : State :=
  let c := s.bundle.core
  if (s.bindOf c (s.bundle.slots.headD 0)).priv then s.eachActive g [a.toNat, b.toNat] (seamldLane a b)
  else s.eachLane fun u c n => u.takeTrap c n (illegalTrap .privilege)

/-- A lane's seam begins (R212). -/
def startSeam (s : State) (c n group : Nat) (e : W32) (d a b cc : Reg) (p : PredNo) (imm : W32) : State :=
  let words := (List.range (seamCount e)).map fun i => (s.core c).cword (seamStart e + i)
  s.onSlot c n fun t => { t with
    hold := .seam
    seam := some { group := group, start := seamStart e, words := words, idx := 0, q := List.replicate 8 0,
                   srcs := [t.reg a.toNat, t.reg b.toNat, t.reg cc.toNat, t.reg d.toNat, t.reg (d.toNat + 1), imm],
                   a := a, b := b, c := cc, d := d, p := p, buf := [], lo := none, hi := none, pr := none, loop := none } }
/-- `xseam` (R87, R212): with no binding every lane of the bundle traps. DEDUCED: which registers it reads, log entry
17. -/
def xseamInstr (g : Guard) (n : BitVec 6) (d a b cc : Reg) (p : PredNo) (imm : W32) (s : State) : State :=
  let c := s.bundle.core
  let e := (s.core c).seamEntry (s.bindOf c (s.bundle.slots.headD 0)).ctx n.toNat
  if seamBound e then
    let group := s.nextId
    { s with nextId := group + 1 }.eachActive g [a.toNat, b.toNat, cc.toNat, d.toNat, d.toNat + 1] fun u c l =>
      u.startSeam c l group e d a b cc p imm
  else s.eachLane fun u c l => u.takeTrap c l (illegalTrap .seamUnbound)

end State

/-! A running seam. -/

/-- The value of a source select (R207); `k` is K of the micro-op as it is encoded. -/
def SeamRun.sel (r : SeamRun) (v : Sel) (k : W32) : W32 :=
  if v.toNat < 8 then r.q.getD v.toNat 0
  else if v.toNat < 14 then r.srcs.getD (v.toNat - 8) 0
  else if v = 14 then k
  else 0

namespace State

/-- Values that lanes passed at `shfl` words are kept while a lane of their group runs. -/
def dropGroup (s : State) (c group : Nat) : State :=
  s.onCore c fun k =>
    if k.slots.any fun e => match e.2.seam with
      | some r => r.group == group
      | none => false then k
    else { k with seamVals := k.seamVals.filter fun v => v.1 != group }
/-- The seam of a lane is over. -/
def endSeam (s : State) (c n : Nat) (r : SeamRun) : State :=
  (s.onSlot c n fun t => { t with seam := none, hold := .free }).dropGroup c r.group
/-- An abandoned seam takes its trap at the `xseam`, with no other effect (R213); what its lane passed at `shfl` words is gone
(R210). -/
def abandonSeam (s : State) (c n : Nat) (r : SeamRun) (e : Trap) : State :=
  ((s.onCore c fun k => { k with seamVals := k.seamVals.filter fun v => !(v.1 == r.group && v.2.1 == n) }).endSeam c n r).takeTrap c n e
/-- The running seam goes from word i to another: `shfl` words that it passes give their values, but on the way to `end`, with which
its lane has ended early (R210), and a loop's iteration ends behind its last word (R211). -/
def seamGo (s : State) (c n : Nat) (r : SeamRun) (next : Nat) : State :=
  let passed := if next + 1 = r.words.length then [] else (List.range (next - r.idx)).filterMap fun i =>
    match (r.words[r.idx + i]?).bind decodeUop with
    | some (.uopShfl _ _ a _ k) => some (r.group, n, r.idx + i, r.sel a k)
    | _ => none
  let to_ : Nat × Option (Nat × Nat × Nat) := match r.loop with
    | some (first, last, left) =>
      if next > last then (if left > 1 then (first, some (first, last, left - 1)) else (next, none)) else (next, r.loop)
    | none => (next, none)
  (s.onCore c fun k => { k with seamVals := k.seamVals ++ passed }).onSlot c n fun t =>
    { t with seam := some { r with idx := to_.1, loop := to_.2 } }
/-- A micro-op of each slot in execution that runs a seam: a poisoned word parks the lane (R204). -/
def eachSeam (s : State) (f : State → Nat → Nat → SeamRun → State) : State :=
  s.eachLane fun u c n => match (u.slot c n).seam with
    | none => u
    | some r =>
      if (u.core c).cstorePoison.get false (r.start + r.idx) then
        u.abandonSeam c n r { cause := .poison, val := BitVec.ofNat 64 (r.start + r.idx) }
      else f u c n r
/-- A micro-op that writes a temporary. -/
def seamWrite (s : State) (q : QReg) (f : SeamRun → W32) : State :=
  s.eachSeam fun u c n r => u.seamGo c n { r with q := r.q.set q.toNat (f r) } (r.idx + 1)
/-- A micro-op of two sources. -/
def seamOp (s : State) (q : QReg) (a b : Sel) (k : W32) (f : W32 → W32 → W32) : State :=
  s.seamWrite q fun r => f (r.sel a k) (r.sel b k)

/-- The way of a line micro-op (R209): its trap, or the way. -/
def seamWay (s : State) (c n : Nat) (la : LineOp) (off : Nat) (store : Bool) : Except Trap (Nat × Way) :=
  match s.useWay c n la 7 with
  | .trap e => .error e
  | .ok k w =>
    if !(if store then w.wr else w.rd) then .error (faultAt .permission 7 w off)
    else if w.kind == .home || w.sum then .error (faultAt .classFault 7 w off)
    else .ok (k, w)
/-- `lld` in one lane: the lane's own buffered stores stand over what the line holds. -/
def seamLoad (q : QReg) (a : Sel) (off : BitVec 7) (la : LineOp) (s : State) (c n : Nat) (r : SeamRun) : State :=
  let o := ((r.sel a (lineK off la)).toNat + off.toNat) % 128
  match s.seamWay c n la o false with
  | .error e => s.abandonSeam c n r e
  | .ok (k, w) =>
    let img := s.lineImage c w
    let over_ := (r.buf.filter fun b => b.la.reg == la.reg && b.way == k).foldl (fun (x : Line × Nibbles) b =>
      (x.1.write b.off 4 b.data.toNat, x.2 ||| nibbleMask b.off 4)) (img.1, 0)
    let bad := img.2.1 &&& nibbleMask o 4 &&& ~~~over_.2
    if bad != 0 then s.abandonSeam c n r (faultAt .poison 7 w (firstByte bad o))
    else s.seamGo c n { r with q := r.q.set q.toNat (BitVec.ofNat 32 (over_.1.read o 4)) } (r.idx + 1)
/-- `lst` in one lane: buffered. -/
def seamStore (a b : Sel) (off : BitVec 7) (la : LineOp) (s : State) (c n : Nat) (r : SeamRun) : State :=
  let o := ((r.sel a (lineK off la)).toNat + off.toNat) % 128
  match s.seamWay c n la o true with
  | .error e => s.abandonSeam c n r e
  | .ok (k, _) => s.seamGo c n { r with buf := r.buf ++ [{ la := la, way := k, off := o, data := r.sel b (lineK off la) }] } (r.idx + 1)

/-- The source lane's value at a `shfl` (R210), or the number of the poisoned register that it would be read from; none while it
must still be waited for. DEDUCED: a source lane that has passed the word supplies what it passed, also when its seam has since
committed, log entry 62; the stored V[j] of a lane that runs no seam there is a register that is read (R300),
log entry 76. -/
def seamShflValue (s : State) (c n : Nat) (mode : ShflMode) (a b : Sel) (k : W32) (r : SeamRun) : Option (Except Nat W32) :=
  let size := if (s.bindOf c n).width = 1 then 16 else 32
  let l := laneOf n % size
  match shflLane mode size l (r.sel b k).toNat with
  | none => some (.ok (r.sel a k))
  | some j =>
    let m := n - l + j
    match (s.core c).seamVals.find? fun v => v.1 == r.group && v.2.1 == m && v.2.2.1 == r.idx with
    | some v => some (.ok v.2.2.2)
    | none =>
      let stored : Except Nat W32 :=
        if a.toNat < 8 then .ok 0
        else if a.toNat < 13 then
          let g := [r.a.toNat, r.b.toNat, r.c.toNat, r.d.toNat, r.d.toNat + 1].getD (a.toNat - 8) 0
          if (s.slot c m).poisoned g then .error g else .ok ((s.slot c m).reg g)
        else .ok (r.sel a k)
      match (s.slot c m).seam with
      | some x => if x.group = r.group then (if x.idx = r.idx then some (.ok (x.sel a k)) else none) else some stored
      | none => some stored
/-- `shfl` in one lane: held until its source lane is there; a poisoned register of the source lane parks it (R300). -/
def seamShfl (mode : ShflMode) (q : QReg) (a b : Sel) (k : W32) (s : State) (c n : Nat) (r : SeamRun) : State :=
  match s.seamShflValue c n mode a b k r with
  | none => s
  | some (.error g) => s.abandonSeam c n r (poisonTrap g)
  | some (.ok v) =>
    let s1 := s.onCore c fun x => { x with seamVals := x.seamVals ++ [(r.group, n, r.idx, r.sel a k)] }
    s1.onSlot c n fun t => { t with seam := some { r with q := r.q.set q.toNat v, idx := r.idx + 1 } }

/-- The commit of a lane (R212): its stores' ways are looked at again, then stores, registers and predicate are written
at one instant. -/
def seamCommit (s : State) (c n : Nat) (r : SeamRun) : State :=
  match r.buf.findSome? fun b => match s.seamWay c n b.la b.off true with
    | .error e => some e
    | .ok _ => none with
  | some e => s.abandonSeam c n r e
  | none =>
    let s1 := r.buf.foldl (fun u b => match u.seamWay c n b.la b.off true with
      | .ok (_, w) => u.storeImage c w ((u.lineImage c w).1.write b.off 4 b.data.toNat) (nibbleMask b.off 4)
      | .error _ => u) s
    let s2 := s1.onSlot c n fun t =>
      let t1 := match r.lo with
        | some v => t.setReg r.d.toNat v
        | none => t
      let t2 := match r.hi with
        | some v => t1.setReg (r.d.toNat + 1) v
        | none => t1
      let t3 := match r.pr with
        | some v => t2.setPred r.p v
        | none => t2
      t3.goto (pcAdd t.pc 12)
    s2.endSeam c n r

end State

/-- `seamld` (R215, R216). -/
def execSeamld (g : Guard) (a b : Reg) (s : State) : Result := .next (s.seamldInstr g a b)
/-- `xseam` (R212). -/
def execXseam (g : Guard) (n : BitVec 6) (d a b c : Reg) (p : PredNo) (imm : W32) (s : State) : Result :=
  .next (s.xseamInstr g n d a b c p imm)

/-- `end` (R212). -/
def execUopEnd (s : State) : Result := .next (s.eachSeam State.seamCommit)
/-- Integer micro-ops (R208). -/
def execUopAdd (q : QReg) (a b : Sel) (k : W32) (s : State) : Result := .next (s.seamOp q a b k (· + ·))
def execUopSub (q : QReg) (a b : Sel) (k : W32) (s : State) : Result := .next (s.seamOp q a b k (· - ·))
def execUopMul (q : QReg) (a b : Sel) (k : W32) (s : State) : Result := .next (s.seamOp q a b k (· * ·))
def execUopMad (q : QReg) (a b c : Sel) (k : W32) (s : State) : Result :=
  .next (s.seamWrite q fun r => r.sel a k * r.sel b k + r.sel c k)
def execUopAnd (q : QReg) (a b : Sel) (k : W32) (s : State) : Result := .next (s.seamOp q a b k (· &&& ·))
def execUopOr (q : QReg) (a b : Sel) (k : W32) (s : State) : Result := .next (s.seamOp q a b k (· ||| ·))
def execUopXor (q : QReg) (a b : Sel) (k : W32) (s : State) : Result := .next (s.seamOp q a b k (· ^^^ ·))
/-- Shifts of R97. -/
def execUopShl (q : QReg) (a b : Sel) (k : W32) (s : State) : Result :=
  .next (s.seamOp q a b k fun x y => shlBits 32 x y.toNat)
def execUopShr (arith : Bool) (q : QReg) (a b : Sel) (k : W32) (s : State) : Result :=
  .next (s.seamOp q a b k fun x y => if arith then sarBits 32 x y.toNat else shrBits 32 x y.toNat)
def execUopSel (q : QReg) (a b c : Sel) (k : W32) (s : State) : Result :=
  .next (s.seamWrite q fun r => if r.sel c k ≠ 0 then r.sel a k else r.sel b k)
/-- The condition of the micro-op `cmp`. -/
def ucmpHolds (t : UCmp) (x y : W32) : Bool :=
  match t with
  | .eq => x == y
  | .ne => x != y
  | .ltI => x.slt y
  | .leI => !y.slt x
  | .ltN => x.ult y
  | .leN => !y.ult x
  | .ltF => Cond.onFp .lt (fp32.decode x.toNat) (fp32.decode y.toNat)
  | .leF => Cond.onFp .le (fp32.decode x.toNat) (fp32.decode y.toNat)
def execUopCmp (t : UCmp) (q : QReg) (a b : Sel) (k : W32) (s : State) : Result :=
  .next (s.seamOp q a b k fun x y => if ucmpHolds t x y then 1 else 0)
/-- Floating-point micro-ops (R102, R103). -/
def execUopFadd (rm : RM) (q : QReg) (a b : Sel) (k : W32) (s : State) : Result :=
  .next (s.seamOp q a b k fun x y => w32 (faddCode fp32 rm x.toNat y.toNat))
def execUopFmul (rm : RM) (q : QReg) (a b : Sel) (k : W32) (s : State) : Result :=
  .next (s.seamOp q a b k fun x y => w32 (fmulCode fp32 rm x.toNat y.toNat))
def execUopFma (rm : RM) (q : QReg) (a b c : Sel) (k : W32) (s : State) : Result :=
  .next (s.seamWrite q fun r => w32 (fmaCode fp32 rm (r.sel a k).toNat (r.sel b k).toNat (r.sel c k).toNat))
def execUopFmin (q : QReg) (a b : Sel) (k : W32) (s : State) : Result :=
  .next (s.seamOp q a b k fun x y => w32 (fminCode fp32 x.toNat y.toNat))
def execUopFmax (q : QReg) (a b : Sel) (k : W32) (s : State) : Result :=
  .next (s.seamOp q a b k fun x y => w32 (fmaxCode fp32 x.toNat y.toNat))
/-- `lmul` (R107). -/
def execUopLmul (t : LnTy) (q : QReg) (a b : Sel) (k : W32) (s : State) : Result :=
  .next (s.seamOp q a b k (lmulWord t))
/-- `ltab` (R54, R55, R106): the exact value of element k. -/
def execUopLtab (t : LnTy) (el : BitVec 2) (q : QReg) (a : Sel) (k : W32) (s : State) : Result :=
  .next (s.seamWrite q fun r => ldecWord t (w32 ((lnsElems t (r.sel a k)).getD el.toNat 0)))
/-- The conversions of the micro-op `cvt` (R109, R113, R114). -/
def ucvt (f : UCvt) (x y : W32) : W32 :=
  match f with
  | .i32fp32 rm => BitVec.ofInt 32 ((fp32.decode x.toNat).toInt rm (-2 ^ 31) (2 ^ 31 - 1))
  | .fp32i32 rm => w32 ((Exact.ofInt x.toInt).round fp32 rm)
  | .n32fp32 rm => BitVec.ofInt 32 ((fp32.decode x.toNat).toInt rm 0 (2 ^ 32 - 1))
  | .fp32n32 rm => w32 ((Exact.ofInt x.toNat).round fp32 rm)
  | .lenc6 => lencWord .lns6 x
  | .lenc12 => lencWord .lns12 x
  | .scal6 => scalWord .lns6 x
  | .fscale rm => w32 (fscaleCode rm x.toNat y.toInt)
def execUopCvt (f : UCvt) (q : QReg) (a b : Sel) (k : W32) (s : State) : Result := .next (s.seamOp q a b k (ucvt f))
/-- `pack` (R110, R111): element 0 from SA. -/
def upack (f : UPack) (rm : RM) (x y : W32) : W32 :=
  match f with
  | .bf16 => w32 ((fp32.decode x.toNat).round bf16 rm + 65536 * (fp32.decode y.toNat).round bf16 rm)
  | .fp16 => w32 ((fp32.decode x.toNat).round fp16 rm + 65536 * (fp32.decode y.toNat).round fp16 rm)
  | .fp8e4 => w32 (pk8Code .fp8e4 rm x.toNat + 256 * pk8Code .fp8e4 rm y.toNat)
  | .fp8e5 => w32 (pk8Code .fp8e5 rm x.toNat + 256 * pk8Code .fp8e5 rm y.toNat)
def execUopPack (f : UPack) (rm : RM) (q : QReg) (a b : Sel) (k : W32) (s : State) : Result :=
  .next (s.seamOp q a b k (upack f rm))
/-- `lld` and `lst` (R209). -/
def execUopLld (q : QReg) (a : Sel) (off : BitVec 7) (la : LineOp) (s : State) : Result :=
  .next (s.eachSeam (State.seamLoad q a off la))
def execUopLst (a b : Sel) (off : BitVec 7) (la : LineOp) (s : State) : Result :=
  .next (s.eachSeam (State.seamStore a b off la))
/-- `shfl` (R210). -/
def execUopShfl (mode : ShflMode) (q : QReg) (a b : Sel) (k : W32) (s : State) : Result :=
  .next (s.eachSeam (State.seamShfl mode q a b k))
/-- `brf` (R211). -/
def execUopBrf (z : Bool) (a : Sel) (t : BitVec 6) (s : State) : Result :=
  .next (s.eachSeam fun u c n r => u.seamGo c n r (if (r.sel a (brfK t) == 0) == z then t.toNat else r.idx + 1))
/-- `loop` (R211): with a count of 0 the body is skipped. -/
def execUopLoop (bounded : Bool) (a : Sel) (last : BitVec 6) (cnt : BitVec 5) (s : State) : Result :=
  .next (s.eachSeam fun u c n r =>
    let times := if bounded then min (r.sel a (loopK last cnt)).toNat cnt.toNat else cnt.toNat
    if times = 0 then u.seamGo c n r (last.toNat + 1)
    else u.onSlot c n fun t => { t with
      seam := some { r with idx := r.idx + 1, loop := some (r.idx + 1, last.toNat, times) } })
/-- `wr` (R212). -/
def execUopWr (t : UWr) (a : Sel) (k : W32) (s : State) : Result :=
  .next (s.eachSeam fun u c n r =>
    let v := r.sel a k
    u.seamGo c n (match t with
      | .vd => { r with lo := some v }
      | .vdh => { r with hi := some v }
      | .pd => { r with pr := some (v != 0) }) (r.idx + 1))

end Sys2Proof.Machine
end

