-- ==== Sys2Proof/Machine/Picker.lean ====
section
/-! DEFINITION. The picker (R22, R164, R274): ready slots, what holds an instruction before it issues (R29, R143, R161,
R174, R188, R191, R226), the bundles of a quadrant, and the steps that follow a cycle's issue. -/

namespace Sys2Proof.Machine

/-- Function-unit classes of R274: 0 integer, 1 float, 2 line, 3 control, 4 engine. An encoding that is no instruction
has none (log entry 6). -/
def unitClass : Instr → Nat
  | .faddFp32C .. | .faddFp32Clit .. | .fmulFp32C .. | .fmulFp32Clit .. | .fminFp32C .. | .fminFp32Clit ..
  | .fmaxFp32C .. | .fmaxFp32Clit .. | .faddBf16C .. | .faddBf16Clit .. | .fmulBf16C .. | .fmulBf16Clit ..
  | .cvtFp32I32C .. | .cvtI32Fp32C .. => 1
  | .fadd .. | .fsub .. | .fmul .. | .fma .. | .fmin .. | .fmax .. | .fabs .. | .fneg .. | .fcsgn .. | .fscale ..
  | .fclamp .. | .frnd .. | .frcp .. | .fsqrt .. | .frsqrt .. | .fexp2 .. | .flog2 .. | .fsin .. | .fcos .. | .fdot2 ..
  | .lmul .. | .lmac .. | .cvt .. | .cvtp .. | .cvtx .. | .pk8 .. | .unp8 .. | .pk4 .. | .unp4 .. | .lenc .. | .ldec ..
  | .scal .. | .perm .. | .prmt .. | .bswp .. | .bcmp .. | .bsub .. => 1
  | .ldBC .. | .ldHC .. | .ldWC .. | .ldDC .. | .stBC .. | .stHC .. | .stWC .. | .stDC .. | .recallC .. | .flushC ..
  | .openLine .. | .sopen .. | .recallLine .. | .flush .. | .ld .. | .st .. | .lde .. | .ste .. | .atom .. | .red ..
  | .pfd .. => 2
  | .nopC | .exitC | .retC .. | .voteAnyC .. | .voteAllC .. | .voteBallC .. | .electC .. | .shflIdxC .. | .shflXorC ..
  | .bra .. | .call .. | .callImport .. | .callx .. | .jmpx .. | .ret .. | .exit .. | .nop .. | .join .. | .leave ..
  | .tbar .. | .tred .. | .tbcast .. | .shfl .. | .vote .. | .matchLanes .. | .confl .. | .cred .. | .cscan .. | .elect ..
  | .xseam .. => 3
  | .mfsC .. | .pauseC | .mma .. | .mload .. | .talloc .. | .tfree .. | .tstat .. | .copy .. | .wait .. | .sig .. | .sigw ..
  | .stkgive .. | .stkown .. | .tmset .. | .trap .. | .bkpt .. | .rteRetry .. | .rteSkip .. | .rteExit .. | .mfs ..
  | .mts .. | .icinv .. | .pfi .. | .pause .. | .hld .. | .seamld .. => 4
  | .illegalInstruction .. => 5
  | _ => 0
/-- Cross-lane instructions (R164). -/
def isCross : Instr → Bool
  | .voteAnyC .. | .voteAllC .. | .voteBallC .. | .electC .. | .shflIdxC .. | .shflXorC .. | .shfl .. | .vote ..
  | .matchLanes .. | .confl .. | .cred .. | .cscan .. | .elect .. => true
  | _ => false
/-- Crew-class instructions: those on line registers, cross-lane ones and `xseam` (R19, R22, R212). -/
def isCrew (i : Instr) : Bool :=
  unitClass i == 2 || isCross i || match i with
    | .sig .. | .sigw .. | .xseam .. => true
    | _ => false
/-- The opens. -/
def isOpen : Instr → Bool
  | .openLine .. | .sopen .. => true
  | _ => false
/-- The guard of an instruction (R73, R75); a C form's always holds. -/
def guardOf : Instr → Guard
  | .openLine g .. | .sopen g .. | .ld g .. | .st g .. | .lde g .. | .ste g .. | .atom g .. | .red g .. => g
  | .mma g .. | .mload g .. | .talloc g .. | .tfree g .. | .copy g .. | .wait g .. | .sig g .. | .sigw g .. => g
  | .stkgive g .. | .stkown g .. | .seamld g .. | .tbar g .. | .tred g .. | .tbcast g .. => g
  | .recallLine g .. | .flush g .. => g
  | _ => .always

namespace State

/-- The encoding at a code reference of a line: one that does not begin at a multiple of 4 is illegal (R71), with the detail of the
first row of R89 that it breaks too, or else one that the spec leaves open. -/
def encodingAt (l : Line) (pc : W32) : Except Detail Instr :=
  match decode (lineBytes l pc) with
  | .ok i => if pc.toNat % 4 = 0 then .ok i else .error (Config.misalignedDetail pc)
  | .error d => .error d
/-- The instruction that a slot stands at, in the version of its line that stays with it (R199). -/
def instrAt (t : Slot) : Instr :=
  match t.stay with
  | some (_, l) => match encodingAt l.data t.pc with
    | .ok i => i
    | .error d => .illegalInstruction d
  | none => .nopC
/-- Its length (R70, R91). -/
def lenAt (t : Slot) : Nat := (t.stay.map fun l => encLength l.2.data t.pc).getD 4

/-- Detail REGISTER as the slot decides it (R24, R165, R282). -/
def registerBad (s : State) (c n : Nat) (i : Instr) : Bool :=
  let t := s.slot c n
  let b := s.bindOf c n
  (i.regUses (b.width == 3)).any fun u => u.1.toNat % u.2 != 0 || (List.range u.2).any fun j =>
    let r := u.1.toNat + j
    !(decide (r < b.regCount) || (t.masked && decide (240 ≤ r) && decide (r < 248)))
/-- A PC-relative target outside offsets 0 to 2^24 − 4 (R85). -/
def targetBad (t : Slot) : Instr → Bool
  | .bra _ o => decide ((t.pc.extractLsb' 0 24).toNat + o.toInt < 0) || decide ((t.pc.extractLsb' 0 24).toNat + o.toInt > 2 ^ 24 - 4)
  | .call _ o => decide ((t.pc.extractLsb' 0 24).toNat + o.toInt < 0) || decide ((t.pc.extractLsb' 0 24).toNat + o.toInt > 2 ^ 24 - 4)
  | _ => false
/-- An `xseam` that its context's seam table does not bind (R87). -/
def unboundSeam (s : State) (c n : Nat) : Instr → Bool
  | .xseam _ k .. => !seamBound ((s.core c).seamEntry (s.bindOf c n).ctx k.toNat)
  | _ => false
/-- A `seamld` outside a privileged bind (R203). -/
def unprivileged (s : State) (c n : Nat) : Instr → Bool
  | .seamld .. => !(s.bindOf c n).priv
  | _ => false
/-- What the decode checks of an instruction look at: of one that is illegal for where it begins, what its bytes encode (R89). -/
def checkedAs (t : Slot) : Instr → Instr
  | .illegalInstruction d => (t.stay.bind fun l => (decode (lineBytes l.2.data t.pc)).toOption).getD (.illegalInstruction d)
  | i => i
/-- The decode check that a slot fails before its guard is looked at, in the order of R89 (R90). -/
def decodeFault (s : State) (c n : Nat) (inst : Instr) : Option Detail :=
  let i := checkedAs (s.slot c n) inst
  if s.registerBad c n i then some .register
  else if targetBad (s.slot c n) i then some .target
  else if s.unboundSeam c n i then some .seamUnbound
  else if s.unprivileged c n i then some .privilege
  else none

/-! Holds. -/

/-- The line operand of an instruction that may reach a home, its base register, and whether it stores. -/
def homeOperand : Instr → Option LineOp
  | .ldBC _ la _ | .ldHC _ la _ | .ldWC _ la _ | .ldDC _ la _ => some la
  | .stBC la _ _ | .stHC la _ _ | .stWC la _ _ | .stDC la _ _ => some la
  | .ld _ _ _ la .. | .st _ _ la .. | .lde _ _ _ la .. | .ste _ _ la .. => some la
  | .atom _ _ _ la .. | .red _ _ la .. | .sig _ _ la .. | .sigw _ _ la .. => some la
  | _ => none
/-- Loads. -/
def isLoad : Instr → Bool
  | .ldBC .. | .ldHC .. | .ldWC .. | .ldDC .. | .ld .. | .lde .. => true
  | _ => false
/-- The way in a lane of an instruction that is executed at a home. -/
def homeWay (s : State) (c n : Nat) (i : Instr) : Option Way :=
  match homeOperand i with
  | none => none
  | some la => match s.useWay c n la 0 with
    | .ok _ w => if w.kind == .home || (w.sum && isLoad i) then some w else none
    | .trap _ => none
/-- Earlier home accesses, signals and write-backs of a slot, for which alone a collective waits (R161, R136). -/
def pendingAll (s : State) (c n : Nat) : Bool :=
  s.reqs.any fun r => r.core == c && r.lanes.contains n && unperformed r.stage &&
    (neverHeld r.kind || (threadOrdered r.kind && atSlice r.kind))
/-- The class that an instruction counts in (R28); of home accesses only those whose way is one (R131). -/
def countClass (s : State) (c n : Nat) (i : Instr) : Option Cls :=
  match i with
  | .openLine .. | .sopen .. => some .o
  | .copy .. => some .c
  | .mma .. | .mload .. | .talloc .. | .tfree .. => some .m
  | .sig .. | .stkgive .. | .stkown .. => some .s
  | .sigw .. => none
  | _ => if (s.homeWay c n i).isSome then some .h else none

/-- Whether the words that an `xseam` of a lane runs name a frame of an `own` or `fixed` line. -/
def seamOnFrame (s : State) (c n : Nat) (k : BitVec 6) : Bool :=
  let e := (s.core c).seamEntry (s.bindOf c n).ctx k.toNat
  (List.range (seamCount e)).any fun i => match decodeUop ((s.core c).cword (seamStart e + i)) with
    | some (.uopLld _ _ _ la) => s.frameWay c n la
    | some (.uopLst _ _ _ la) => s.frameWay c n la
    | _ => false
/-- Whether a lane's instruction accesses `own` or `fixed` locations through a frame, where it is placed in the total order as it
executes (R142, R214). -/
def onFrame (s : State) (c n : Nat) (i : Instr) : Bool :=
  match i with
  | .sig .. | .sigw .. => false
  | .xseam _ k .. => s.seamOnFrame c n k
  | _ => match homeOperand i with
    | some la => s.frameWay c n la
    | none => false

/-- What holds one lane, whose guard holds, before its instruction (R274). DEDUCED: an access of a frame is held until the lane's
earlier home accesses are performed, for the total order of R142 agrees with its program order, log entry 97; and a slot at a
collective that may not
arrive yet (R156, R161) is held before the instruction, where a timer trap or a halt takes it at once, and is not yet
waiting in it (R162), log entry 63. -/
def laneHeld (s : State) (c n : Nat) (i : Instr) : Bool :=
  let t := s.slot c n
  let home := match s.homeWay c n i with
    | none => false
    | some w => !w.sum && (s.pending c n).any fun r => channel r.dest r.pa != channel w.dest w.pa
  home || (s.pendingHome c n && s.onFrame c n i) || match i with
    | .wait _ w => !waitMet w t
    | .copy _ a => (match (s.copyIssue c n i (t.reg a.toNat).toNat).1 with
      | .hold => true
      | _ => false)
    | .mload _ a => (match s.mloadIssue c n i (t.reg a.toNat).toNat with
      | .hold => true
      | _ => false)
    | .mma _ a => (match s.mmaIssue c n i (t.reg a.toNat).toNat with
      | .hold => true
      | _ => false)
    | .tfree _ k => (s.core c).owns t.bind k.toNat && (tState ((s.core c).tile k.toNat) == 1 || tState ((s.core c).tile k.toNat) == 3)
    | .seamld _ a b =>
      let v := t.reg b.toNat
      (s.seamFault c (t.reg a.toNat).toNat v).isNone && sldOp v == 0 &&
        (s.core c).runsIn ((s.core c).bind (sldBind v)).ctx (sldStart v) (sldCount v)
    | .tbar .. | .tred .. | .tbcast .. => s.collJoins c n i && (s.collLate c n i || s.pendingAll c n)
    | .stkgive .. => !(s.pending c n).isEmpty || s.pendingAll c n
    | _ => false
/-- Whether a recall or flush of a register, or of one way, starts a write-back or delivers a partial (R134, R135). -/
def startsBack (s : State) (c n : Nat) (la : LineOp) : Bool :=
  (waysOf la).any fun w => match ((s.core c).way (crewOf n) la.reg.toNat w).kind with
    | .frame f => (match (s.core c).frames.find? f with
      | some x => x.kind == .sum || x.dirty != 0
      | none => false)
    | _ => false
/-- Whether an open's binding of a line sends a fill: there is no frame of it, or one that lacks nibbles (R218, R221). -/
def fillSent (s : State) (c : Nat) (l : OpenLine) : Bool :=
  l.fkind.isSome && l.fetch && match (s.core c).frameOf l.way.dest (lineAddr l.way.pa) with
    | some (_, x) => x.fill.isNone && x.valid ||| x.dirty != -1
    | none => true
/-- Whether a lane's open sends a fill, after its recall, or in retry mode where no way holds its line (R123). -/
def openFetches (s : State) (c n : Nat) (i : Instr) : Bool :=
  let sp := openSpec i
  match sp.h with
  | none => false
  | some h =>
    let retry := (s.slot c n).retry
    let u := if retry then s else s.recallReg c (crewOf n) ⟨sp.lreg, none⟩ [n]
    let b := (u.slot c n).bind
    let e := u.handle c b h.toNat
    match openTarget sp e.1 ((u.slot c n).reg sp.a.toNat) with
    | .ok a => (match (e.2.openCheck c b sp e.1 (lineAddr a)).1 with
      | .ok l => u.fillSent c l && !(retry && [0, 1, 2, 3].any fun k => holdsLine ((u.core c).way (crewOf n) sp.lreg.toNat k) l.way)
      | _ => false)
    | .error _ => false
/-- Whether an instruction needs an entry of the core's request table (R226). -/
def needsEntry (s : State) (c n : Nat) (i : Instr) : Bool :=
  (s.homeWay c n i).isSome || match i with
    | .recallC la => s.startsBack c n la
    | .flushC la => s.startsBack c n la
    | .recallLine _ la => s.startsBack c n la
    | .flush _ la => s.startsBack c n la
    | .openLine .. => s.openFetches c n i || (!(s.slot c n).retry && s.startsBack c n ⟨(openSpec i).lreg, none⟩)
    | .sopen .. => !(s.slot c n).retry && s.startsBack c n ⟨(openSpec i).lreg, none⟩
    | _ => false

/-- A squall reset of the slot's context has been asked for: it issues nothing more, and nothing of it is due (R296). -/
def squalled (s : State) (c n : Nat) : Bool := s.squalls.any fun q => q.ctx == (s.bindOf c n).ctx
/-- The slot is ready but for what holds its instruction (R274, R280). -/
def readyBase (s : State) (c n : Nat) : Bool :=
  let t := s.slot c n
  t.occupied && t.hold == .free && decide (t.notBefore ≤ s.clock) && t.recent.head? != some s.clock && !needsFetch t &&
    !(!t.masked && s.stopDue c n) && !(!t.masked && s.timerDue c n) && !(s.squalled c n)
/-- The slot is ready. -/
def ready (s : State) (c n : Nat) : Bool :=
  s.readyBase c n &&
    let i := instrAt (s.slot c n)
    if (s.decodeFault c n i).isSome || !(s.slot c n).guard (guardOf i) then true
    else !(s.laneHeld c n i) && !(s.needsEntry c n i && decide (s.entriesTaken c ≥ Config.requestEntries))
/-- The ready slots of a quadrant. -/
def readySlots (s : State) (c q : Nat) : List Nat :=
  ((s.core c).slots.keys.filter fun n => quadOf n == q).filter fun n => s.ready c n

/-- What holds a whole bundle: a full counter in one of its lanes, a busy load-store unit, or a request of several lanes
one of which has an earlier access that is not performed (R29, R139, R143). -/
def bundleHeld (s : State) (c q : Nat) (slots : List Nat) (i : Instr) : Bool :=
  let live := slots.filter fun n => (s.decodeFault c n i).isNone && (s.slot c n).guard (guardOf i)
  let counted := if isOpen i then (if live.isEmpty then [] else slots) else live
  (counted.any fun n => match s.countClass c n i with
    | some k => decide ((s.slot c n).count k ≥ 63)
    | none => false) ||
  ((match i with
    | .atom .. | .red .. | .sig .. => true
    | _ => false) && decide ((s.core c).lsuBusy.get 0 q > s.clock)) ||
  (let homes := live.filterMap fun n => (s.homeWay c n i).map fun w => (n, w)
   homes.any fun x => !x.2.sum && (homes.any fun y => y.1 != x.1 && y.2.dest == x.2.dest && lineAddr y.2.pa == lineAddr x.2.pa) &&
     !(s.pending c x.1).isEmpty)

/-! Bundles. -/

/-- Whether a slot comes before another: the older fill, then the lower number. -/
def older (s : State) (c a b : Nat) : Bool :=
  let x := (s.slot c a).fill
  let y := (s.slot c b).fill
  decide (x < y) || (x == y && decide (a < b))
/-- The leading slot of a list: the most urgent priority, then the oldest. -/
def leading (s : State) (c : Nat) : List Nat → Option Nat
  | [] => none
  | n :: l => some (l.foldl (fun a b =>
      let p := (s.bindOf c a).prio
      let q := (s.bindOf c b).prio
      if q < p ∨ (p = q ∧ s.older c b a = true) then b else a) n)
/-- Slots of different lane positions in ascending lane order (R173). -/
def byLane (l : List Nat) : List Nat := (List.range 32).flatMap fun k => l.filter fun m => laneOf m == k
/-- The bundle of a leading slot among ready slots, in ascending lane order: the same bind and program counter; for a crew-class
instruction the same crew, or the width unit of a cross-lane one; each lane position once, the older slot winning. An
`open` of a slot in retry mode is alone (R123). DESIGN CHOICE: slots that stand at one program counter in fetched versions of the
line that hold different instructions there are not bundled, log entry 92. -/
def gather (s : State) (c n : Nat) (l : List Nat) : List Nat :=
  let i := instrAt (s.slot c n)
  let w := (s.bindOf c n).width
  let same := l.filter fun m => m == n || ((s.slot c m).bind == (s.slot c n).bind && (s.slot c m).pc == (s.slot c n).pc &&
    instrAt (s.slot c m) == i && !(isOpen i && ((s.slot c n).retry || (s.slot c m).retry)))
  if isCross i then same.filter fun m => n - unitLaneOf w n == m - unitLaneOf w m
  else if isCrew i then same.filter fun m => crewOf m == crewOf n
  else byLane (same.filter fun m => m == n || (laneOf m != laneOf n &&
    !(same.any fun k => k != m && laneOf k == laneOf m && s.older c k m)))
/-- A bundle that fills both places of the quadrant (R164). -/
def isPair (s : State) (c n : Nat) : Bool := isCross (instrAt (s.slot c n)) && (s.bindOf c n).width == 3
/-- The next bundle of a quadrant from a list of ready slots: held bundles are passed by. `second` gives the class of the
cycle's first bundle. DESIGN CHOICE: a pair of R164 that would lead the second bundle is passed by, log entry 91. -/
def pick (s : State) (c q : Nat) (second : Option Nat) : Nat → List Nat → Option (List Nat)
  | 0, _ => none
  | fuel + 1, l =>
    match s.leading c (match second with
      | some k => l.filter fun n => unitClass (instrAt (s.slot c n)) != k && !(s.isPair c n)
      | none => l) with
    | none => none
    | some n =>
      let b := s.gather c n l
      if s.bundleHeld c q b (instrAt (s.slot c n)) then s.pick c q second fuel (l.filter fun m => !b.contains m) else some b
/-- Bundles that a quadrant has issued in this cycle, and the first one's class. -/
def issued (s : State) (c q : Nat) : Nat :=
  let k := s.core c
  if k.issueCycle = s.clock ∧ k.issueQuad = q then k.issueCount else 0
/-- The core has issued a bundle in this cycle, or its issue has ended. -/
def issuedAny (s : State) (c : Nat) : Bool :=
  s.closedNow c || ((s.core c).issueCycle == s.clock && decide ((s.core c).issueCount > 0))
/-- The bundle that a quadrant issues next in this cycle, if any. -/
def nextBundle (s : State) (c q : Nat) : Option (List Nat) :=
  let k := s.core c
  if s.closedNow c || (k.issueCycle == s.clock && decide (k.issueQuad > q) && decide (k.issueCount > 0)) then none
  else
    let l := s.readySlots c q
    match s.issued c q with
    | 0 => s.pick c q none (l.length + 1) l
    | 1 => s.pick c q (some k.issueClass) (l.length + 1) l
    | _ => none
/-- Quadrants issue in ascending order within a cycle, as core issue order (R173) lists them. -/
def mayIssue (s : State) (c q : Nat) : Bool := (List.range q).all fun p => (s.nextBundle c p).isNone
/-- The core has issued everything that it issues in this cycle. -/
def issueDone (s : State) (c : Nat) : Bool := (List.range 4).all fun q => (s.nextBundle c q).isNone

/-- What is due at a slot's boundary in this cycle, before the quadrant issues. -/
def boundaryDue (s : State) (c n : Nat) : Bool :=
  let t := s.slot c n
  !(s.squalled c n) && ((match t.hold with
    | .parked _ enter => decide (enter ≤ s.clock)
    | .pause till _ => decide (till ≤ s.clock)
    | .exiting => mayRetire t
    | _ => false) || s.timerHere c n || (s.fetchWaits c n && s.lineCached c n))
/-- The halts that have reached a member which has neither stopped nor been put off. -/
def haltDue (s : State) (c : Nat) : Bool :=
  (s.core c).halts.any fun h => h.members.any fun m => decide (reach h m.1 ≤ s.clock) &&
    (m.2 == .running || (m.2 == .deferred && stopsNow (s.slot c m.1)))
/-- Something of a core is due before it issues. -/
def coreDue (s : State) (c : Nat) : Bool := s.haltDue c || ((s.core c).slots.keys.any fun n => s.boundaryDue c n)
/-- A hand-over that a `stkgive` of this cycle asks for is still to be decided (R191). -/
def giveDue (s : State) : Bool :=
  s.reqs.any fun r => r.stage == .port && match r.kind with
    | .give _ _ _ => true
    | _ => false
/-- An operation of the load-store unit whose cycles end with this one, and which no earlier bundle's holds (R140). -/
def unitDue (s : State) (c q : Nat) : Option LsuOp :=
  (s.core c).lsu.find? fun o => o.quad == q && decide (o.till ≤ s.clock + 1) && !(s.sumHeld c o)
/-- Everything that belongs to this cycle of a core has come about. -/
def coreQuiet (s : State) (c : Nat) : Bool :=
  !(s.coreDue c) && s.issueDone c && ((List.range 4).all fun q => (s.unitDue c q).isNone) && (s.tokenNext c).isNone &&
    !(s.detectorDue c)
/-- At the start of a cycle the detector's count moves on (R223). -/
def countDetector (s : State) (c : Nat) : State :=
  s.onCore c fun k => { k with detect := if s.detectorHolds c then k.detect + 1 else 0 }

end State

/-- `TOKEN_WAIT_MET` (R127, R128, R222): the waiting open of a number is the next to be met, after the cycle's issue; one that
can never be met any more completes with PEGWAIT. -/
def execTokenWaitMet (c wid : Nat) (s : State) : Result :=
  match s.tokenNext c with
  | some w =>
    if w.wid = wid ∧ s.issueDone c = true ∧ s.coreDue c = false then
      let p := s.readyWays c w
      let s1 := p.2.onCore c fun k => { k with waits := k.waits.filter fun x => x.wid != wid }
      if s.neverMet c w then .next ((s1.pegwait c p.1).closeIssue c)
      else
        let s2 := s1.onCore c fun k => ({ k with detect := 0 } : Core).takeTokens w.crew p.1.need
        .next ((s2.bindOrHold c p.1).closeIssue c)
    else .next s
  | none => .next s
/-- `DETECTOR_FIRE` (R223): every open of the core that waits for tokens completes with PEGWAIT, behind those that R128 ends. -/
def execDetectorFire (c : Nat) (s : State) : Result :=
  if s.detectorDue c && s.issueDone c && !(s.coreDue c) && (s.tokenNext c).isNone then
    let ws := (s.core c).waits.filter OpenWait.forTokens
    let s1 := s.onCore c fun k => { k with
      waits := k.waits.filter (fun w => !w.forTokens), detect := 0, fires := if k.fires = 0xFFFF then k.fires else k.fires + 1 }
    .next ((ws.foldl (fun u w => u.pegwait c w) s1).closeIssue c)
  else .next s
/-- `COMBINED_REQUEST_LEAVES` (R139). -/
def execCombinedRequestLeaves (c q : Nat) (s : State) : Result :=
  match s.unitDue c q with
  | some o => if s.issueDone c && !(s.coreDue c) then .next ((s.unitLeave c o).closeIssue c) else .next s
  | none => .next s

end Sys2Proof.Machine
end

