-- ==== Sys2Proof/Machine/Fatal.lean ====
section
/-! DEFINITION. Status words (R224, R239, R247, R267), messages to the host (R322), and fatal errors with their dump (R301,
R302). -/

namespace Sys2Proof.Machine

/-! Status words. -/

/-- The status word of a core's line store (R224). -/
def Core.status (k : Core) : W64 :=
  let waiters := ((k.waits.filter OpenWait.forTokens).map OpenWait.crew).eraseDups.length
  k.fires ++ BitVec.ofNat 16 k.frames.length ++ BitVec.ofNat 16 k.pool ++ BitVec.ofNat 16 waiters
/-- The status word of a stack arbiter (R239). -/
def Arbiter.status (a : Arbiter) : W64 :=
  a.hcount ++ (0#8 ++ (BitVec.ofNat 8 a.core ++ (BitVec.ofNat 8 (a.step % 8) ++ (BitVec.ofNat 8 (a.to_ % 2) ++ BitVec.ofNat 8 (a.owner % 2)))))
def ModState.code : ModState → Nat
  | .training => 0
  | .active => 1
  | .retraining => 2
  | .down => 3
/-- The status word of a module (R247). -/
def Module.status (x : Module) (m : Nat) : W64 :=
  let alt := if x.state = .down then (m + 12) % 24 else 0
  x.replays ++ x.crcErr ++ BitVec.ofNat 16 alt ++ x.retrains ++ (0#4 ++ (x.width ++ BitVec.ofNat 2 x.state.code))
/-- A bind record as the slot table holds it (R267). -/
def Bind.word (b : Bind) : Line :=
  let st := match b.state with
    | .free => 0
    | .binding => 1
    | .running => 2
    | .draining => 3
  let at_ (lo v : Nat) : Line := BitVec.ofNat 1024 v <<< lo
  at_ 0 st ||| at_ 2 b.stop.toNat ||| at_ 3 b.exh.toNat ||| at_ 106 (b.slots % 4096) ||| at_ 118 b.priv.toNat ||| at_ 119 (b.prio % 16) |||
    at_ 123 (b.ctx % 256) ||| at_ 131 b.width.toNat ||| at_ 133 (b.regs % 16) ||| at_ 137 (b.floor % 128) ||| at_ 144 (b.pool % 4096) |||
    at_ 156 (b.hcnt % 4096) ||| at_ 168 (b.htab % 2 ^ 52) ||| at_ 224 b.entry.toNat ||| at_ 256 b.refill.toNat |||
    at_ 288 b.crews.toNat ||| at_ 354 b.asid.toNat ||| at_ 368 b.macros.toNat ||| at_ 384 b.use.toNat ||| at_ 392 b.give.toNat |||
    at_ 400 (b.root % 2 ^ 52) ||| at_ 452 (b.lrec % 2 ^ 52) ||| at_ 512 b.h0.toNat ||| at_ 768 b.h1.toNat

namespace State

/-! Messages (R322). -/

/-- The ring's size: S of MSGBASE. -/
def ringS (s : State) : Nat := (s.msgbase.extractLsb' 0 5).toNat
/-- Whether the ring takes a message now. -/
def ringRoom (s : State) : Bool := decide ((s.prod - s.cons).toNat < 2 ^ s.ringS)
/-- The request that writes a message to its place in the ring. -/
def messageReq (s : State) (w0 w1 : W64) : Req × State :=
  s.newReqOf 0 100 0 [] (.message w0 w1) .host ((s.msgbase.extractLsb' 12 52).toNat * 4096 + 16 * (s.prod.toNat % 2 ^ s.ringS)) []
/-- Whether a message can be written now: the ring has room, and its request may leave (R257); with no ring it is discarded. -/
def mayWrite (s : State) (w0 w1 : W64) : Bool := s.ringS == 0 || (s.ringRoom && s.maySend (s.messageReq w0 w1).1)
/-- A message is written to the ring, and PROD advances; with no ring it is discarded. -/
def writeMessage (s : State) (w0 w1 : W64) : State :=
  if s.ringS = 0 then s
  else { (s.messageReq w0 w1).2.sendReq (s.messageReq w0 w1).1 with prod := s.prod + 1 }

/-! Fatal errors (R301, R302). -/

/-- Bytes of the Knanos region stored, which no thread waits on: a write clears their poison (R220). -/
def rawBytes (s : State) (a n v : Nat) : State :=
  { s with mem := Memory.write s.mem a n v, memPoison := s.memPoison.filter fun x => decide (x.1 < a) || decide (a + n ≤ x.1) }
/-- A slot's record of 32 bytes in the dump: PC, `%tpc`, `%tcause`, `%tval`, and the five counts. DEDUCED: packed in
this order, log entry 27. -/
def slotRecord (t : Slot) : Nat :=
  t.pc.toNat + t.tpc.toNat * 2 ^ 32 + t.tcause.toNat * 2 ^ 64 + t.tval.toNat * 2 ^ 96 +
    ([Cls.o, .h, .c, .m, .s].zipIdx).foldl (fun a k => a + t.count k.1 * 2 ^ (160 + 8 * k.2)) 0
/-- What the dump holds of a core. -/
def dumpCore (s : State) (c : Nat) : State :=
  let k := s.core c
  let base := Config.dumpBase + 0x100000 + c * 0x100000
  let s1 := (k.binds.filter fun b => decide (b.1 < 8)).foldl (fun (u : State) b => u.rawBytes (base + 128 * b.1) 128 b.2.word.toNat) s
  let s2 := s1.rawBytes (base + 1024) 8 k.status.toNat
  (k.slots.filter fun t => decide (t.1 < Config.slots)).foldl (fun (u : State) t =>
    u.rawBytes (base + 1032 + 32 * t.1) 32 (slotRecord t.2)) s2
/-- The dump, over whatever the region held. -/
def dump (s : State) (reason : Nat) : State :=
  let out (a : Nat) : Bool := decide (a < Config.dumpBase) || decide (Config.dumpEnd ≤ a)
  let s1 : State := { s with mem := s.mem.filter fun x => out x.1, memPoison := s.memPoison.filter fun x => out x.1 }
  let s2 := ((s1.rawBytes Config.dumpBase 8 s.fatals.toNat).rawBytes (Config.dumpBase + 8) 8 s.clock).rawBytes (Config.dumpBase + 16) 8 reason
  let s3 := (List.range 8).foldl (fun (u : State) k => u.rawBytes (Config.dumpBase + 0x1000 + 64 * k) 8 (s.arbiter k).status.toNat) s2
  let s4 := (List.range 24).foldl (fun (u : State) m =>
    u.rawBytes (Config.dumpBase + 0x2000 + 64 * m) 8 ((s.module m).status m).toNat) s3
  (List.range Config.cores).foldl (fun (u : State) c => u.dumpCore c) s4
/-- Whether a request from outside writes memory; after a fatal error none is accepted (R302, R326). -/
def outerWrites : OuterOp → Bool
  | .read _ => false
  | .readLine => false
  | .sigw _ _ => false
  | _ => true
/-- A write from outside that a fatal error meets before it is performed: it is no more (R326). -/
def cutOff (r : Req) : Bool := unperformed r.stage && match r.kind with
  | .outer _ _ op => outerWrites op
  | _ => false
/-- The fatal message (R302, R322): discarded when the ring is full; else written, and it waits for its request alone. -/
def fatalMessage (s : State) (reason : W64) : State :=
  if !s.ringRoom then s
  else if s.mayWrite (-1) reason then s.writeMessage (-1) reason
  else { s with messages := [{ w0 := -1, w1 := reason, lrec := none }] }
/-- A fatal error of a kind (R301), on a die, concerning a stack, module or core. -/
def fatal (s : State) (kind die part : Nat) : State :=
  let reason := kind % 256 + 256 * (die % 256) + 65536 * (part % 256)
  let s1 : State := { s with
    phase := fatalPhase, fatals := s.fatals + 1, commands := [], messages := [], squalls := [],
    reqs := s.reqs.filter fun r => !cutOff r
    cores := s.cores.map fun e => (e.1, stopBinds e.2) }
  (s1.dump reason).fatalMessage (BitVec.ofNat 64 reason)
where
  /-- STOP in every bind of a core. -/
  stopBinds (k : Core) : Core := { k with binds := k.binds.map fun b => (b.1, { b.2 with stop := true }) }
/-- A module and its alternate are down (R301). -/
def bothDown (s : State) (m : Nat) : Bool := (s.module m).state == .down && (s.module ((m + 12) % 24)).state == .down
end State
end Sys2Proof.Machine
end

