-- ==== Sys2Proof/Machine/Link.lean ====
section
/-! DEFINITION. Links: flits, acknowledgement, retry, training and down (R243 to R248, R252, R255, R340), requests that
arrive at a die, and replies (R27, R28, R248, R251, R256, R341). -/

namespace Sys2Proof.Machine

/-- Fabric ticks in 1 ms. -/
def ticksPerMs : Nat := 1800000

/-! One direction of a link. -/

/-- Fills a flit's free slots from a queue: its body, and the queue that is left (R245, R340). -/
def packFlit : Nat → List (Msg × Nat) → List (Msg × Nat × Bool) × List (Msg × Nat)
  | _, [] => ([], [])
  | room, (m, n) :: q =>
    if room = 0 then ([], (m, n) :: q)
    else if n ≤ room then ((m, n, true) :: (packFlit (room - n) q).1, (packFlit (room - n) q).2)
    else ([(m, room, false)], (m, n - room) :: q)

namespace Direction

/-- A sender sends a flit of so many slots when it holds slots and its buffer has room (R246, R340). -/
def send (d : Direction) (slots : Nat := 15) : Direction :=
  if d.queue.isEmpty || decide (d.buffer.length ≥ 64) then d
  else
    let p := packFlit slots d.queue
    let f : Flit := { seq := d.next, body := p.1, replay := false }
    { d with queue := p.2, next := d.next + 1, wire := d.wire ++ [f], buffer := d.buffer ++ [f] }
/-- The next flit on the way is received: in order and whole, or failed, when it and every later one is discarded until
the replay (R246). The messages that it completes. -/
def receive (d : Direction) (tick : Nat) (whole : Bool) : Direction × List Msg :=
  match d.wire with
  | [] => (d, [])
  | f :: rest =>
    if f.seq ≠ d.expect then ({ d with wire := rest }, [])
    else if whole then
      ({ d with wire := rest, expect := d.expect + 1, unacked := d.unacked + 1, discarding := false, badForm := false,
                oldest := if d.unacked = 0 then tick else d.oldest },
       (f.body.filter fun b => b.2.2).map Prod.fst)
    else ({ d with wire := rest, discarding := true }, [])
/-- The flit that is received next, if it is the one expected. -/
def head (d : Direction) : Option Flit := d.wire.head?.bind fun f => if f.seq = d.expect then some f else none
/-- The receiver must acknowledge now: it holds 16 flits, or 128 fabric cycles have passed since the oldest (R340). DESIGN CHOICE:
on DCL the same holds, and the same replay buffer of 64 flits, of which R255 gives no sizes, log entry 78. -/
def ackDue (d : Direction) (tick : Nat) : Bool :=
  decide (16 ≤ d.unacked) || (decide (0 < d.unacked) && decide (d.oldest + 128 ≤ tick))
/-- It acknowledges what it has received in order; the acknowledgement crosses to the sender. -/
def acknowledge (d : Direction) : Direction := { d with acks := d.acks ++ [d.expect], unacked := 0, oldest := 0 }
/-- An acknowledgement arrives: its flits leave the replay buffer. -/
def ackArrives (d : Direction) : Direction :=
  match d.acks with
  | [] => d
  | n :: rest => { d with acks := rest, buffer := d.buffer.filter fun f => decide (n ≤ f.seq) }
/-- A retry has been asked for, and the failed flits have left the wire. -/
def retryDue (d : Direction) : Bool := d.discarding && !(d.wire.any fun f => f.seq == d.expect)
/-- The sender replays from the failed number, in order (R246). -/
def replay (d : Direction) : Direction :=
  { d with wire := d.wire ++ (d.buffer.filter fun f => decide (d.expect ≤ f.seq)).map fun f => { f with replay := true } }
/-- A retrain begins: acknowledgements on their way are discarded, and the flits wait in their buffers (R247, R340). -/
def hold (d : Direction) : Direction := { d with wire := [], unacked := 0, oldest := 0, acks := [], discarding := false, badForm := false }
/-- It has ended: every flit in the buffer is replayed, and the receiver takes them as new. -/
def resume (d : Direction) : Direction :=
  { d with wire := d.buffer.map fun f => { f with replay := false }
           expect := (d.buffer.head?.map Flit.seq).getD d.next }

end Direction

def Module.dir (m : Module) (d : Nat) : Direction := if d = 0 then m.d0 else m.d1
def Module.setDir (m : Module) (d : Nat) (x : Direction) : Module := if d = 0 then { m with d0 := x } else { m with d1 := x }
/-- One more of a 16-bit count that stays at its largest value. -/
def saturate16 (v : BitVec 16) : BitVec 16 := if v = 0xFFFF then v else v + 1
/-- A training begins (R247). DEDUCED: earlier rises are forgotten, log entry 19. -/
def Module.retrain (m : Module) (forced : Bool) : Module :=
  { m with state := .retraining, forced := forced, rises := [], d0 := m.d0.hold, d1 := m.d1.hold }
/-- A rise of REPLAYS: the sixteenth within 1 ms starts a training. -/
def Module.rise (m : Module) (tick : Nat) : Module :=
  let rises := (m.rises ++ [tick]).filter fun t => decide (tick < t + ticksPerMs)
  let m1 := { m with replays := saturate16 m.replays, rises := rises }
  if rises.length ≥ 16 then m1.retrain true else m1

namespace State

/-! Time on the links. -/

/-- Slots of a flit of a link to outside: 15 on IFL (R252), 14 on DCL (R255). -/
def linkSlots (l : Nat) : Nat := if l = 16 then 14 else 15
/-- Every active link sends in a fabric cycle. -/
def sendFlits (s : State) : State :=
  { s with
    modules := s.modules.map fun e =>
      if e.2.state = .active then (e.1, { e.2 with d0 := e.2.d0.send, d1 := e.2.d1.send }) else e
    links := s.links.map fun e => if e.2.down then e else (e.1, { e.2 with out := e.2.out.send (linkSlots e.1) }) }
/-- An acknowledgement that crosses arrives in this fabric cycle or a later one (R355). -/
def ackTick (d : Direction) (s : State) : Direction × State :=
  if d.acks.isEmpty then (d, s) else (if s.choice.1 then d.ackArrives else d, s.choice.2)
/-- Acknowledgements on every link. -/
def ackTicks (s : State) : State :=
  let s1 := s.modules.keys.foldl (fun (u : State) m =>
    let a := u.ackTick (u.module m).d0
    let b := a.2.ackTick (u.module m).d1
    b.2.onModule m fun x => { x with d0 := a.1, d1 := b.1 }) s
  s1.links.keys.foldl (fun (u : State) l =>
    let a := u.ackTick (u.link l).out
    a.2.onLink l fun x => { x with out := a.1 }) s1
/-- A receiver's acknowledgement is due, so that time waits for it (R340). -/
def ackDue (s : State) : Bool :=
  (s.modules.any fun e => e.2.state == .active && (e.2.d0.ackDue s.tick || e.2.d1.ackDue s.tick)) ||
    s.links.any fun e => !e.2.down && e.2.out.ackDue s.tick

/-! Replies at their source. -/

/-- A window of a channel outside knows the request (R252, R257): its reply is stored. -/
def outerKnown (s : State) (chan seq : Nat) : Bool := s.outerWindow.any fun w => w.1 == chan && w.2.1 == BitVec.ofNat 16 seq
/-- Whether a window of a channel outside has room (R248, R257). -/
def outerRoom (s : State) (chan : Nat) : Bool := decide (s.outerWindow.countP (fun w => w.1 == chan) < Config.requestEntries)
/-- A request of a channel outside is still to be performed (R257). -/
def outerPending (s : State) (chan : Nat) : Bool := s.reqs.any fun r => outerOf r.kind == some chan && unperformed r.stage
/-- The channel of a source agent of a peer, by the port on which it sends. -/
def peerChan (peer : Nat) (src : PeerSource) : Nat :=
  1024 + 4096 * src.port + 256 * peer + 128 * src.die + src.agent
/-- The link on which the answers of a channel outside leave: DCL for the host (R253); for a peer, the port by which the request
came. -/
def answerLink (chan : Nat) : Nat := if chan < 1024 then 16 else (chan - 1024) / 4096
/-- The reply to a request from outside leaves, with its status and so many DATA slots. -/
def sendAnswer (s : State) (chan seq status data : Nat) : State :=
  s.queueOut (answerLink chan) (.answer chan (BitVec.ofNat 16 seq) status data) (1 + data)
/-- The stored reply to a request that its window knows leaves again. -/
def answerAgain (s : State) (chan seq : Nat) : State :=
  match s.outerWindow.find? fun w => w.1 == chan && w.2.1 == BitVec.ofNat 16 seq with
  | some w => s.sendAnswer chan seq w.2.2.1 (dataSlots w.2.2.2.length)
  | none => s
/-- Notes a request of a channel outside with its stored reply, status and up to 16 bytes, and sends it; a line's data is
not stored (R248, R257). -/
def noteOuter (s : State) (chan seq status : Nat) (reply : List Byte) : State :=
  let note : Nat × BitVec 16 × Nat × List Byte := (chan, BitVec.ofNat 16 seq, status, if reply.length ≤ 16 then reply else [])
  { s with outerWindow := if s.outerKnown chan seq then s.outerWindow else s.outerWindow ++ [note] }.sendAnswer chan seq
    status (dataSlots reply.length)
/-- The bytes that the reply to a request from outside carries, and its status: 1 where one is poisoned (R256). -/
def outerReply (r : Req) : Nat × List Byte :=
  (replyStatus r, (r.result.filter fun e => decide (e.2.1 < 128)).map fun e => e.2.2.1.setWidth 8)

/-- The reply of a request is at its source. -/
def replied (s : State) (r : Req) : State :=
  match r.kind with
  | .fill _ => s
  | .claim _ _ => s
  | .sigw _ _ slot _ => s.sigwReply r slot
  | .own k p => match r.ops with
    | [o] => (s.dropReq r.id).completeOp r.core r.counted o
        (some (p, if r.via.isSome then r.ok else (s.arbiter k).owner == dieOf r.core))
    | _ => s.dropReq r.id
  | .engRead op i => match s.engineOp r.core op with
    | some o => (s.dropReq r.id).setOp r.core { o with reads := o.reads.put i (carried r.result) }
    | none => s.dropReq r.id
  | .engWrite op j _ _ _ => match s.engineOp r.core op with
    | some o =>
      -- a line for the host is written when the last of its pieces is (R256)
      if o.written.contains j || ((s.dropReq r.id).reqs.any fun q => q.core == r.core && writesLine op j q.kind) then s.dropReq r.id
      else (s.dropReq r.id).noteWritten r.core o j
    | none => s.dropReq r.id
  | .writeBack _ _ _ => s.backDone r
  | .sum _ => s.backDone r
  | .outer chan seq _ => (s.dropReq r.id).noteOuter chan seq.toNat (outerReply r).1 (outerReply r).2
  | _ => s.deliver r

/-- A peer or the host has answered a request, or refused it: `none` (R251, R256); a `sigw` that is not met has an answer that
is not empty (R228). The answer is at its source, or crosses back from the die of the link. -/
def answered (s : State) (r : Req) (answer : Option (List Byte)) : State :=
  let met := !State.isSigw r.kind || answer == some []
  let q : Req := { r with result := outerResult r answer, ok := answer.isSome && met }
  let home : State := (s.setReq { q with stage := .here }).replied { q with stage := .here }
  match r.stage with
  | .away l => if answer.isSome && linkDie l != r.srcDie then s.sendReply q (linkDie l) else home
  | _ => home
/-- The device owes an acknowledgement of a reply that has come by a link (R252, R257). -/
def noteReceipt (s : State) (r : Req) (l : Nat) : State :=
  { s with receipts := s.receipts ++ [{ dest := r.dest, link := l, agent := r.agent, srcDie := r.srcDie, seq := r.seq }] }

/-! Requests that arrive at a die. -/

/-- The stored reply to a request that was executed is sent again (R248). -/
def replyAgain (s : State) (die : Nat) (w : Window) : State :=
  s.queueMsg (s.linkFor (agentModule w.agent.toNat)) die (.reply w.id w.head) w.slots
/-- A request enters a die (R192, R240, R241, R250): answered by the arbiter, held by a hand-over, at its slice in the next fabric
cycle, in which those that a slice receives in one cycle all stand there (R227), on its way out by the die's port, or sent on where
the die's port no longer carries the stack. -/
def enterDie (s : State) (die : Nat) (r : Req) : State :=
  match r.dest with
  | .dev =>
    if atSlice r.kind = true ∧ (s.arbiter (stackOf r.pa)).step ≠ 0 ∧ neverHeld r.kind = false then
      s.setReq { r with stage := .held, arrives := s.tick + 1 }
    else if s.route die (stackOf r.pa) = die then
      (if atSlice r.kind then s.setReq { r with stage := .port, arrives := s.tick + 1 } else s.sendReply (s.askArbiter r) die)
    else
      let m := s.linkFor (agentModule r.agent.toNat)
      (s.queueMsg m die (reqMsg die r) (reqSlots r.kind)).setReq { r with stage := .out m }
  | d => match s.exitLink d die with
    | some l => (s.queueOut l (outMsg r) (outSlots r.dest r.kind)).setReq { r with stage := .link l }
    | none => s.setReq { r with stage := .away 17 }
/-- A reply is queued, or in flits that the other die has still to receive in order. -/
def replyTravels (s : State) (id : Nat) : Bool :=
  let mine (m : Msg) : Bool := match m with
    | .reply i _ => i == id
    | _ => false
  let in_ (d : Direction) : Bool := (d.queue.any fun q => mine q.1) ||
    d.buffer.any fun f => decide (d.expect ≤ f.seq) && f.body.any fun b => mine b.1
  s.modules.any fun e => in_ e.2.d0 || in_ e.2.d1
/-- A request that a die's window knows arrives again (R248): a line read whose reply has been lost is performed again, any
other is answered again, also a line read whose first reply is still on its way, which alone counts (R341). DESIGN CHOICE: a line
read that is performed again enters its slice also when all of the slice's entries are taken, log entry 53. -/
def arriveKnown (s : State) (die : Nat) (r : Req) (w : Window) : State :=
  match r.stage with
  | .back _ => if w.line && !s.replyTravels r.id then s.enterDie die r else s.replyAgain die w
  | _ => s.replyAgain die w
/-- A request arrives at a die: executed once. One that has been executed is known by its SEQ, also after its reply has been
delivered; one that still waits there is known (R248). -/
def arriveReq (s : State) (die id : Nat) : State :=
  match s.req? id with
  | some r => match s.windows.find? (windowOf die r) with
    | some w => s.arriveKnown die r w
    | none => match r.stage with
      | .out _ => s.enterDie die r
      | _ => s
  | none => match s.windows.find? fun w => w.die == die && w.id == id with
    | some w => s.replyAgain die w
    | none => s
/-- The bytes that an errand reads: a line, a word of its size, or a table entry (R245). -/
def errandBytes (e : Errand) : Nat :=
  if e.kind = 0x01 then 128 else if e.kind = 0x0B then 16 else if e.kind = 0x03 then 2 ^ e.op.toNat else 0
/-- The reply to an errand, with STATUS 1 where it read poisoned bytes (R245). -/
def errandReply (e : Errand) (n : Nat) (bad : Bool) : Errand :=
  { e with kind := 0x80, pa := bad.toNat, data := n, reply := none }
/-- An errand's header slot, from die `d`. -/
def errandHeader (d : Nat) (e : Errand) : BitVec 128 := headerSlot e.kind e.agent e.seq d e.ty e.op e.data e.pa
/-- An errand arrives at a die with so many DATA slots in its reply: the die's window notes it, and the reply leaves, again where
the window knows it (R248). -/
def arriveErrand (s : State) (die : Nat) (e : Errand) (n : Nat) : State :=
  let reply := errandReply e n (s.homePoisoned e.pa (errandBytes e))
  let w : Window := { die := die, agent := e.agent, srcDie := 1 - die, seq := e.seq, id := s.nextId,
                      line := [0x01, 0x09, 0x0B].contains e.kind, slots := 1 + n, head := errandHeader die reply, reply := [] }
  let known := s.windows.any fun x => x.die == die && x.agent == e.agent && x.srcDie == 1 - die && x.seq == e.seq
  let s1 : State := if known then s else { s with
    windows := s.windows ++ [w], nextId := s.nextId + 1,
    errands := s.errands.map fun a => if a.die = 1 - die ∧ a.stage = .sent ∧ a.errand = e then { a with stage := .known } else a }
  s1.queueMsg (s.linkFor (agentModule e.agent.toNat)) die (.errand reply) (1 + n)
/-- Its reply arrives at its source. -/
def errandDone (s : State) (die : Nat) (e : Errand) : State :=
  { s with errands := s.errands.filter fun a =>
      !(a.die == die && a.errand.agent == e.agent && a.errand.seq == e.seq && a.stage != .held) }
/-- A request of a window's entry whose reply its source does not have. -/
def awaitsReply (die : Nat) (w : Window) (r : Req) : Bool := windowOf die r w && match r.stage with
  | .back _ => true
  | _ => false
/-- The entries that a window acknowledge frees: those up to its SEQ (R248). DEDUCED: but for one whose reply is on its way, a
`sigw` released since the acknowledge left, log entry 89. -/
def freedBy (s : State) (die : Nat) (agent : BitVec 7) (seq : BitVec 16) (w : Window) : Bool :=
  w.die == die && w.agent == agent && w.srcDie == 1 - die && decide ((seq - w.seq).toNat < 2 ^ 15) &&
    !(s.reqs.any (awaitsReply die w))
/-- A message arrives at a die; a reply counts once (R341), and an acknowledgement frees window entries (R248). -/
def arriveMsg (s : State) (die : Nat) (m : Msg) : State :=
  match m with
  | .req id _ => s.arriveReq die id
  | .reply id _ => match s.req? id with
    | some r => match r.stage with
      | .back _ => s.setReq { r with stage := .here }
      | _ => s
    | none => s
  | .ack agent _ seq => releaseWaiters { s with windows := s.windows.filter fun w => !(s.freedBy die agent seq w) }
  | .errand e => match e.reply with
    | some n => s.arriveErrand die e n
    | none => s.errandDone die e
  | .answer _ _ _ _ => s
/-- A message has left the device by a link: a request is at the peer or the host. -/
def leaves (s : State) (l : Nat) (m : Msg) : State :=
  match m with
  | .req id _ => match s.req? id with
    | some r => match r.stage with
      | .link _ => s.setReq { r with stage := .away l }
      | _ => s
    | none => s
  | _ => s

/-! Modules. -/

/-- The header slot with which a message begins on a module, from die `d` (R245). -/
def msgHeader (d : Nat) (m : Msg) : BitVec 128 :=
  match m with
  | .req _ head => head
  | .reply _ head => head
  | .ack agent _ seq => headerSlot 0x81 agent seq d 0 0 0 0
  | .errand e => errandHeader d e
  | .answer _ seq status data => headerSlot 0x80 0 seq d 0 0 data status
/-- The header slot with which a message begins on a link to outside (R245, R252, R256). In the answer to a request of the host
SRC is its channel and DIE 0; in one to a peer, the peer's agent and its die. -/
def outMsgHeader (m : Msg) : BitVec 128 :=
  match m with
  | .req _ head => head
  | .ack agent die seq => headerSlot 0x81 agent seq die 0 0 0 0
  | .answer chan seq status data =>
    headerSlot 0x80 (BitVec.ofNat 7 chan) seq (if chan < 1024 then 0 else chan / 128 % 2) 0 0 data status
  | _ => headerSlot 0x80 0 0 0 0 0 0 0
/-- How far a request's SEQ is behind its source's next one, from the oldest on. -/
def seqAge (s : State) (agent : BitVec 7) (die : Nat) (seq : BitVec 16) : Nat := (seq - s.seqs.get 0 (agent.toNat + 128 * die)).toNat
/-- A request that a module carries and whose source has no reply. -/
def openOn (m : Nat) (r : Req) : Bool := r.via == some m && r.stage != .here
/-- What the sources of a module send again, each source's in SEQ order (R247): every request whose reply it has not received, with
its place in that order, the die that sends it and its slots. -/
def unanswered (s : State) (m : Nat) : List (Nat × Nat × Msg × Nat) :=
  sortBy (fun a b => decide (a.1 ≤ b.1))
    (((s.reqs.filter (openOn m)).map fun r => (s.seqAge r.agent r.srcDie r.seq, r.srcDie, reqMsg r.srcDie r, reqSlots r.kind)) ++
      (s.errands.filter fun a => a.stage != .held && a.via == m).map fun a =>
        (s.seqAge a.errand.agent a.die a.errand.seq, a.die, .errand a.errand, 1 + a.errand.data))
/-- Where a request stands whose module has gone down. -/
def movedTo (alt : Nat) : Stage → Stage
  | .out _ => .out alt
  | .back _ => .back alt
  | g => g
/-- Messages of a direction that no request's re-sending replaces. -/
def carriedOver (d : Direction) : List (Msg × Nat) :=
  ((d.buffer.filter fun f => decide (d.expect ≤ f.seq)).flatMap (fun f => f.body.map fun b => (b.1, b.2.1)) ++ d.queue).filter
    fun x => match x.1 with
      | .ack _ _ _ => true
      | _ => false
/-- A module goes down (R247): its traffic moves to its alternate, and each source sends again there, in SEQ order, the
requests without a reply; while its alternate is down too, the device fails (R301). -/
def moduleDown (s : State) (m : Nat) : State :=
  let x := s.module m
  let s1 := s.onModule m fun y =>
    { y with state := .down, width := 3, forced := false, rises := [], d0 := .reset, d1 := .reset }
  let alt := (m + 12) % 24
  let s2 := (s.unanswered m).foldl (fun (u : State) q => u.queueMsg alt q.2.1 q.2.2.1 q.2.2.2) { s1 with
    reqs := s.reqs.map fun r => if openOn m r then { r with via := some alt, stage := movedTo alt r.stage } else r
    errands := s.errands.map fun a => if a.stage != .held && a.via == m then { a with via := alt } else a }
  let s3 := (carriedOver x.d0).foldl (fun (u : State) q => u.queueMsg alt 0 q.1 q.2) s2
  let s4 := (carriedOver x.d1).foldl (fun (u : State) q => u.queueMsg alt 1 q.1 q.2) s3
  let s5 := s4.tell 3 m
  if s5.phase = readyPhase ∧ s5.bothDown m = true then s5.fatal 3 0 m else s5
/-- A port goes down, and Knanos is told (R245, R252); on DCL that is the loss of the link, which is fatal (R256, R301). -/
def linkDown (s : State) (l : Nat) : State :=
  let s1 := s.tell 9 l
  if l ≠ 16 then s1.onLink l fun x => { x with down := true } else if s.phase = readyPhase then s1.fatal 4 0 0 else s1

/-- A flit of a direction is received by the other die (R245, R246): whole when its CRC holds and its header slots obey
R245. A replayed one that fails its CRC starts a training; one that repeats a protocol error takes the module down. -/
def receiveFlit (s : State) (m d : Nat) (crcOk formOk : Bool) : State :=
  let x := s.module m
  match (x.dir d).head with
  | none => s.onModule m fun y => y.setDir d ((x.dir d).receive s.tick true).1
  | some f =>
    let form := formOk && f.body.all fun b => headerOk (msgHeader d b.1)
    let r := (x.dir d).receive s.tick (crcOk && form)
    if crcOk && form then r.2.foldl (fun u msg => u.arriveMsg (1 - d) msg) (s.onModule m fun y => y.setDir d r.1)
    else
      let s1 := s.onModule m fun y => Module.setDir { y with crcErr := saturate16 y.crcErr } d { r.1 with badForm := crcOk }
      if !f.replay then s1
      else if crcOk && (x.dir d).badForm then s1.moduleDown m
      else s1.onModule m fun y => y.retrain false
/-- A flit of a link to outside is received there (R252, R255, R257), whole or failed as on a module; a protocol error that its
replay repeats takes the link down (R245, R256). -/
def receiveOut (s : State) (l : Nat) (crcOk formOk : Bool) : State :=
  let x := (s.link l).out
  match x.head with
  | none => s.onLink l fun y => { y with out := (x.receive s.tick true).1 }
  | some f =>
    let form := formOk && f.body.all fun b => headerOkOut l (outMsgHeader b.1)
    let r := x.receive s.tick (crcOk && form)
    if crcOk && form then r.2.foldl (fun u msg => u.leaves l msg) (s.onLink l fun y => { y with out := r.1 })
    else
      let s1 := s.onLink l fun y => { y with out := { r.1 with badForm := crcOk } }
      if f.replay && crcOk && x.badForm then s1.linkDown l else s1
/-- A flit from outside is received: one that fails, and all later ones, are discarded until the replay. -/
def receiveIn (s : State) (l : Nat) (crcOk formOk : Bool) : State :=
  let x := s.link l
  if x.discarding then s
  else if crcOk && formOk then s.onLink l fun y => { y with expect := y.expect + 1, badForm := false }
  else if crcOk && x.badForm then s.linkDown l
  else s.onLink l fun y => { y with discarding := true, badForm := crcOk }

end State

/-- `REPLY` (R28, R341): the answer of a peer or the host comes from outside, in the order of its channel (R254, R257); a
reply on the device is delivered once. -/
def execReply (id : Nat) (outer : Option (List Byte)) (s : State) : Result :=
  match s.req? id with
  | none => .next s
  | some r =>
    match r.stage with
    | .here => .next (s.replied r)
    | .away l =>
      if decide (l ≤ 16) && s.unblocked r && !(s.link l).discarding && !(s.link l).down then .next ((s.noteReceipt r l).answered r outer) else .next s
    | _ => .next s
/-- `PEER_TIMEOUT` (R251): no reply for 1 ms is a refusal. DESIGN CHOICE: a request whose message has not left its own device by
then goes no further than the die that it reaches, log entry 25. -/
def execPeerTimeout (id : Nat) (s : State) : Result :=
  let late (r : Req) : Result := if s.clock ≥ r.sent + 600000 then .next (s.answered r none) else .next s
  match s.req? id with
  | some r => match r.dest, r.stage with
    | .peer _, .out _ => late r
    | .peer _, .link _ => late r
    | .peer _, .away _ => late r
    | _, _ => .next s
  | none => .next s
/-- Window acknowledges (R248, R252, R257), one for all requests up to a SEQ. -/
def State.upTo (seq : Nat) (q : BitVec 16) : Bool := decide ((BitVec.ofNat 16 seq - q).toNat < 2 ^ 15)
/-- The device acknowledges on a link to outside what a source agent of a die has received there, once every request of it up
to the SEQ has its reply, or is a `sigw`, which may be waiting there (DEDUCED: log entry 89). -/
def State.acknowledgeOut (s : State) (l agent die seq : Nat) : State :=
  let mine (w : Receipt) : Bool := w.link == l && w.agent.toNat == agent && w.srcDie == die
  let open_ (r : Req) : Bool := r.dest != .dev && r.agent.toNat == agent && r.srcDie == die && !State.isSigw r.kind && upTo seq r.seq && (match r.stage with
    | .out _ => true
    | .link _ => true
    | .away _ => true
    | _ => false)
  if (s.receipts.any fun w => mine w && w.seq == BitVec.ofNat 16 seq) && !(s.reqs.any open_) then
    { s with receipts := s.receipts.filter fun w => !(mine w && upTo seq w.seq) }.queueOut l
      (.ack (BitVec.ofNat 7 agent) die (BitVec.ofNat 16 seq)) 1
  else s
/-- `WINDOW_ACKNOWLEDGE` (R248, R252, R257): the source die sends a window acknowledge, once every request of the agent up to
the SEQ has its reply, or is a `sigw` that waits at its slice (DEDUCED: log entry 89); `die` is the receiving die. 2 stands for
the windows of host channels and peers, which outside acknowledges; 3 + l for the acknowledge of an agent, plus 128 for one of
die 1, that leaves by the link l. -/
def execWindowAcknowledge (die agent seq : Nat) (s : State) : Result :=
  let upTo := State.upTo seq
  if die = 2 then .next { s with outerWindow := s.outerWindow.filter fun w => !(w.1 == agent && upTo w.2.1) }
  else if 3 ≤ die then .next (s.acknowledgeOut (die - 3) (agent % 128) (agent / 128) seq)
  else if (s.reqs.any fun r => r.agent.toNat == agent && r.srcDie == 1 - die && r.via.isSome && upTo r.seq && r.stage != .here &&
        r.stage != .waiter) ||
      s.errands.any fun a => a.errand.agent.toNat == agent && a.die == 1 - die && a.stage != .held && upTo a.errand.seq then
    .next s
  else .next (s.queueMsg (s.linkFor (State.agentModule agent)) (1 - die)
    (.ack (BitVec.ofNat 7 agent) (1 - die) (BitVec.ofNat 16 seq)) 1)
/-- `FLIT_RECEIVE` (R245, R246, R252, R255): on module m, direction 0 from die 0; 24 + l is the link l to outside, whose
direction 0 leaves this device. Nothing is received while an acknowledgement is due (R340). -/
def execFlitReceive (m dir : Nat) (crcOk formOk : Bool) (s : State) : Result :=
  if m < 24 then
    (if (s.module m).state = .active ∧ dir < 2 ∧ ((s.module m).dir dir).ackDue s.tick = false then
      .next (s.receiveFlit m dir crcOk formOk)
    else .next s)
  else if m ≤ 40 then
    (if (s.link (m - 24)).down = true ∨ (dir = 0 ∧ (s.link (m - 24)).out.ackDue s.tick = true) then .next s
    else if dir = 0 then .next (s.receiveOut (m - 24) crcOk formOk)
    else if dir = 1 then .next (s.receiveIn (m - 24) crcOk formOk)
    else .next s)
  else .next s
/-- `RETRY_REQUEST` (R246, R247): the sender replays from the failed number, in order; on a module REPLAYS rises. -/
def execRetryRequest (m dir : Nat) (s : State) : Result :=
  if m < 24 then
    (let q := (s.module m).dir dir
     if (s.module m).state = .active && decide (dir < 2) && q.retryDue then
       .next (s.onModule m fun y => (y.setDir dir q.replay).rise s.tick)
     else .next s)
  else if m ≤ 40 then
    (if dir = 0 ∧ (s.link (m - 24)).out.retryDue = true then
      .next (s.onLink (m - 24) fun x => { x with out := x.out.replay })
    else if dir = 1 then .next (s.onLink (m - 24) fun x => { x with discarding := false })
    else .next s)
  else .next s
/-- `ACK_TIMEOUT` (R340): the receiver acknowledges the flits that it has received in order. -/
def execAckTimeout (m dir : Nat) (s : State) : Result :=
  if m < 24 then
    (if (s.module m).state = .active ∧ dir < 2 ∧ ((s.module m).dir dir).ackDue s.tick = true then
      .next (s.onModule m fun y => y.setDir dir (y.dir dir).acknowledge)
    else .next s)
  else if m ≤ 40 then
    (if dir = 0 ∧ (s.link (m - 24)).out.ackDue s.tick = true then
      .next (s.onLink (m - 24) fun x => { x with out := x.out.acknowledge })
    else .next s)
  else .next s

namespace State

/-- The width that a training settles on: 0 x64, 1 the lower half, 2 the upper half (R247). -/
def trainedWidth (old : BitVec 2) (forced lowOk highOk : Bool) : Option (BitVec 2) :=
  match lowOk, highOk with
  | true, true => some (if forced then 1 else if old = 3 then 0 else old)
  | true, false => some 1
  | false, true => some 2
  | false, false => none
/-- A training of a module ends. -/
def trainModule (s : State) (m : Nat) (lowOk highOk : Bool) : State :=
  let x := s.module m
  let up (v : BitVec 8) : BitVec 8 := if v = 0xFF then v else v + 1
  let count := if x.state = .retraining then up x.retrains else x.retrains
  match trainedWidth x.width x.forced lowOk highOk with
  | none => (s.onModule m fun y => { y with retrains := count }).moduleDown m
  | some w =>
    let y := { x with state := ModState.active, width := w, forced := false, retrains := count,
                      d0 := x.d0.resume, d1 := x.d1.resume }
    s.onModule m fun _ => if x.d0.buffer.isEmpty && x.d1.buffer.isEmpty then y else y.rise s.tick

end State

/-- `MODULE_RETRAIN_COMPLETE` (R247). -/
def execModuleRetrainComplete (m : Nat) (lowOk highOk : Bool) (s : State) : Result :=
  match (s.module m).state with
  | .retraining => .next (s.trainModule m lowOk highOk)
  | _ => .next s

end Sys2Proof.Machine
end

