-- ==== Sys2Proof/Machine/HandOver.lean ====
section
/-! DEFINITION. Hand-over of a stack between the dies (R191, R241, R242), and accesses from peers and the host (R251 to
R257). -/

namespace Sys2Proof.Machine
namespace State

/-! Hand-over. -/

/-- Every core has issued what it issues in this cycle. -/
def allIssued (s : State) : Bool := s.cores.all fun e => s.issueDone e.1 && !(s.coreDue e.1)
/-- The `stkgive` requests for a stack that this cycle decides, the lowest core's first in issue order. -/
def gives (s : State) (k : Nat) : List (Req × Nat) :=
  let l := s.reqs.filterMap fun r => match r.kind with
    | .give stack die _ => if stack = k ∧ r.stage = .port then some (r, die) else none
    | _ => none
  (List.range Config.cores).flatMap fun c => l.filter fun x => x.1.core == c
/-- A `stkgive` ends with its predicate, which is written when S reports it (R28, R191). -/
def giveEnds (s : State) (r : Req) (v : Bool) : State :=
  match r.kind, r.ops with
  | .give _ _ p, [o] => (s.dropReq r.id).completeOp r.core r.counted o (some (p, v))
  | _, _ => s.dropReq r.id
/-- The requests that have left for the port of stack k and reach it after a hold begins are held (R241 step 1). -/
def holdNew (s : State) (k : Nat) : State :=
  { s with reqs := s.reqs.map fun r =>
      if r.stage = .port ∧ r.dest = .dev ∧ stackOf r.pa = k ∧ s.tick < r.arrives ∧ neverHeld r.kind = false then
        { r with stage := .held } else r }
/-- The arbiter accepts the first of the requests; every other ends false (R191, R241 step 0). -/
def decideGive (s : State) (k : Nat) : State :=
  match s.gives k with
  | [] => s
  | (r, die) :: rest =>
    let s1 := rest.foldl (fun u x => u.giveEnds x.1 false) s
    let a := s1.arbiter k
    if a.step ≠ 0 then s1.giveEnds r false
    else
      let a1 : Arbiter := { a with to_ := die, step := 1, core := r.core, req := r.id }
      { s1.setReq { r with stage := .back 24 } with arbiters := s1.arbiters.put k a1 }.holdNew k
/-- A device line on a stack. -/
def onStack (k : Nat) (dest : Dest) (pa : Nat) : Bool := dest == .dev && stackOf pa == k
/-- Every core does something with each of its frames on a stack. -/
def eachFrame (s : State) (k : Nat) (f : State → Nat → Nat → State) : State :=
  s.cores.foldl (fun u e => (e.2.frames.filter fun x => onStack k x.2.dest x.2.line).foldl (fun v x => f v e.1 x.1) u) s
/-- The ways of a core on a stack: crew, register, way. -/
def waysOnStack (c : Core) (k : Nat) : List (Nat × Nat × Nat × Way) :=
  c.crews.flatMap fun u => u.2.lregs.flatMap fun r => r.2.ways.filterMap fun w =>
    match w.2.kind with
    | .home => if onStack k w.2.dest w.2.pa then some (u.1, r.1, w.1, w.2) else none
    | .frame _ => if onStack k w.2.dest w.2.pa then some (u.1, r.1, w.1, w.2) else none
    | _ => none
/-- A way that a hand-over meets turns stale, or will when its fill arrives (R221, R241 step 3). -/
def closeWay (s : State) (c : Nat) (w : Nat × Nat × Nat × Way) : State :=
  let x := (s.core c).way w.1 w.2.1 w.2.2.1
  match x.kind with
  | .home => s.staleWay c w.1 w.2.1 w.2.2.1
  | .frame f =>
    let filling := match AMap.find? (s.core c).frames f with
      | some y => y.fill.isSome
      | none => false
    if filling then s.onCore c fun k => k.setWay w.1 w.2.1 w.2.2.1 { x with moved := true } else s.staleWay c w.1 w.2.1 w.2.2.1
  | _ => s
/-- Step 3 on both dies. -/
def closeStack (s : State) (k : Nat) : State :=
  s.cores.foldl (fun u e => (waysOnStack e.2 k).foldl (fun v w => v.closeWay e.1 w) u) s
/-- Step 4: the giving die's abandoned frames of the stack are released. -/
def releaseReplicas (s : State) (k : Nat) : State :=
  s.eachFrame k fun u c f =>
    match AMap.find? (u.core c).frames f with
    | some x => if dieOf c = (u.arbiter k).owner ∧ x.refs = 0 then u.onCore c fun y => { y with frames := y.frames.del f } else u
    | none => u
/-- Step 5: translations that carry the stack's route are dropped on both dies. -/
def dropRoutes (s : State) (k : Nat) : State := s.keepTlb fun e => e.dest != .dev || stackOf (pteAddr e.leaf) != k
/-- Opens that wait for a frame are served on every core (R220). -/
def serveAll (s : State) : State := s.cores.keys.foldl (fun u c => u.serveFrames c) s
/-- Hand-over control of the giving die tells the other die of a step, which answers (R244). -/
def controlMessage (s : State) (k : Nat) : State :=
  s.sendErrand (s.arbiter k).owner 99 codeControl (k * 2 ^ 36) 0 0
/-- No message of hand-over control is still to leave or to arrive, nor a reply to one: a step waits for its traffic (R242). -/
def controlQuiet (s : State) : Bool :=
  let is99 (m : Msg) : Bool := match m with
    | .errand e => e.agent == 99
    | _ => false
  let clear (d : Direction) : Bool := !(d.queue.any fun q => is99 q.1) &&
    !(d.buffer.any fun f => decide (d.expect ≤ f.seq) && f.body.any fun b => is99 b.1)
  !(s.errands.any fun a => a.errand.agent == 99) && s.modules.all fun e => clear e.2.d0 && clear e.2.d1
def setStep (s : State) (k n : Nat) : State := { s with arbiters := s.arbiters.put k { s.arbiter k with step := n } }
/-- Step 7: the held requests leave along the new route, in arrival order; one that must cross, and finds its source's window full,
waits at its source (R248). -/
def releaseHeld (s : State) (k giving : Nat) : State :=
  let held := s.reqs.filter fun r => r.stage == .held && onStack k r.dest r.pa
  (sortBy (fun a b => sooner a b || a.id == b.id) held).foldl (fun u r =>
    if (u.arbiter k).owner = giving ∨ r.srcDie ≠ giving then u.setReq { r with stage := .port }
    else
      let n := u.numbered r
      let m := u.linkFor (agentModule r.agent.toNat)
      if u.unacknowledged r.agent r.srcDie ≥ Config.requestEntries then u.setReq { r with stage := .source }
      else (n.2.queueMsg m giving (reqMsg giving n.1) (reqSlots r.kind)).setReq { n.1 with stage := .out m, via := some m }) s
/-- Steps 6 and 7 (R241). -/
def switchStack (s : State) (k : Nat) : State :=
  let a := s.arbiter k
  let n : BitVec 24 := if a.hcount = 0xFFFFFF then a.hcount else a.hcount + 1
  let s1 := { s with
    arbiters := s.arbiters.put k { a with owner := a.to_, step := 0, hcount := n }
    routes := (s.routes.put k a.to_).put (8 + k) a.to_ }
  let s2 := s1.releaseHeld k a.owner
  match s2.req? a.req with
  | some r => s2.giveEnds r true
  | none => s2

/-! Accesses from outside. -/

/-- Bytes of an access from outside. -/
def outerSize : OuterOp → Nat
  | .read size => size.bytes
  | .write size _ => size.bytes
  | .readLine => 128
  | .writeLine _ _ => 128
  | .atom o _ _ => o.bytes
  | .red o _ => o.bytes
  | .sig t _ => if t.wide then 8 else 4
  | .sigw t _ => if t.wide then 8 else 4
/-- Bytes that a reply carries: place, byte, and whether it is poisoned. -/
def bytesOf (l : Line) (bad : Nibbles) (off n : Nat) : List (Nat × Nat × W32 × Bool) :=
  (List.range n).map fun i => (0, i, (l.byte (off + i)).setWidth 32, bad &&& nibbleMask (off + i) 1 != 0)
/-- A home request from outside this device, as one event at its home (R251, R253, R256). -/
def outerPerform (s : State) (r : Req) (op : OuterOp) : State :=
  let pa := r.pa
  let off := pa % 128
  let n := outerSize op
  let w := lineAddr pa + (off - off % n)
  match op with
  | .read _ => s.performed { r with result := bytesOf (s.homeLine pa) (s.homePoison pa) off n }
  | .readLine => s.performed { r with result := bytesOf (s.homeLine pa) (s.homePoison pa) 0 128 }
  | .write _ data => (s.homeStore pa (nibbleMask off n) 0 ((0 : Line).write off n (numOfBytes (data.take n)))).performed r
  | .writeLine data mask =>
    let m : Nibbles := (mask.zipIdx).foldl (fun (x : Nibbles) b => if b.1 then x ||| ((1#256) <<< b.2) else x) 0
    (s.homeStore pa m 0 (lineOfBytes data)).performed r
  | .atom o a b =>
    let old := bytesOf ((s.foldLine pa).homeLine pa) (s.homePoison pa) (w % 128) n
    (if s.wordPoisoned w n then s else s.homeUpdate w n fun x => o.apply x a b).performed { r with result := old }
  | .red o a => (s.updateWord n o.combine w a).performed r
  | .sig _ a => (s.updateWord n (fun x v => x + v) w a).performed r
  | .sigw _ least => s.sigwRead r w n least
/-- Bits of a peer's entry (R249). -/
def peerStacks (e : W64) : BitVec 8 := e.extractLsb' 12 8
/-- Whether a peer's entry allows a request, by its kind: a `sigw` is a read (R190, R245, R251). -/
def peerAllows (e : W64) (pa : Nat) (op : OuterOp) : Bool :=
  e.getLsbD 0 && (peerStacks e).getLsbD (stackOf pa) && match op with
    | .read _ => e.getLsbD 1
    | .readLine => e.getLsbD 1
    | .write _ _ => e.getLsbD 2
    | .writeLine _ _ => e.getLsbD 2
    | .atom _ _ _ => e.getLsbD 3
    | .red _ _ => e.getLsbD 3
    | .sig _ _ => e.getLsbD 3
    | .sigw _ _ => e.getLsbD 1
/-- Whether it returns data or an outcome: such a one that is refused returns poison, and any other is dropped and
reported (R251). -/
def outerReturns : OuterOp → Bool
  | .read _ => true
  | .readLine => true
  | .atom _ _ _ => true
  | .sigw _ _ => true
  | _ => false
/-- An access of sizes 0 to 4 that crosses a line (R256). -/
def crosses (pa : Nat) (op : OuterOp) : Bool := match op with
  | .readLine => false
  | .writeLine _ _ => false
  | _ => decide (pa % 128 + outerSize op > 128)
/-- The request of a channel outside that is on its way or waits on this device. -/
def outerReq (s : State) (chan seq : Nat) : Option Req :=
  s.reqs.find? fun r => match r.kind with
    | .outer c q _ => c == chan && q == BitVec.ofNat 16 seq
    | _ => false
/-- What a request that comes from outside does (R251 to R253, R257): once, it enters by its die as a request of the die's DCL or
IFL agent, which then waits to be performed at its home; a request that the window knows, other than a line's read, is
answered again. `answer` gives the reply of one that is not sent to a home. -/
def outerAccess (s : State) (chan seq agent die pa : Nat) (op : OuterOp) (answer : Option State) : State :=
  let dup := s.outerKnown chan seq
  if dup && op != .readLine then s.answerAgain chan seq
  else if (s.outerReq chan seq).isSome || (!dup && !s.outerRoom chan) then s
  else match answer with
    | some t => t
    | none =>
      let r := s.newReqOf 0 agent die [] (.outer chan (BitVec.ofNat 16 seq) op) .dev pa []
      r.2.sendReq r.1
/-- One that waits on this device is performed as soon as it may be, whatever has become of the link by which it came; else f
takes one that comes by its link (R251, R326). -/
def outerStep (s : State) (chan seq : Nat) (f : Result) : Result :=
  match (s.outerReq chan seq).filter fun r => s.performable r with
  | some r => match r.kind with
    | .outer _ _ op => .next (s.outerPerform r op)
    | _ => .next s
  | none => f

end State

/-- `HAND_OVER_CONTROL` (R191, R241): the arbiter of a stack decides the requests of a cycle, once every core has issued. -/
def execHandOverControl (stack : Nat) (s : State) : Result :=
  if s.allIssued then .next (s.cores.keys.foldl (fun (u : State) c => u.closeIssue c) (s.decideGive stack)) else .next s
/-- `HANDOVER_DRAIN` (R241 steps 1, 2): once what passed before the hold is performed and replied, frames and partials are
written. -/
def execHandoverDrain (stack : Nat) (s : State) : Result :=
  if (s.arbiter stack).step = 1 ∧ s.controlQuiet = true ∧ (s.reqs.any fun r => State.onStack stack r.dest r.pa &&
      (match r.stage with
        | .port => true
        | .back m => decide (m < 24)
        | _ => false)) = false then
    .next (((s.eachFrame stack fun u c f => u.writeFrame c f []).controlMessage stack).setStep stack 2)
  else .next s
/-- `HANDOVER_CLOSE` (R241 steps 3 to 5): tokens return, so it comes before the end of a cycle's issue (R222). -/
def execHandoverClose (stack : Nat) (s : State) : Result :=
  if (s.arbiter stack).step = 2 ∧ s.controlQuiet = true ∧ (s.cores.any fun e => s.closedNow e.1) = false ∧
      (s.reqs.any fun r => State.neverHeld r.kind && State.unperformed r.stage && State.onStack stack r.dest r.pa) = false then
    .next (((((s.closeStack stack).releaseReplicas stack).dropRoutes stack).controlMessage stack).setStep stack 5).serveAll
  else .next s
/-- `HANDOVER_SWITCH` (R241 steps 6, 7). -/
def execHandoverSwitch (stack : Nat) (s : State) : Result :=
  if (s.arbiter stack).step = 5 ∧ s.controlQuiet = true then .next ((s.controlMessage stack).switchStack stack) else .next s

/-- `PEER_REQUEST` (R251, R252): it enters by the die of its port (R244) and is checked against the sender's entry. DEDUCED: its
reply says 1, poisoned, where it is refused and returns something, 0 where it is dropped, log entry 64. -/
def execPeerRequest (peer : Nat) (src : PeerSource) (seq pa : Nat) (op : OuterOp) (s : State) : Result :=
  let chan := State.peerChan peer src
  let l := src.port
  s.outerStep chan seq <|
  if 16 ≤ peer ∨ 16 ≤ l ∨ 2 ≤ src.die ∨ 128 ≤ src.agent ∨ (s.link l).discarding = true ∨ (s.link l).down = true ∨
      (s.phase = fatalPhase ∧ State.outerWrites op = true) then .next s
  else
    let answer : Option State :=
      if State.peerAllows (s.peers.get 0 peer) pa op then none
      else some ((if State.outerReturns op then s else s.tell 4 peer).noteOuter chan seq (if State.outerReturns op then 1 else 0) [])
    if answer.isNone && !backed pa then .fault .unbackedPeerAddress
    else .next (s.outerAccess chan seq 98 (State.linkDie l) pa op answer)

/-- `HOST_MEMORY_READ` (R253, R256, R257): one that crosses a line is answered with status 2; an unbacked address reads
zeros. -/
def execHostMemoryRead (chan seq pa : Nat) (op : OuterOp) (s : State) : Result :=
  s.outerStep chan seq <|
  if (s.link 16).discarding then .next s
  else
    let zeros : Option State := if backed pa then none else some (s.noteOuter chan seq 0 (List.replicate (State.outerSize op) 0))
    match op with
    | .read _ => .next (s.outerAccess chan seq 97 0 pa op (if State.crosses pa op then some (s.noteOuter chan seq 2 []) else zeros))
    | .readLine => .next (s.outerAccess chan seq 97 0 (lineAddr pa) op zeros)
    | _ => .next s
/-- `HOST_MEMORY_WRITE` (R253, R256, R257): a write that crosses a line or meets an unbacked address is not performed.
None is after a fatal error (R326). DEDUCED: a write that crosses is answered with status 2, log entry 64. -/
def execHostMemoryWrite (chan seq pa : Nat) (op : OuterOp) (s : State) : Result :=
  s.outerStep chan seq <|
  if s.phase = fatalPhase ∨ (s.link 16).discarding = true then .next s
  else
    let dropped : Option State := if backed pa then none else some (s.noteOuter chan seq 0 [])
    match op with
    | .write _ _ => .next (s.outerAccess chan seq 97 0 pa op (if State.crosses pa op then some (s.noteOuter chan seq 2 []) else dropped))
    | .writeLine _ _ => .next (s.outerAccess chan seq 97 0 (lineAddr pa) op dropped)
    | _ => .next s

end Sys2Proof.Machine
end

