-- ==== Sys2Proof/Machine/Knanos.lean ====
section
/-! DEFINITION. Knanos and the darner: launch queues and records, binds, claims, unbinding, pre-emption, completion
(R258 to R277, R293 to R295), moves at quiesce points (R236, R265), and code that is replaced (R313 to R315). -/

namespace Sys2Proof.Machine

/-! Launch records (R261 to R264). -/

/-- `n` bytes of a record as a number. -/
def recNum (l : Line) (off n : Nat) : Nat := l.read off n
def recCtl (l : Line) : Nat := recNum l 0 4
def recPrio (l : Line) : Nat := recCtl l / 2 ^ 8 % 16
def recWidth (l : Line) : BitVec 2 := BitVec.ofNat 2 (recCtl l / 2 ^ 12)
def recRegs (l : Line) : Nat := recCtl l / 2 ^ 4 % 16
def recEntry (l : Line) : W32 := BitVec.ofNat 32 (recNum l 4 4)
def recRefill (l : Line) : W32 := BitVec.ofNat 32 (recNum l 8 4)
def recItem0 (l : Line) : Nat := recNum l 12 4
def recItems (l : Line) : Nat := recNum l 16 4
def recFloor (l : Line) : Nat := recNum l 20 2
def recPool (l : Line) : Nat := recNum l 22 2
def recSlots (l : Line) : Nat := recNum l 24 2
def recStkd (l : Line) : Nat := recNum l 26 2
def recMacros (l : Line) : Nat := recNum l 28 2
def recDies (l : Line) : Nat := recNum l 30 1
def recHtab (l : Line) : Nat := recNum l 32 8
def recHcnt (l : Line) : Nat := recNum l 40 2
def recHintn (l : Line) : Nat := recNum l 42 2
def recArg (l : Line) : Nat := recNum l 48 8
def recArglen (l : Line) : Nat := recNum l 56 4
def recStkva (l : Line) : Nat := recNum l 64 8
def recWva (l : Line) : Nat := recNum l 72 8
def recWval (l : Line) : Nat := recNum l 80 8
def recCva (l : Line) : Nat := recNum l 88 8
def recCadd (l : Line) : Nat := recNum l 96 8
def recHint (l : Line) : Nat := recNum l 104 8
def recCursor (l : Line) : Nat := recNum l 112 4
def recMsg (l : Line) : Bool := recCtl l / 2 ^ 15 % 2 == 1
def recPriv (l : Line) : Bool := recCtl l / 2 ^ 14 % 2 == 1

/-- The handle images of R264. DEDUCED: ARG and STKVA count mod 2^56, the width of a virtual address, log entry 10. -/
def h0Image (l : Line) : BitVec 256 :=
  BitVec.ofNat 256 (2 ^ 12 + 1 + recArg l % 2 ^ 56 * 2 ^ 64 + recArglen l * 2 ^ 128)
def h1Image (l : Line) : BitVec 256 :=
  if recStkd l = 0 then 0
  else BitVec.ofNat 256 (2 ^ 12 + 3 + recStkva l % 2 ^ 56 * 2 ^ 64 + 16384 * recStkd l * 128 * 2 ^ 128)

/-- A place that Knanos looks up in a context. -/
inductive Place where
  | at_ (pa : Nat) (leaf : BitVec 128)
  | absent
  | held
  deriving DecidableEq, Repr

/-- STATUS is written and will not change. -/
def LState.ended : LState → Bool
  | .word => true
  | .message => true
  | .sending => true
  | .final => true
  | _ => false
/-- A record is refused, or ended. -/
def LState.isOver : LState → Bool
  | .refused _ => true
  | .status => true
  | x => LState.ended x
/-- It is ready to start or to resume, or takes further cores. -/
def LState.wants : LState → Bool
  | .ready => true
  | .running => true
  | .saved => true
  | _ => false

namespace State

/-- The translation of a device address in a context. DEDUCED: bits 63:56 of WVA, CVA and the other addresses of a record are
not looked at, log entry 10. -/
def ctxPlace (s : State) (x va : Nat) : Place :=
  match s.walk s.pteRead (fun _ => false) 0xFF .dev (va % 2 ^ 56) 4 1 (s.context x).root with
  | .ok level leaf => .at_ (xlatAddr level leaf (va % 2 ^ 56)) leaf
  | .held => .held
  | _ => .absent
/-- A word that reads permit, and a `home` word that atomics may change. -/
def readPlace (s : State) (x va : Nat) : Place :=
  match s.ctxPlace x va with
  | .at_ pa leaf => if pteRd leaf then .at_ pa leaf else .absent
  | p => p
def atomPlace (s : State) (x va : Nat) : Place :=
  match s.ctxPlace x va with
  | .at_ pa leaf => if pteClass leaf = 2 ∧ pteAt leaf = true then .at_ pa leaf else .absent
  | p => p
/-- An access of Knanos at a home crosses on module 4 where the other die owns the stack (R244, R259): its DATA slots and those
of its reply. -/
def touch (s : State) (pa : Nat) (code : Code) (data reply : Nat) : State := s.agentTraffic 0 100 code pa data reply
/-- Whether a stack's arbiter is in a hand-over: Knanos's access waits (R241). -/
def busy (s : State) (pa : Nat) : Bool := (s.arbiter (stackOf pa)).step != 0

/-- The root of a context, and its object entry of an index (R303, R305). -/
def codeRoot (s : State) (x : Nat) : BitVec 256 := BitVec.ofNat 256 (Memory.read s.mem (Config.codeRoots + 32 * x) 32)
def ctxObject (s : State) (x i : Nat) : BitVec 128 := BitVec.ofNat 128 (Memory.read s.mem (rootObjt (s.codeRoot x) + 16 * i) 16)
/-- Whether a code reference lies in a loaded object. -/
def loaded (s : State) (x : Nat) (r : W32) : Bool :=
  let e := s.ctxObject x (r.extractLsb' 24 8).toNat
  objState e == 1 && decide ((r.extractLsb' 0 24).toNat < objLen e)

/-- The reason for which a record is refused, in table order (R264). -/
def recordFault (s : State) (q : Queue) (l : Line) : Option Nat :=
  let zero (off n : Nat) : Bool := recNum l off n == 0
  let within (v lo hi : Nat) : Bool := decide (lo ≤ v) && decide (v ≤ hi)
  if recCtl l % 2 = 0 ∨ recPrio l > 11 ∨ (recPriv l = true ∧ q.own = false) then some 1
  else if !(recCtl l / 2 ^ 16 == 0 && recCtl l / 2 % 8 == 0 && within (recDies l) 1 3 && zero 31 1 && zero 44 4 && zero 60 4 &&
      zero 116 4 && zero 122 6 && recHtab l / 2 ^ 52 == 0) then some 2
  else if recItems l = 0 ∨ recItem0 l + recItems l > 2 ^ 32 ∨ !(within (recFloor l) 4 64 && within (recPool l) 0 2048 &&
      within (recSlots l) 0 2048 && within (recStkd l) 0 4096 && recStkd l % 8 == 0 && within (recMacros l) 0 16 &&
      within (recHcnt l) 1 4096 && within (recHintn l) 0 1024) then some 3
  else if (recEntry l).extractLsb' 24 8 ≠ (recRefill l).extractLsb' 24 8 ∨ s.loaded q.ctx (recEntry l) = false ∨
      s.loaded q.ctx (recRefill l) = false then some 4
  else if (recStkd l ≠ 0 ∧ (recStkva l = 0 ∨ recStkva l % 2 ^ 16 ≠ 0)) ∨ recCursor l ≠ 0 then some 5
  else if (recWva l ≠ 0 ∧ s.readPlace q.ctx (recWva l) = .absent) ∨ (recCva l ≠ 0 ∧ s.atomPlace q.ctx (recCva l) = .absent) then
    some 6
  else none

/-! Launches. -/

/-- The launch of a record whose STATUS is not final; after a fatal error Knanos signals none (R302). One whose completion goes
on may stand beside it, for a record behind HEAD may be written again (R258, R322). -/
def launch? (s : State) (lrec : Nat) : Option Launch :=
  if s.phase = 5 then s.launches.find? fun l => l.lrec == lrec && !LState.ended l.state else none
/-- The earliest launch of a record whose completion has come to a step (R276). -/
def launchIn? (s : State) (lrec : Nat) (st : LState) : Option Launch :=
  if s.phase = 5 then s.launches.find? fun l => l.lrec == lrec && l.state == st else none
def setLaunch (s : State) (l : Launch) : State :=
  { s with launches := s.launches.map fun x => if x.queue = l.queue ∧ x.num = l.num then l else x }
def recLine (s : State) (lrec : Nat) : Line := s.homeLine lrec
/-- The binds of a launch: core and entry. -/
def launchBinds (s : State) (lrec : Nat) : List (Nat × Nat) :=
  s.cores.flatMap fun e => (e.2.binds.filter fun b => b.2.state != .free && b.2.lrec == lrec).map fun b => (e.1, b.1)
def queueAt (s : State) (q : Nat) : Option Queue := s.queues[q]?
def setQueue (s : State) (q : Nat) (x : Queue) : State := { s with queues := s.queues.set q x }

/-- Knanos advances HEAD past records whose STATUS is final, as are all before (R258). DEDUCED: log entry 41. -/
def advanceHead (s : State) (qi : Nat) : Nat → State
  | 0 => s
  | fuel + 1 =>
    match s.queueAt qi with
    | none => s
    | some q =>
      if s.launches.any fun l => l.queue == qi && l.num == q.done && LState.ended l.state then
        let s1 := ((s.setQueue qi { q with done := q.done + 1 }).touch q.head codeWrite8 1 0).homeStoreBytes q.head 8 (q.done + 1)
        s1.advanceHead qi fuel
      else s
/-- Launches that are over and behind HEAD are forgotten. -/
def forget (s : State) : State :=
  { s with launches := s.launches.filter fun l => !(l.state == .final && match s.queueAt l.queue with
      | some q => decide (l.num < q.done)
      | none => true) }

end State

/-! Binds (R267 to R270). -/

/-- The vacant slots of a bind, ascending. -/
def Core.vacant (k : Core) (e : Nat) : List Nat :=
  (k.bind e).slotList.filter fun n => !(k.slots.get Slot.reset n).occupied
/-- Crews of a mask in a quadrant. -/
def crewsIn (m : BitVec 64) (q : Nat) : Nat := (List.range 16).countP fun c => m.getLsbD (16 * q + c)
def crewCount (m : BitVec 64) : Nat := (List.range 64).countP fun c => m.getLsbD c
def macroCount (m : BitVec 16) : Nat := (List.range 16).countP fun j => m.getLsbD j
/-- Registers in use in a quadrant, in units of 128 bytes: the register file holds 1,024 (R25). -/
def Core.regUse (k : Core) (q : Nat) : Nat :=
  (List.range 8).foldl (fun a e => if (k.bind e).state = .free then a else a + crewsIn (k.bind e).crews q * (k.bind e).regCount) 0
/-- Crews and macros that binds of the core hold. -/
def Core.crewsHeld (k : Core) : BitVec 64 :=
  (List.range 8).foldl (fun a e => if (k.bind e).state = .free then a else a ||| (k.bind e).crews) 0
def Core.macrosHeld (k : Core) : BitVec 16 :=
  (List.range 8).foldl (fun a e => if (k.bind e).state = .free then a else a ||| (k.bind e).macros) 0
/-- The control store region that a context has or would have on a core (R204). DESIGN CHOICE: the lowest free one, log
entry 66. -/
def Core.regionFor (k : Core) (ctx : Nat) : Option Nat :=
  match AMap.find? k.regions ctx with
  | some r => some r
  | none => (List.range 8).find? fun r => !(k.regions.any fun e => e.2 == r)

namespace State

/-- Power or heat limits new binds on a die (R270). -/
def limited (s : State) (die : Nat) : Bool := s.overPower || s.hot.getLsbD die
/-- Whether a core can take a bind of crews and macros of a record in an entry (R268, R270). DESIGN CHOICE: its floors must be
covered by the pool's free supply Q, though R38 and R268 limit the sum of floors alone, log entry 82. -/
def bindFits (s : State) (l : Line) (ctx c e : Nat) (crews : BitVec 64) (macros : BitVec 16) : Bool :=
  let k := s.core c
  let hot := s.limited (dieOf c)
  let n := 16 * (recRegs l + 1)
  decide (c < Config.cores) && decide (e < 8) && (k.bind e).state == .free && crews != 0 && (BitVec.ofNat 8 (recDies l)).getLsbD (dieOf c) &&
    k.crewsHeld &&& crews == 0 && k.macrosHeld &&& macros == 0 &&
    ((List.range 4).all fun q => decide (k.regUse q + crewsIn crews q * n ≤ 1024)) &&
    decide (recFloor l * crewCount crews ≤ k.pool) &&
    (recWidth l != 3 || (List.range 32).all fun i => crews.getLsbD (2 * i) == crews.getLsbD (2 * i + 1)) &&
    decide (macroCount macros ≤ (if hot then max 1 (recMacros l / 2) else recMacros l)) &&
    (recMacros l == 0) == (macros == 0) && !((List.range 16).any fun j => macros.getLsbD j && (k.macro j).fenced) &&
    !(hot && decide (6 ≤ recPrio l)) && (k.regionFor ctx).isSome
/-- Whether any core can take the smallest bind of a record: one crew, or a pair, and one macro if it wants any. -/
def bindable (s : State) (l : Line) (ctx : Nat) : Bool :=
  (List.range Config.cores).any fun c => (List.range 8).any fun e => (List.range 64).any fun i => (List.range 16).any fun j =>
    s.bindFits l ctx c e (if recWidth l = 3 then (3#64) <<< (i - i % 2) else (1#64) <<< i) (if recMacros l = 0 then 0 else (1#16) <<< j)
/-- Items that a launch has not started: its ITEMS, less CURSOR as it stands at its home. -/
def unstarted (s : State) (l : Launch) : Nat := recItems l.record - recCursor (s.recLine l.lrec)
/-- Vacant bound slots of a launch over all cores. -/
def vacantAll (s : State) (lrec : Nat) : Nat := (s.launchBinds lrec).foldl (fun a b => a + ((s.core b.1).vacant b.2).length) 0
/-- Slots of the smallest bind of a launch: a crew, or a pair of crews. -/
def unitSlots (l : Launch) : Nat := if recWidth l.record = 3 then 64 else 32
/-- Room for more slots of a launch: its unstarted items, rounded up to a unit, less its vacant slots (R270). -/
def slotRoom (s : State) (l : Launch) : Nat :=
  (s.unstarted l + unitSlots l - 1) / unitSlots l * unitSlots l - s.vacantAll l.lrec
/-- Whether an earlier record of a queue has neither started nor been refused, so that later ones do not start (R260). -/
def heldBehind (s : State) (queue num : Nat) : Bool :=
  s.launches.any fun x => x.queue == queue && decide (x.num < num) && !x.started && !LState.isOver x.state
/-- Whether a launch may be bound now, space and its hints aside: one with hints starts only at a quiesce point (R260, R265,
R270, R296, R314). -/
def mayStart (s : State) (l : Launch) : Bool :=
  LState.wants l.state && !(s.squalls.any fun q => q.ctx == l.ctx) && decide (unitSlots l ≤ s.slotRoom l) && s.phase == 5 &&
    (l.started || (!(s.context l.ctx).switching && (recHintn l.record == 0 || s.quiet l.ctx) &&
      !(s.heldBehind l.queue l.num)))
/-- Whether it may be bound now, space aside: its hints have been applied. -/
def mayBind (s : State) (l : Launch) : Bool := s.mayStart l && (l.started || recHintn l.record == 0 || l.hinted)
/-- One launch, as against another of the same record. -/
def same (x l : Launch) : Bool := x.queue == l.queue && x.num == l.num
/-- A launch that Knanos binds before another: more urgent, or of the same priority and ready earlier (R270). -/
def ahead (x l : Launch) : Bool :=
  decide (recPrio x.record < recPrio l.record) || (recPrio x.record == recPrio l.record && decide (x.since < l.since))
/-- Whether a launch is the next to be bound: none that may be is ahead of it (R270). -/
def nextBound (s : State) (l : Launch) : Bool :=
  !(s.launches.any fun x => !same x l && s.mayStart x && s.bindable x.record x.ctx && ahead x l)
/-- Once a record has started or been refused, the next one of its queue that was held behind it alone becomes ready (R260, R270).
DEDUCED: that is the moment from which it stands in Knanos's order, log entry 98. -/
def readyNext (s : State) (queue : Nat) : State :=
  match s.launches.find? fun l => l.queue == queue && l.state == .behind && !(s.heldBehind queue l.num) with
  | some l => { s.setLaunch { l with state := .ready, since := s.nextId } with nextId := s.nextId + 1 }
  | none => s

/-- A number written as `n` bytes at an address within a line, as a home write. -/
def poke (s : State) (a n v : Nat) : State := s.homeStoreBytes a n v
/-- STATUS of a record (R263). -/
def writeStatus (s : State) (lrec v : Nat) : State := (s.touch (lrec + 120) codeWrite8 1 0).poke (lrec + 120) 8 v

/-- The lowest run of free words of a context's region for an image, at which Knanos places it (R205, R313). -/
def seamRoom (k : Core) (ctx cnt : Nat) : Option Nat :=
  match AMap.find? k.regions ctx with
  | none => none
  | some r => ((List.range (1025 - cnt)).map fun i => 1024 * r + i).find? fun a => !(k.namesWord ctx a cnt) && !(k.runsIn ctx a cnt)
/-- Knanos loads the seam images of an object at a bind, through its own service launch (R205, R313). DEDUCED: log
entry 45. -/
def loadImages (s : State) (c ctx obj : Nat) : State :=
  (s.images.filter fun i => i.ctx == ctx && i.obj == obj).foldl (fun u i =>
    let k := u.core c
    let e := k.seamEntry ctx i.n
    let same := seamBound e && seamCount e == i.words.length &&
      (i.words.zipIdx).all fun w => k.cword (seamStart e + w.2) == w.1
    if same then u
    else match imageFault i.words, decide (i.words.length ≤ 64) && decide (i.n < 64), seamRoom k ctx i.words.length with
      | none, true, some a => u.onCore c fun x => x.loadSeam ctx i.n a i.words (i.words.map fun _ => false)
      | _, _, _ => u.tell 5 i.n) s

/-- The bind record that Knanos writes (R264, R267). -/
def bindRecord (s : State) (l : Launch) (crews : BitVec 64) (macros : BitVec 16) : Bind :=
  let x := s.context l.ctx
  let r := l.record
  { Bind.free with
    state := .binding, slots := recSlots r, priv := recPriv r, prio := recPrio r, ctx := l.ctx, width := recWidth r,
    regs := recRegs r, floor := recFloor r, pool := recPool r, hcnt := recHcnt r - 1, htab := recHtab r, entry := recEntry r,
    refill := recRefill r, crews := crews, asid := x.asid, macros := macros, use := x.use, give := x.give, root := x.root,
    lrec := l.lrec, h0 := h0Image r, h1 := h1Image r }
/-- A core at a bind (R44, R269): registers zeroed, line registers closed, floors reserved, the code root adopted. -/
def bindCore (k : Core) (e : Nat) (b : Bind) (root : BitVec 256) (region : Nat) : Core :=
  let crewList := (List.range 64).filter fun c => b.crews.getLsbD c
  let k1 := { k with
    binds := k.binds.put e b, roots := k.roots.put b.ctx root, regions := k.regions.put b.ctx region }
  let k2 := b.slotList.foldl (fun (x : Core) n => { x with slots := x.slots.put n (Slot.atBind e) }) k1
  crewList.foldl (fun (x : Core) c => { x with crews := x.crews.put c Crew.reset }) k2
/-- Every cached translation of an ASID, and what walkers keep of it, is dropped (R235). -/
def dropAsid (s : State) (asid : BitVec 14) : State :=
  { s.keepTlb fun e => e.asid != asid with walkers := s.walkers.map fun e => (e.1, e.2.filter fun n => n.asid != asid) }
/-- Hints applied at a quiesce point that has passed count no more: a record starts at one (R265). -/
def unhint (s : State) (ctx : Nat) : State :=
  { s with launches := s.launches.map fun x => if x.ctx = ctx then { x with hinted := false } else x }
/-- Knanos binds a launch to a core. DEDUCED: at a quiesce point it first invalidates the context's translations, log
entry 54. -/
def bindLaunch (s : State) (l : Launch) (c e : Nat) (crews : BitVec 64) (macros : BitVec 16) : State :=
  let b := s.bindRecord l crews macros
  let region := ((s.core c).regionFor l.ctx).getD 0
  let stamp := s.nextId
  let s0 := if s.quiet l.ctx then s.dropAsid b.asid else s
  let s1 := { s0 with nextId := stamp + 1 }.onCore c fun k => bindCore k e b (s.codeRoot l.ctx) region
  let s2 := s1.loadImages c l.ctx (b.entry.extractLsb' 24 8).toNat
  let s3 := ((s2.unhint l.ctx).setLaunch { l with
    state := .running, started := true, stamp := if l.started then l.stamp else stamp, deadline := none, hinted := false }).readyNext l.queue
  if l.state = .running then s3 else s3.writeStatus l.lrec 1

/-! The darner (R271). -/

/-- How many items a bind would claim. -/
def claimSize (k : Core) (e : Nat) : Nat :=
  let b := k.bind e
  let v := (k.vacant e).length
  if b.slots = 0 then v else min v (b.slots - (b.slotList.length - v))
/-- Whether a bind may claim. -/
def mayClaim (k : Core) (e : Nat) : Bool :=
  let b := k.bind e
  b.state == .running && !b.stop && !b.exh && b.claim.isNone && decide (0 < claimSize k e)
/-- The bind whose claim a core sends in this cycle: the most urgent, then the lowest entry. -/
def claimant (k : Core) : Option Nat :=
  ((List.range 8).filter fun e => mayClaim k e).foldl (fun a e => match a with
    | none => some e
    | some x => if (k.bind e).prio < (k.bind x).prio then some e else some x) none
/-- A claim that this cycle sends is still to be sent (R271). -/
def claimDue (s : State) (c : Nat) : Bool :=
  (s.core c).claimAt != s.clock + 1 && match claimant (s.core c) with
    | some e => !(s.squalls.any fun q => q.ctx == ((s.core c).bind e).ctx)
    | none => false
/-- The claim request of a bind. -/
def claimReq (s : State) (c e : Nat) : Option Req :=
  s.reqs.find? fun r => r.core == c && match r.kind with
    | .claim b _ => b == e
    | _ => false

/-! Unbinding and the end of a launch (R269, R273, R276). -/

/-- What a context leaves behind with its last bind on a core (R204). -/
def leaveCore (k : Core) (ctx : Nat) : Core :=
  if (List.range 8).any fun e => (k.bind e).state != .free && (k.bind e).ctx == ctx then k
  else
    let words := match AMap.find? k.regions ctx with
      | some r => k.cstore.filter fun w => !(decide (1024 * r ≤ w.1) && decide (w.1 < 1024 * r + 1024))
      | none => k.cstore
    let bad := match AMap.find? k.regions ctx with
      | some r => k.cstorePoison.filter fun w => !(decide (1024 * r ≤ w.1) && decide (w.1 < 1024 * r + 1024))
      | none => k.cstorePoison
    { k with cstore := words, cstorePoison := bad, seams := k.seams.del ctx, regions := k.regions.del ctx }
/-- A bind becomes free: its tiles freed, its crews given up, and its floors with them, so that Q rises by these (R38,
R223; R331's "Q 6" is of the floors still reserved, log entry 67). -/
def freeBind (k : Core) (e : Nat) : Core :=
  let b := k.bind e
  let crewList := (List.range 64).filter fun c => b.crews.getLsbD c
  let k1 := (List.range 64).foldl (fun (x : Core) t => if x.owns e t then x.freeTile t else x) k
  let k2 := crewList.foldl (fun (x : Core) c => { x with crews := x.crews.del c }) k1
  leaveCore { k2 with binds := k2.binds.del e, teams := k2.teams.filter (fun t => t.2.bind != e), detect := 0 } b.ctx
/-- An unbind: every line register is written back and closed, its write-backs counting in the bind's launch counter
(R134, R275); tiles are freed, those that an operation names once that has ended (R176); teams are dissolved (R269). -/
def unbindLines (s : State) (c e : Nat) : State :=
  let first := s.nextId
  let crewList := (List.range 64).filter fun k => ((s.core c).bind e).crews.getLsbD k
  let s1 := crewList.foldl (fun u k => (((u.core c).crew k).lregs.keys).foldl (fun v n =>
    v.recallReg c k ⟨BitVec.ofNat 4 n, none⟩ []) u) s
  let mine (r : Req) : Bool := decide (first ≤ r.id) && neverHeld r.kind && r.core == c
  let n := s1.reqs.countP mine
  { s1 with reqs := s1.reqs.map fun r => if mine r then { r with counted := some e } else r }.onCore c fun k =>
    ({ k with teams := k.teams.filter fun t => t.2.bind != e } : Core).freeIdle e |>.onBind e fun b =>
      { b with unbound := true, counter := b.counter + BitVec.ofNat 32 n }

/-- The deadline of a priority, in cycles (R293, R318). -/
def deadlineOf (s : State) (prio : Nat) : Nat :=
  let us := if prio ≤ 3 then (s.dline.extractLsb' 0 16).toNat else if prio ≤ 7 then (s.dline.extractLsb' 16 16).toNat
    else (s.dline.extractLsb' 32 16).toNat
  us * Config.cyclesPerUs
/-- STOP is set in every bind of a launch (R273, R293). -/
def stopLaunch (s : State) (l : Launch) : State :=
  let s1 := (s.launchBinds l.lrec).foldl (fun u b => u.onCore b.1 fun k => k.onBind b.2 fun x =>
    { x with stop := true, state := if x.state = .running then .draining else x.state }) s
  s1.setLaunch { l with state := .stopping, deadline := some (s.clock + s.deadlineOf (recPrio l.record)) }
/-- Whether a launch's binds are all free. -/
def allFree (s : State) (lrec : Nat) : Bool := (s.launchBinds lrec).isEmpty
/-- A drain's deadline has passed and a bind is not free (R295). -/
def deadlinePassed (s : State) (l : Launch) : Bool :=
  l.state == .stopping && (match l.deadline with
    | some d => decide (d ≤ s.clock)
    | none => false) && !(s.allFree l.lrec)
/-- A waiting launch that is more urgent and cannot otherwise be bound (R293). -/
def crowdedOut (s : State) (l : Launch) : Bool :=
  s.launches.any fun x => s.mayStart x && s.allFree x.lrec && decide (recPrio x.record < recPrio l.record) &&
    !(s.bindable x.record x.ctx)

/-! Quiesce points (R236, R265). -/

/-- The place of the leaf entry of a page, its level and the entry. -/
def leafAt (s : State) (dest : Dest) (va : Nat) : Nat → Nat → Nat → Option (Nat × Nat × BitVec 128)
  | 0, _, _ => none
  | fuel + 1, level, table =>
    let a := table + 16 * levelIndex va level
    let e := BitVec.ofNat 128 (Memory.read s.mem a 16)
    if e.getLsbD 1 then (if leafOk level dest e then some (a, level, e) else none)
    else if nodeOk e && level != 4 then s.leafAt dest va fuel (level + 1) (pteAddr e)
    else none
/-- The lines of a range are copied, with their poison; a partial that a record holds for a line written counts no more
(R230). -/
def copyRange (s : State) (from_ to_ n : Nat) : State :=
  let inside (a : Nat) : Bool := decide (from_ ≤ a) && decide (a < from_ + n)
  let target (a : Nat) : Bool := decide (to_ ≤ a) && decide (a < to_ + n)
  let kept := s.mem.filter fun x => !target x.1
  let moved := (s.mem.filter fun x => inside x.1).foldl (fun m x => Memory.set m (x.1 - from_ + to_) x.2) kept
  let bad := (s.memPoison.filter fun x => inside x.1).foldl (fun (m : AMap (BitVec 2)) x => m.put (x.1 - from_ + to_) x.2)
    (s.memPoison.filter fun x => !target x.1)
  { s with mem := moved, memPoison := bad, sums := s.sums.filter fun r => !target r.line }
/-- One hint (R236, R265): fold, move, reclass, invalidate. DESIGN CHOICE: R265 gives no meaning to a stack byte of 8 to 254,
which leaves the page where it is, nor to the upper bits of the CLASS byte, which are not looked at, log entry 79. -/
def applyHint (s : State) (x : Nat) (h : Nat) : State :=
  let va := h % 2 ^ 56
  let cls := h / 2 ^ 64 % 256
  let owner := h / 2 ^ 72 % 256
  let stack := h / 2 ^ 80 % 256
  let apply := h / 2 ^ 88 % 2 == 1
  match s.leafAt .dev va 4 1 (s.context x).root with
  | none => s.tell 6 va
  | some (a, level, e) =>
    if owner > 191 then s.tell 6 va
    else
      let size := 2 ^ pageBits level
      let base := pteAddr e
      let s1 := (s.sums.filter fun r => decide (base ≤ r.line) && decide (r.line < base + size)).foldl (fun u r => u.foldLine r.line) s
      let place := stack * 2 ^ 36 + Config.pagePlace s1.frees % (48 * 2 ^ 30 / size) * size
      let move := decide (stack < 8) && stackOf base != stack
      let s2 := if move then { (s1.copyRange base place size) with frees := s1.frees + 1 } else s1
      let e1 : BitVec 128 := if move then (e &&& ~~~((0x3FFFFFFFFF#128) <<< 14)) ||| BitVec.ofNat 128 place else e
      let e2 : BitVec 128 := if apply then
          (e1 &&& ~~~((0x3#128) <<< 88) &&& ~~~((0xFF#128) <<< 96)) ||| BitVec.ofNat 128 (cls % 4 * 2 ^ 88 + owner * 2 ^ 96)
        else e1
      let s3 := s2.homeStore a (nibbleMask (a % 128) 16) 0 ((0 : Line).write (a % 128) 16 e2.toNat)
      s3.keepTlb fun t => !(t.asid == (s.context x).asid && t.page == va / 2 ^ pageBits t.level)
/-- The hints of a record, in list order; entry i lies at HINT + 16i of the context. DESIGN CHOICE: an entry whose own place
does not translate is skipped and told, as one that names no page is (R265), log entry 94. -/
def applyHints (s : State) (x : Nat) (l : Line) : State :=
  (List.range (recHintn l)).foldl (fun u i => match u.ctxPlace x (recHint l + 16 * i) with
    | .at_ pa _ => u.applyHint x (Memory.read u.mem pa 16)
    | _ => u.tell 6 (recHint l + 16 * i)) s

end State

/-- A launch whose start nothing of its own delays any more: ready, or held behind an earlier record of its queue (R260, R266). -/
def State.startState (s : State) (queue num : Nat) : LState := if s.heldBehind queue num then .behind else .ready
/-- `LAUNCH_QUEUE_POLL` (R259, R266): TAIL is read, and the wait word of a record that waits. DESIGN CHOICE: a WVA that is no
multiple of 8 is read at its byte address, and a word of a `sum` page without the partials that records hold, log entry 93. -/
def execLaunchQueuePoll (queue : Nat) (s : State) : Result :=
  match s.queueAt queue with
  | none => .next s
  | some q =>
    if s.busy q.tail = true ∨ s.phase ≠ 5 then .next s
    else
      let s1 := (s.setQueue queue { q with seen := max q.seen (Memory.read s.mem q.tail 8), polled := s.clock }).touch q.tail State.codeRead8 0 1
      .next (s1.launches.foldl (fun u l =>
        if l.queue = queue ∧ l.state = .waiting then
          let r := l.record
          match u.readPlace l.ctx (recWva r) with
          | .at_ pa _ =>
            if u.busy pa then u
            else if recWval r ≤ Memory.read u.mem pa 8 then
              { (u.touch pa State.codeRead8 0 1).setLaunch { l with state := u.startState queue l.num, since := u.nextId } with
                nextId := u.nextId + 1 }
            else u.touch pa State.codeRead8 0 1
          | .absent => u.tell 7 l.lrec
          | .held => u
        else u) s1)
/-- `LAUNCH_RECORD_READ` (R259, R264): the next record of a queue is read as one event, and refused or taken. -/
def execLaunchRecordRead (queue : Nat) (s : State) : Result :=
  match s.queueAt queue with
  | none => .next s
  | some q =>
    let lrec := q.ring + 128 * (q.next % 2 ^ q.s)
    let l := s.homeLine lrec
    if s.phase ≠ 5 ∨ q.next ≥ q.seen ∨ s.busy lrec = true ∨ s.readPlace q.ctx (recWva l) = .held ∨ s.atomPlace q.ctx (recCva l) = .held then .next s
    else
      let state : LState := match s.recordFault q l with
        | some why => .refused why
        | none => if recWva l = 0 then s.startState queue q.next else .waiting
      let new : Launch := { lrec := lrec, record := l, queue := queue, num := q.next, ctx := q.ctx, state := state, started := false,
                            stamp := 0, since := s.nextId, final := 0, deadline := none, hinted := false }
      let s1 := { s.touch lrec State.codeLine 0 8 with nextId := s.nextId + 1, launches := s.launches ++ [new] }
      .next (s1.setQueue queue { q with next := q.next + 1 })
/-- `QUIESCE_MOVES` (R236, R265): at a quiesce point of the context, before the first bind of a record that starts there: it may
start, finds room, and is the next to be bound. -/
def execQuiesceMoves (lrec : Nat) (s : State) : Result :=
  match s.launch? lrec with
  | some l =>
    if l.state = .ready ∧ l.hinted = false ∧ recHintn l.record ≠ 0 ∧ s.quiet l.ctx = true ∧ s.mayStart l = true ∧
        s.bindable l.record l.ctx = true ∧ s.nextBound l = true ∧ ((List.range 8).all fun k => (s.arbiter k).step == 0) = true then
      .next ((s.applyHints l.ctx l.record).setLaunch { l with hinted := true })
    else .next s
  | none => .next s
/-- `KNANOS_BIND` (R260, R268 to R270): crews and macros that Knanos chooses on a core; it has read CURSOR. -/
def execKnanosBind (lrec c e : Nat) (crews : List Nat) (macros : BitVec 16) (s : State) : Result :=
  match s.launch? lrec with
  | some l =>
    let m := crews.foldl (fun (a : BitVec 64) i => a ||| ((1#64) <<< i)) 0
    if s.mayBind l && s.bindFits l.record l.ctx c e m macros && decide (32 * crewCount m ≤ s.slotRoom l) && !(s.busy lrec) &&
        s.nextBound l then
      .next ((s.touch (lrec + 112) State.codeRead4 0 1).bindLaunch l c e m macros)
    else .next s
  | none => .next s
/-- `BIND_SETUP_DONE` (R269). DESIGN CHOICE: a bind on which STOP was set while it was binding drains from then on, log entry 90. -/
def execBindSetupDone (c e : Nat) (s : State) : Result :=
  let b := (s.core c).bind e
  if b.state = .binding then
    .next (s.onCore c fun k => k.onBind e fun x => { x with state := if x.stop then .draining else .running })
  else .next s
/-- `POWER_THERMAL_READING` (R270, R318): the average power in watts, the energy since the last reading in millijoules, and
the hottest sensors. -/
def execPowerThermalReading (power energy temp0 temp1 : Nat) (s : State) : Result :=
  let soft := s.soft.toNat
  .next { s with
    overPower := decide (power > s.plim.toNat)
    hot := BitVec.ofBool (decide (temp1 > soft)) ++ BitVec.ofBool (decide (temp0 > soft))
    temp0 := BitVec.ofNat 8 temp0
    temp1 := BitVec.ofNat 8 temp1
    trip0 := if 110 ≤ temp0 then some (s.trip0.getD s.time) else none
    trip1 := if 110 ≤ temp1 then some (s.trip1.getD s.time) else none
    menergy := s.menergy + BitVec.ofNat 64 energy }
/-- `CLAIM` (R271): one in each cycle in which a bind may claim, once the exits of the cycle have finished (R45); its
request may be held at its source (R226). -/
def execClaim (c : Nat) (s : State) : Result :=
  match State.claimant (s.core c) with
  | some e =>
    if s.claimDue c = false ∨ s.coreDue c = true then .next s
    else
      let k := State.claimSize (s.core c) e
      let s1 := s.onCore c fun x =>
        { x with claimAt := s.clock + 1 }.onBind e fun b => { b with claim := some k }
      .next (s1.request c [] (.claim e k) .dev (((s.core c).bind e).lrec + 112) [])
  | none => .next s
/-- `CLAIM_PERFORM` (R271): one event at CURSOR's home. -/
def execClaimPerform (c e : Nat) (s : State) : Result :=
  match s.claimReq c e with
  | some r =>
    if s.performable r then
      let lrec := ((s.core c).bind e).lrec
      let k := (((s.core c).bind e).claim).getD 0
      let old := recCursor (s.recLine lrec)
      let g := min k (recItems (s.recLine lrec) - old)
      let s1 := (s.poke (lrec + 112) 4 (old + g)).performed r
      .next (s1.onCore c fun x => x.onBind e fun b => { b with claimed := some (old, g, k) })
    else .next s
  | none => .next s
/-- `CLAIM_REPLY` (R271): the items are filled in one cycle, after what the cycle issues (R45). -/
def execClaimReply (c e : Nat) (s : State) : Result :=
  match s.claimReq c e, ((s.core c).bind e).claimed with
  | some r, some (old, g, k) =>
    if r.stage = .here ∧ s.issueDone c = true ∧ s.coreDue c = false then
      let item0 := recItem0 (s.recLine ((s.core c).bind e).lrec)
      let slots := ((s.core c).vacant e).take g
      let s1 := (slots.zipIdx).foldl (fun u n => u.fillSlot c e n.1 (BitVec.ofNat 32 (item0 + old + n.2))) (s.dropReq r.id)
      let s2 := s1.onCore c fun x => x.onBind e fun b => { b with claim := none, claimed := none, exh := b.exh || decide (g < k) }
      .next ((s2.drainSpent c e).closeIssue c)
    else .next s
  | _, _ => .next s
/-- `PRE_EMPTION` (R270, R293): Knanos sets STOP for a more urgent launch, or for power and heat. -/
def execPreEmption (lrec : Nat) (s : State) : Result :=
  match s.launch? lrec with
  | some l =>
    if l.state = .running ∧ (s.crowdedOut l = true ∨ s.overPower = true ∨ s.hot ≠ 0) then .next (s.stopLaunch l) else .next s
  | none => .next s
/-- `DEADLINE_EXPIRY` (R295): no bind of the context becomes free between it and the reset. -/
def execDeadlineExpiry (lrec : Nat) (s : State) : Result :=
  match s.launch? lrec with
  | some l =>
    if s.deadlinePassed l then
      .next ((s.setLaunch { l with deadline := none }).askSquall (Squall.ask l.ctx 1))
    else .next s
  | none => .next s
/-- Whether a core's binds of a context may be given up now: tokens return before the end of a cycle's issue (R222), and a
squall reset that is asked for decides the rest (R295). -/
def State.mayGiveUp (s : State) (c ctx : Nat) : Bool := !(s.closedNow c) && !(s.squalls.any fun q => q.ctx == ctx)
/-- `UNBIND` (R269): a draining bind of which every slot is vacant and no claim is in flight; opens of other binds that waited
for frames bind where frames became free (R220). -/
def execUnbind (c e : Nat) (s : State) : Result :=
  let b := (s.core c).bind e
  if s.mayGiveUp c b.ctx = true ∧ b.state = .draining ∧ b.unbound = false ∧ b.claim = none ∧ State.allVacant (s.core c) e = true then
    .next ((s.unbindLines c e).serveFrames c)
  else .next s
/-- `LAUNCH_COUNTER_ZERO` (R269, R275). -/
def execLaunchCounterZero (c e : Nat) (s : State) : Result :=
  let b := (s.core c).bind e
  if b.unbound = true ∧ b.counter = 0 ∧ s.mayGiveUp c b.ctx = true then .next (s.onCore c fun k => State.freeBind k e) else .next s
/-- `PRE_EMPTION_SAVE` (R273): every bind is free, and CURSOR says whether the launch is complete or saved. -/
def execPreEmptionSave (lrec : Nat) (s : State) : Result :=
  match s.launch? lrec with
  | some l =>
    if l.state = .stopping ∧ s.allFree lrec = true ∧ s.busy lrec = false then
      let s0 := s.touch (lrec + 112) State.codeRead4 0 1
      if s.unstarted l = 0 then .next (s0.setLaunch { l with state := .status, final := 2, deadline := none })
      else
        let s1 := s0.setLaunch { l with state := .saved, since := s.nextId, deadline := none }
        .next ({ s1 with nextId := s.nextId + 1 }.writeStatus lrec 4)
    else .next s
  | none => .next s
/-- `LAUNCH_COMPLETION` (R264, R276 step 1, R298): the final STATUS; of a launch that has run, once CURSOR has been read. -/
def execLaunchCompletion (lrec : Nat) (s : State) : Result :=
  match s.launch? lrec with
  | some l =>
    let final : Option Nat := match l.state with
      | .running => if s.unstarted l = 0 ∧ s.allFree lrec = true then some 2 else none
      | .refused why => some (3 + 256 * why)
      | .status => some l.final.toNat
      | _ => none
    match final with
    | some v =>
      if s.busy lrec then .next s
      else
        let s0 := if l.state = .running then s.touch (lrec + 112) State.codeRead4 0 1 else s
        let s1 := (s0.writeStatus lrec v).setLaunch { l with state := .word, final := BitVec.ofNat 64 v }
        .next (s1.advanceHead l.queue s1.launches.length)
    | none => .next s
  | none => .next s
/-- `COMPLETION_WORD_ADD` (R276 step 2): as `sig.n64`; skipped where CVA does not translate. -/
def execCompletionWordAdd (lrec : Nat) (s : State) : Result :=
  match s.launchIn? lrec .word with
  | some l =>
    let next (u : State) : Result := .next (u.setLaunch { l with state := .message })
    if recCva l.record = 0 then next s
    else match s.atomPlace l.ctx (recCva l.record) with
      | .held => .next s
      | .absent => next (s.tell 8 lrec)
      | .at_ pa _ =>
        let a := pa - pa % 8
        if s.busy a then .next s
        else next ((s.touch a State.codeSig64 1 0).updateWord 8 (fun x v => x + v) a (BitVec.ofNat 64 (recCadd l.record)))
  | none => .next s
/-- `COMPLETION_MESSAGE` (R276 step 3): it waits for the ring as R322 states. -/
def execCompletionMessage (lrec : Nat) (s : State) : Result :=
  match s.launchIn? lrec .message with
  | some l =>
    if recMsg l.record then
      let m : Message := { w0 := BitVec.ofNat 64 lrec, w1 := l.final, lrec := some lrec }
      .next ({ s with messages := s.messages ++ [m] }.setLaunch { l with state := .sending })
    else .next ((s.setLaunch { l with state := .final }).forget)
  | none => .next s

/-- `IMPORT_ADOPT` (R314 step 3): a core adopts the new root in one cycle. -/
def execImportAdopt (c ctx : Nat) (s : State) : Result :=
  let x := s.context ctx
  if x.switching = true ∧ x.adopt.contains c = true then
    let s1 := s.onContext ctx fun y => { y with adopt := y.adopt.filter fun k => k != c }
    .next (s1.onCore c fun k => { k with roots := k.roots.put ctx (s.codeRoot ctx) })
  else .next s

namespace State

/-- The objects that the valid entries of a table name. -/
def namedObjects (s : State) (impt impn : Nat) : List Nat :=
  ((List.range (impn + 1)).filterMap fun i =>
    let v := BitVec.ofNat 64 (Memory.read s.mem (impt + 8 * i) 8)
    if v.getLsbD 63 && v.extractLsb' 32 31 == 0 then some (v.extractLsb' 24 8).toNat else none).eraseDups
/-- STATE of an object table entry is written, as one event (R305). -/
def setObject (s : State) (x i st : Nat) : State :=
  let a := rootObjt (s.codeRoot x) + 16 * i
  s.poke a 1 (Memory.read s.mem a 1 / 4 * 4 + st)
/-- The objects that the ENTRY of a record not yet started names: records read, and those that still stand in their rings
(R315). -/
def awaitedObjects (s : State) (ctx : Nat) : List Nat :=
  let obj (r : Line) : Nat := ((recEntry r).extractLsb' 24 8).toNat
  (s.launches.filter fun l => l.ctx == ctx && !l.started && !LState.isOver l.state).map (fun l => obj l.record) ++
    (s.queues.filter fun q => q.ctx == ctx).flatMap fun q =>
      (List.range (min (Memory.read s.mem q.tail 8) (q.done + 2 ^ q.s) - q.next)).map fun i =>
        obj (s.recLine (q.ring + 128 * ((q.next + i) % 2 ^ q.s)))

end State

/-- `IMPORT_SWITCH_COMPLETE` (R314 step 4, R315): objects that only the old table named start to retire; of those that retire
already the launches up to this switch count. -/
def execImportSwitchComplete (ctx : Nat) (s : State) : Result :=
  let x := s.context ctx
  if x.switching = true ∧ x.adopt = [] then
    let root := s.codeRoot ctx
    let new := s.namedObjects (rootImpt root) (rootImpn root)
    let kept := s.awaitedObjects ctx
    let dropped := (s.namedObjects x.oldTable.1 x.oldTable.2).filter fun i => !new.contains i
    let gone := dropped.filter fun i => !kept.contains i && objState (s.ctxObject ctx i) == 1
    let s1 := gone.foldl (fun u i => u.setObject ctx i 2) (s.onContext ctx fun y => { y with switching := false })
    let again := s1.retiring.map fun r => if r.1 = ctx ∧ dropped.contains r.2.1 then (r.1, r.2.1, s.nextId) else r
    .next { s1 with nextId := s.nextId + 1, retiring := again ++ gone.map fun i => (ctx, i, s.nextId) }
  else .next s
/-- `OBJECT_FREE` (R315): every launch that started before the switch has ended; its code lines are dropped. -/
def execObjectFree (ctx idx : Nat) (s : State) : Result :=
  match s.retiring.find? fun r => r.1 == ctx && r.2.1 == idx with
  | some r =>
    if s.launches.any fun l => l.ctx == ctx && l.started && decide (l.stamp < r.2.2) && !LState.ended l.state then .next s
    else
      let mine (key : Nat) : Bool := key / 2 ^ 24 == ctx * 256 + idx
      let s1 := s.setObject ctx idx 0
      .next { s1 with
        retiring := s1.retiring.filter fun x => !(x.1 == ctx && x.2.1 == idx)
        cores := s1.cores.map fun e => (e.1, { e.2 with
          icache := e.2.icache.filter fun l => !mine l.1
          slots := e.2.slots.map fun t => (t.1, if (e.2.bind t.2.bind).ctx = ctx ∧
            (match t.2.stay with
              | some (p, _) => (p.extractLsb' 24 8).toNat == idx
              | none => false) = true then { t.2 with stay := none } else t.2) }) }
  | none => .next s

end Sys2Proof.Machine
end

