-- ==== Sys2Proof/Machine/Reset.lean ====
section
/-! DEFINITION. Squall reset (R296 to R298): a context is cleared, its reset record written, its launches ended. -/

namespace Sys2Proof.Machine

/-- A number goes into an ascending list. -/
def insertAsc (x : Nat) : List Nat → List Nat
  | [] => [x]
  | y :: l => if x ≤ y then x :: y :: l else y :: insertAsc x l

namespace State

/-- Whether a slot number of a core lies in a bind of the context. -/
def inCtx (s : State) (ctx c n : Nat) : Bool := (s.bindOf c n).state != .free && (s.bindOf c n).ctx == ctx
/-- Whether an entry of a core's slot table is a bind of the context. -/
def bindInCtx (s : State) (ctx c e : Nat) : Bool := ((s.core c).bind e).state != .free && ((s.core c).bind e).ctx == ctx
/-- The binds of a context: core and entry. -/
def ctxBinds (s : State) (ctx : Nat) : List (Nat × Nat) :=
  s.cores.flatMap fun e => ((List.range 8).filter fun b => s.bindInCtx ctx e.1 b).map fun b => (e.1, b)
/-- The occupied slots of a context on a core. -/
def ctxSlots (s : State) (ctx c : Nat) : List Nat :=
  (s.core c).slots.keys.filter fun n => (s.slot c n).occupied && s.inCtx ctx c n
/-- The items of claims performed whose replies are in flight when STOP is set: they are filled as STOP is set, and lost with
their slots (R272). -/
def claimedItems (s : State) (ctx lrec : Nat) : List Nat :=
  (s.ctxBinds ctx).flatMap fun b =>
    let x := (s.core b.1).bind b.2
    match x.claimed with
    | some (old, g, _) => if x.lrec = lrec then (List.range g).map fun i => recItem0 (s.recLine lrec) + old + i else []
    | none => []
/-- The items that occupy slots of a launch, ascending (R297). -/
def lostItems (s : State) (ctx lrec : Nat) : List Nat :=
  ((s.cores.flatMap fun e => ((s.ctxSlots ctx e.1).filter fun n => (s.bindOf e.1 n).lrec == lrec).map fun n =>
    (s.slot e.1 n).item.toNat) ++ s.claimedItems ctx lrec).foldl (fun l x => insertAsc x l) []
/-- The launches that a reset of the context takes: those with binds, and those saved (R296 step 1). -/
def ctxLaunches (s : State) (ctx : Nat) : List Launch :=
  s.launches.filter fun l => l.ctx == ctx && (l.state == .saved || !(s.launchBinds l.lrec).isEmpty)
/-- Operations that are cancelled or discarded: the launch counters, and what the emptied slots count (R297). DEDUCED:
log entry 21. -/
def cancelledOps (s : State) (ctx : Nat) : Nat :=
  (s.ctxBinds ctx).foldl (fun a b => a + ((s.core b.1).bind b.2).counter.toNat) 0 +
    s.cores.foldl (fun a e => (s.ctxSlots ctx e.1).foldl (fun x n =>
      let t := s.slot e.1 n
      x + ((t.opsH ++ t.opsC ++ t.opsM ++ t.opsS).countP fun o => !o.done)) a) 0

/-- Whether a request belongs to the context: its lanes', its bind's or its engine operation's. -/
def reqInCtx (s : State) (ctx : Nat) (r : Req) : Bool :=
  (r.lanes.any fun n => s.inCtx ctx r.core n) || (match r.counted with
    | some e => s.bindInCtx ctx r.core e
    | none => false) || (match (engineOf r.kind).bind fun op => s.engineOp r.core op with
    | some o => s.bindInCtx ctx r.core o.bind
    | none => false)
/-- A piece of a copy's line for the host. -/
def writesHost : ReqKind → Bool
  | .engWrite _ _ _ _ _ => true
  | _ => false
/-- What becomes of a request of the context (R296 steps 3, 4 and 6): dropped before it is sent, or with its engine operation,
but for the pieces of a line for the host, all of which have left together; delivered when it is a write-back or a partial, run
to its end when it is a `stkgive`, and else performed with its reply discarded. A fill goes on, for another context may have
joined it, and its frame is free once it arrives (R218). -/
def resetReq (s : State) (ctx : Nat) (r : Req) : Option Req :=
  match r.kind with
  | .claim e _ => if s.bindInCtx ctx r.core e then none else some r
  | k =>
    if !s.reqInCtx ctx r then some r
    else if (engineOf k).isSome then (if r.dest = .host ∧ writesHost k = true ∧ r.stage ≠ .source then some { r with dropped := true } else none)
    else if neverHeld k || isFill k || !atSlice k then some r
    else match r.stage with
      | .unit => none
      | .source => none
      | .waiter => none
      | .resend _ => none
      | _ => some { r with dropped := true }
/-- The accesses of the context that step 4 of R296 still has to perform: those sent, and those of the write-back queue. -/
def resetWaits (s : State) (ctx : Nat) : List Nat :=
  ((s.reqs.filterMap fun r => s.resetReq ctx r).filter fun r =>
    s.reqInCtx ctx r && atSlice r.kind && !isFill r.kind && unperformed r.stage).map Req.id
/-- The hand-overs of the context that step 6 lets run to their end. -/
def resetGives (s : State) (ctx : Nat) : List Nat :=
  (s.reqs.filter fun r => s.reqInCtx ctx r && match r.kind with
    | .give _ _ _ => true
    | _ => false).map Req.id
/-- What a core's binds, slots, teams, halts, opens, units and tiles lose (R296 steps 1 to 3); a slot that is emptied keeps its
registers (R20). DEDUCED: and all else that `exit` leaves, log entry 32. -/
def resetCore (s : State) (ctx c : Nat) (k : Core) : Core :=
  let mine (n : Nat) : Bool := s.inCtx ctx c n
  let ops := k.engine.filter fun o => s.bindInCtx ctx c o.bind
  let stopped (b : Bind) : Bind :=
    { b with stop := true, claim := none, claimed := none, state := if b.state = .running then .draining else b.state }
  let k1 := { k with
    binds := k.binds.map fun b => (b.1, if s.bindInCtx ctx c b.1 then stopped b.2 else b.2)
    tiles := k.tiles.map fun t => (t.1, if tAlloc t.2 && s.bindInCtx ctx c (tBind t.2) then t.2 &&& 0x3DFFFFFFFFFFFFFF else t.2)
    slots := k.slots.map fun e => (e.1, if e.2.occupied && mine e.1 then vacate e.2 else e.2)
    teams := k.teams.filter fun t => !s.bindInCtx ctx c t.2.bind
    halts := (k.halts.filter fun h => !mine h.slot).map fun h => { h with members := h.members.filter fun m => !mine m.1 }
    waits := k.waits.filter fun w => !(w.lanes.any fun l => mine l.slot)
    engine := k.engine.filter fun o => !s.bindInCtx ctx c o.bind
    lsu := k.lsu.filter fun o => !((o.args.any fun a => mine a.1) || s.reqs.any fun r =>
      o.reqs.contains r.id && r.lanes.any mine) }
  ops.foldl (fun x o => match o.inst with
    | .mload _ _ => x.onMacro (loadMacro o.block) fun m => { m with kind := .none, rows := [], poisoned := false }
    | _ => x) k1
/-- The line registers of a bind's crews become empty, with no write-back, and their tokens return (R296 step 5); those that a
crew had drawn raise Q and start the detector's count again (R223). -/
def discardLines (s : State) (c e : Nat) : State :=
  ((List.range 64).filter fun k => ((s.core c).bind e).crews.getLsbD k).foldl (fun u crew =>
    ((((u.core c).crew crew).lregs.flatMap fun r => r.2.ways.filterMap fun w => match w.2.kind with
      | .frame f => some f
      | _ => none).foldl (fun v f => v.leaveFrame c f [] false) u).onCore c fun k =>
        { k with crews := k.crews.put crew Crew.reset, detect := if (k.crew crew).drawn > 0 then 0 else k.detect }) s
/-- Opens of other contexts that waited for frames bind where frames became free (R220). -/
def serveCores (s : State) (binds : List (Nat × Nat)) : State :=
  ((binds.map Prod.fst).eraseDups).foldl (fun (v : State) c => v.serveFrames c) s
/-- A squall reset's state is set. -/
def setSquall (s : State) (q : Squall) : State := { s with squalls := s.squalls.map fun p => if p.ctx = q.ctx then q else p }
/-- Steps 1 to 3 of R296, and what step 4 drops. DESIGN CHOICE: one step, log entry 43. -/
def squallStart (s : State) (q : Squall) : State :=
  let ctx := q.ctx
  let hit := s.ctxLaunches ctx
  let entries := hit.map fun l => (l.lrec, recCursor (s.recLine l.lrec), s.lostItems ctx l.lrec)
  let cancelled := s.cancelledOps ctx
  let taken (l : Launch) : Launch :=
    if hit.any fun h => h.queue == l.queue && h.num == l.num then { l with state := .resetting, deadline := none } else l
  let s1 : State := { s with
    launches := s.launches.map taken, reqs := s.reqs.filterMap fun r => s.resetReq ctx r,
    cores := s.cores.map fun (e : Nat × Core) => (e.1, s.resetCore ctx e.1 e.2) }
  (s1.cores.keys.foldl (fun (u : State) c => u.beginOps c) s1).setSquall { q with
    stage := .performing, waits := s.resetWaits ctx, gives := s.resetGives ctx, clock := s.clock, launches := entries,
    cancelled := cancelled }
/-- Step 5: once step 4's accesses are performed, the line registers of the context's crews become empty. -/
def squallLines (s : State) (q : Squall) : State :=
  let binds := s.ctxBinds q.ctx
  ((binds.foldl (fun (u : State) b => u.discardLines b.1 b.2) s).serveCores binds).setSquall { q with stage := .giving }
/-- Step 7: once the hand-overs of step 6 have ended, counters are 0 and the binds free. -/
def squallFree (s : State) (q : Squall) : State :=
  let binds := s.ctxBinds q.ctx
  let s1 : State := { s with reqs := s.reqs.map fun r => if (match r.counted with
    | some e => s.bindInCtx q.ctx r.core e
    | none => false) = true then { r with counted := none } else r }
  ((binds.foldl (fun (u : State) b => u.onCore b.1 fun k => freeBind k b.2) s1).serveCores binds).setSquall
    { q with stage := .cleared }
/-- Step 4 has ended: what it waits for is performed. -/
def waitsDone (s : State) (q : Squall) : Bool := q.waits.all fun id => match s.req? id with
  | some r => !unperformed r.stage
  | none => true
/-- Step 6 has ended. -/
def givesDone (s : State) (q : Squall) : Bool := q.gives.all fun id => (s.req? id).isNone
/-- A squall reset may go on in this cycle: tokens return before the end of a cycle's issue (R222). -/
def squallOpen (s : State) (ctx : Nat) : Bool := !((s.ctxBinds ctx).any fun b => s.closedNow b.1)

/-- The squall reset of a context that is asked for or under way. -/
def squallOn (s : State) (ctx : Nat) : Option Squall := s.squalls.find? fun q => q.ctx == ctx
/-- Bytes are written from an address, one home write each. -/
def pokeBytes (s : State) (a : Nat) (l : List Byte) : State :=
  (l.zipIdx).foldl (fun u x => u.poke (a + x.2) 1 x.1.toNat) s

/-- The reset record (R297) after its SEQ: header, launch entries, items. -/
def resetRecord (q : Squall) : List Byte :=
  let num (n v : Nat) : List Byte := bytesOf n v
  let items := q.launches.flatMap fun e => e.2.2
  let two := q.cause == 2 || q.cause == 3
  let first (i : Nat) : Nat := ((q.launches.take i).flatMap fun e => e.2.2).length
  let slot := match q.slot with
    | some (c, n) => if two then c * 2048 + n else 0xFFFFFFFF
    | none => 0xFFFFFFFF
  num 8 q.clock ++ num 2 q.cause ++ num 2 q.launches.length ++ num 4 items.length ++ num 4 q.cancelled ++ num 4 slot ++
    num 4 (if two then q.tcause.toNat else 0) ++ num 4 (if two then q.tpc.toNat else 0) ++
    num 8 (if two then q.tval.toNat else 0) ++ num 16 0 ++
    ((q.launches.zipIdx).flatMap fun e =>
      num 8 e.1.1 ++ num 4 e.1.2.1 ++ num 4 (first e.2) ++ num 4 e.1.2.2.length ++ num 12 0) ++
    items.flatMap fun i => num 4 i
where
  /-- The `n` low bytes of a number, little-endian. -/
  bytesOf (n v : Nat) : List Byte := (List.range n).map fun i => BitVec.ofNat 8 (v / 256 ^ i)

end State

/-- `SQUALL_RESET` (R296): the next steps of the reset, in the order of the rule, each after the one before has ended. -/
def execSquallReset (ctx : Nat) (s : State) : Result :=
  match s.squallOn ctx with
  | some q =>
    if s.phase ≠ 5 ∨ s.squallOpen ctx = false then .next s
    else match q.stage with
      | .asked => .next (s.squallStart q)
      | .performing => if s.waitsDone q then .next (s.squallLines q) else .next s
      | .giving => if s.givesDone q then .next (s.squallFree q) else .next s
      | .cleared => .next s
  | none => .next s
/-- `RESET_RECORD_WRITE` (R297, R298): the record, SEQ last, and the end of each launch of the reset. -/
def execResetRecordWrite (ctx : Nat) (s : State) : Result :=
  match s.squallOn ctx with
  | some q =>
    let x := s.context ctx
    if q.stage = .cleared ∧ s.busy x.area = false ∧ s.phase = 5 then
      let record := State.resetRecord q
      let s0 := (List.range ((record.length + 135) / 128)).foldl (fun (u : State) i => u.touch (x.area + 128 * i) State.codeLineWrite 10 0) s
      let s1 := (s0.pokeBytes (x.area + 8) record).poke x.area 8 (x.resets + 1)
      let s2 := s1.onContext ctx fun y => { y with resets := y.resets + 1 }
      .next { s2 with
        squalls := s2.squalls.filter fun p => p.ctx != ctx
        launches := s2.launches.map fun l => if l.state = .resetting ∧ l.ctx = ctx then { l with state := .status, final := 5 } else l }
    else .next s
  | none => .next s

end Sys2Proof.Machine
end

