-- ==== Sys2Proof/Machine/Platform.lean ====
section
/-! DEFINITION. The platform: the register window and its writes (R317, R318, R326), reset and bring-up (R319, R320),
uncorrectable errors (R299), and messages to the host (R322). -/

namespace Sys2Proof.Machine

namespace State

/-! The register window. -/

/-- BSTAT (R318). -/
def bstat (s : State) : W64 :=
  0#16 ++ (BitVec.ofNat 8 s.commands.length ++ (s.cdrop ++ (s.failst ++ (s.rreason ++ (0#8 ++ s.phase)))))
/-- The register at an offset (R317): offsets that the table does not list, and those of write-only registers, read 0. -/
def register (s : State) (off : Nat) : W64 :=
  if off % 8 ≠ 0 then 0
  else if off = 0 then BitVec.ofNat 64 (0x4958 * 2 ^ 16 + Config.stepping.toNat * 2 ^ 8 + 0x22)
  else if off = 0x8 then s.bstat
  else if off = 0x20 then s.msgbase
  else if off = 0x28 then s.cons ++ s.prod
  else if off = 0x40 then s.plim.setWidth 64
  else if off = 0x48 then BitVec.ofNat 64 (110 * 256 + s.soft.toNat)
  else if off = 0x50 then BitVec.ofNat 64 (s.temp1.toNat * 256 + s.temp0.toNat)
  else if off = 0x58 then s.menergy
  else if off = 0x60 then s.dline
  else if 0x10000 ≤ off ∧ off < 0x10000 + 8 * Config.cores then (s.core ((off - 0x10000) / 8)).status
  else if 0x20000 ≤ off ∧ off < 0x20040 then (s.arbiter ((off - 0x20000) / 8)).status
  else if 0x21000 ≤ off ∧ off < 0x210C0 then (s.module ((off - 0x21000) / 8)).status ((off - 0x21000) / 8)
  else if 0x22000 ≤ off ∧ off < 0x220C0 then (s.module ((off - 0x22000) / 8)).status ((off - 0x22000) / 8)
  else if off = 0x30000 then s.devno
  else if 0x30008 ≤ off ∧ off < 0x30088 then s.peers.get 0 ((off - 0x30008) / 8)
  else 0
/-- After a fatal error the device accepts only RESET (R302, R326). -/
def accepts (s : State) : Bool := s.phase != fatalPhase

/-! Reset (R319, R326). -/

/-- The device after a reset for a reason: memory stands until phase 0x02 zeroes it. -/
def restart (s : State) (reason : BitVec 8) : State :=
  { State.reset with rreason := reason, mem := s.mem, memPoison := s.memPoison, turn := s.turn, turns := s.turns,
                     frees := s.frees, nextId := s.nextId }
/-- Every line is zeroed but for the preserved region after a RESET-register reset (R319, R326). -/
def zeroMemory (s : State) : State :=
  let keep (a : Nat) : Bool := s.rreason == 1 && decide (Config.dumpBase ≤ a) && decide (a < Config.dumpEnd)
  { s with mem := s.mem.filter fun x => keep x.1, memPoison := s.memPoison.filter fun x => keep x.1 }
/-- An image runs when both signatures verify and its version is at least the fused one (R320). -/
def imageRuns (k : Nat) : Bool := Config.imageRsa k && Config.imageSlh k && decide (Config.fusedVersion ≤ Config.imageVersion k)
/-- The lowest image that the boot ROM refuses (R320). -/
def badImage : Option Nat := (List.range 12).findSome? fun k => if imageRuns (k + 1) then none else some (k + 1)
/-- The measurements that the ROM records: the images' digests, and the fused state's as 13 (R320). -/
def measureImages (s : State) : State :=
  let images : AMap (BitVec 384) := (List.range 12).foldl (fun m k => m.put (k + 1) (Config.imageDigest (k + 1))) []
  { s with measured := images.put 13 Config.fusedDigest }
/-- Bring-up goes on with a phase. -/
def enterPhase (s : State) (p : BitVec 8) : State := { s with phase := p, phaseAt := s.time }
/-- The milliseconds within which a phase of bring-up ends (R319); the time before phase 0x01 counts as its own. -/
def phaseLimit (p : BitVec 8) : Option Nat :=
  if p = 0 ∨ p = 0x01 then some 300 else if p = 0x02 then some 1000 else if p = 0x03 then some 50
  else if p = 0x04 then some 200 else none
/-- The phase must end now. -/
def phaseDue (s : State) : Bool := match phaseLimit s.phase with
  | some ms => decide (s.phaseAt + ms * ticksPerMs ≤ s.time)
  | none => false
/-- A halt phase. -/
def halt (s : State) (phase failst : Nat) : State :=
  { s with phase := BitVec.ofNat 8 phase, failst := BitVec.ofNat 8 failst }

/-! Fatal errors (R301). -/

/-- Whether a fatal error of a kind comes about of itself: a module that goes down while its alternate is down, the loss of DCL
and a silent management core raise theirs in the steps that bring them about. -/
def mayBeFatal (s : State) (kind : Nat) : Bool := s.phase == readyPhase && (kind == 1 || kind == 2)

/-! Uncorrectable errors (R299). -/

/-- The affected data is poisoned, or the code line dropped. -/
def strike (s : State) (site : ErrorSite) : State :=
  match site with
  | .register c n r =>
    if c < Config.cores ∧ n < Config.slots ∧ r < 256 then s.onSlot c n fun t => t.poisonReg r else s
  | .frame c f w => if w < 16 then s.onCore c fun k => k.onFrame f fun x => { x with poison := x.poison ||| nibbleMask (8 * w) 8 } else s
  | .scratch c w =>
    if c < Config.cores ∧ 8 * w < Config.scratchBytes then s.onCore c fun k => { k with
      scratchPoison := (List.range 8).foldl (fun (m : AMap Bool) i => m.put (8 * w + i) true) k.scratchPoison }
    else s
  | .home a =>
    if backed (16 * a) then { s with memPoison := (List.range 16).foldl (fun (m : AMap (BitVec 2)) i => m.put (16 * a + i) 3) s.memPoison }
    else s
  | .icache c key => s.onCore c fun k => { k with icache := k.icache.del key }
  | .controlStore c w =>
    if c < Config.cores ∧ w < 8192 then s.onCore c fun k => { k with cstorePoison := k.cstorePoison.put w true } else s

end State

/-! The window's steps. -/

/-- The offsets whose writes have a step of their own (R317). -/
def writable (off : Nat) : Bool := [0x10, 0x18, 0x20, 0x28, 0x40, 0x48, 0x60].contains off
/-- An access of the host to the register window (R256, R257, R317): once, behind the accesses of its channel that are not
performed, while the window has room; one that the window knows is answered again. f does it, and gives the reply's bytes. -/
def State.registerAccess (s : State) (chan seq : Nat) (f : State → State × List Byte) : Result :=
  if (s.link 16).discarding then .next s
  else if s.outerKnown chan seq then .next (s.answerAgain chan seq)
  else if !s.outerRoom chan || s.outerPending chan then .next s
  else .next ((f s).1.noteOuter chan seq 0 (f s).2)
/-- A write of a register: f changes it, but for a fatal error, after which only RESET is accepted (R326). -/
def State.registerWrite (s : State) (w : RegWrite) (f : State → State) : Result :=
  s.registerAccess w.chan w.seq fun u => (if u.accepts then f u else u, [])
/-- `HOST_REGISTER_READ` (R256, R317): the 64-bit register in the reply's data slot, kept in the channel's window. -/
def execHostRegisterRead (chan seq off : Nat) (s : State) : Result :=
  s.registerAccess chan seq fun u => (u, (List.range 8).map fun i => (u.register off).extractLsb' (8 * i) 8)
/-- `HOST_REGISTER_WRITE` (R317): a write of a read-only or an unlisted offset is dropped, and answered; the others have steps
of their own. -/
def execHostRegisterWrite (off : Nat) (v : RegWrite) (s : State) : Result :=
  if writable off then .next s else s.registerWrite v id
/-- `MSGBASE_WRITE` (R318). -/
def execMsgbaseWrite (v : RegWrite) (s : State) : Result :=
  let n := (v.value.extractLsb' 0 5).toNat
  let size := if 4 ≤ n ∧ n ≤ 16 then n else 0
  s.registerWrite v fun u => { u with msgbase := v.value.extractLsb' 12 52 ++ BitVec.ofNat 12 size }
/-- `MSGIDX_CONS_WRITE` (R318, R322). -/
def execMsgidxConsWrite (v : RegWrite) (s : State) : Result :=
  s.registerWrite v fun u => { u with cons := v.value.extractLsb' 32 32 }
/-- `PLIM_WRITE` (R318): clamped to 300 to 1,500 W. -/
def execPlimWrite (v : RegWrite) (s : State) : Result :=
  s.registerWrite v fun u => { u with plim := BitVec.ofNat 16 (min 1500 (max 300 (v.value.extractLsb' 0 16).toNat)) }
/-- `TLIM_WRITE` (R318): SOFT, clamped to 60 to 105 °C. -/
def execTlimWrite (v : RegWrite) (s : State) : Result :=
  s.registerWrite v fun u => { u with soft := BitVec.ofNat 8 (min 105 (max 60 (v.value.extractLsb' 0 8).toNat)) }
/-- A deadline as DLINE stores it: a write of 0 gives 1. -/
def deadlineField (v : W64) (lo : Nat) : BitVec 16 := if v.extractLsb' lo 16 = 0 then 1 else v.extractLsb' lo 16
/-- `DLINE_WRITE` (R318): drains that already run keep the deadline they began with. -/
def execDlineWrite (v : RegWrite) (s : State) : Result :=
  let d := deadlineField v.value
  s.registerWrite v fun u => { u with dline := 0#16 ++ (d 32 ++ (d 16 ++ d 0)) }
/-- The block's address is queued; while 64 are pending the write is dropped and CDROP rises (R323). -/
def State.queueCommand (s : State) (v : W64) : State :=
  if s.commands.length ≥ 64 then { s with cdrop := if s.cdrop = 0xFF then s.cdrop else s.cdrop + 1 }
  else { s with commands := s.commands ++ [{ pa := v.toNat, done := false, code := 0, tag := 0, result := 0, awaits := none }] }
/-- `CMDPA_WRITE` (R323). -/
def execCmdpaWrite (v : RegWrite) (s : State) : Result := s.registerWrite v fun u => u.queueCommand v.value
/-- `DEVICE_RESET` (R326): only the value 0x5253_4554 resets, also after a fatal error; the reset ends every window, and any
other value is dropped. -/
def execDeviceReset (v : RegWrite) (s : State) : Result :=
  if v.value = 0x52534554 then
    if (s.link 16).discarding || s.outerKnown v.chan v.seq || s.outerPending v.chan then .next s else .next (s.restart 1)
  else s.registerWrite v id

/-! Bring-up. -/

/-- `POWER_ON` (R319, R320): bring-up starts with phase 0x01, and phase 0x01 ends with the ROM's verdict on the images. -/
def execPowerOn (s : State) : Result :=
  if s.phase = 0 then .next { s with phase := 0x01 }
  else if s.phase = 0x01 then
    match State.badImage with
    | some k => .next (s.measureImages.halt 0xF0 k)
    | none => .next (s.measureImages.enterPhase 0x02)
  else .next s
/-- `STACK_TRAINING` (R319): the work of phase 0x02; a stack that fails is one of the eight. -/
def execStackTraining (failed : Option Nat) (s : State) : Result :=
  if s.phase = 0x02 then
    match failed with
    | some k => if k < 8 then .next (s.halt 0xF1 k) else .next s
    | none => .next (s.zeroMemory.enterPhase 0x03)
  else .next s
/-- `D2D_TRAINING` (R247, R319): the work of phase 0x03; `lowBad` and `highBad` are modules with a failing lane in a half. -/
def execD2dTraining (lowBad highBad : List Nat) (s : State) : Result :=
  if s.phase = 0x03 then
    let s1 := (List.range 24).foldl (fun (u : State) m => u.trainModule m (!lowBad.contains m) (!highBad.contains m)) s
    match (List.range 24).find? fun m => s1.bothDown m with
    | some m => .next (s1.halt 0xF3 m)
    | none => .next (s1.enterPhase 0x04)
  else .next s
/-- Stacks of a mask pass from their reset owners to the other die, before any bind (R237). -/
def State.moveOwners (s : State) (moved : BitVec 8) : State :=
  ((List.range 8).filter fun k => moved.getLsbD k).foldl (fun (u : State) k =>
    let d := 1 - resetOwner k
    { u with arbiters := u.arbiters.put k { u.arbiter k with owner := d }, routes := (u.routes.put k d).put (8 + k) d }) s
/-- `KNANOS_START` (R32, R237, R319): the work of phase 0x04, which fails with `none`; all stacks receive their reset owners,
of which Knanos then moves a set, and `%clock` starts from 0. -/
def execKnanosStart (moved : Option (BitVec 8)) (s : State) : Result :=
  if s.phase = 0x04 then
    match moved with
    | some m => .next (State.moveOwners { s.enterPhase readyPhase with tick := 0, arbiters := [], routes := [] } m)
    | none => .next (s.halt 0xF0 0xFF)
  else .next s
/-- A sensor of a die has stayed at or above CRIT for 1 ms, whatever the phase (R326). DEDUCED: by its readings, log entry 33. -/
def State.tripDue (s : State) (die : Nat) : Bool :=
  match if die = 0 then s.trip0 else s.trip1 with
  | some t => decide (t + ticksPerMs ≤ s.time)
  | none => false
/-- `THERMAL_TRIP` (R326). -/
def execThermalTrip (die : Nat) (s : State) : Result := if s.tripDue die then .next (s.restart 2) else .next s

/-! Errors. -/

/-- `FATAL_ERROR` (R301, R302). -/
def execFatalError (kind die part : Nat) (s : State) : Result :=
  if s.mayBeFatal kind then .next (s.fatal kind die part) else .next s
/-- `DCL_LINK_LOSS` (R255, R301). -/
def execDclLinkLoss (s : State) : Result := if s.phase = readyPhase then .next (s.fatal 4 0 0) else .next s
/-- `MANAGEMENT_CORE_TIMEOUT` (R301). -/
def execManagementCoreTimeout (die : Nat) (s : State) : Result :=
  if s.phase = readyPhase then .next (s.fatal 5 die 0) else .next s
/-- `UNCORRECTABLE_ERROR` (R204, R299). -/
def execUncorrectableError (site : ErrorSite) (s : State) : Result := .next (s.strike site)
/-- `DCL_RECOVERY` (R255): the link returns at x16 or x8; requests go on through retry and done-windows. -/
def execDclRecovery (x8 : Bool) (s : State) : Result := .next { s with dclWide := !x8 }

/-- `MESSAGE_WRITE` (R322): the oldest waiting message, once the ring has room and its request may leave; its launch is then done.
After a fatal error only the fatal message can be waiting. -/
def execMessageWrite (s : State) : Result :=
  match s.messages with
  | [] => .next s
  | m :: rest =>
    if (s.phase ≠ readyPhase ∧ s.phase ≠ fatalPhase) ∨ s.mayWrite m.w0 m.w1 = false then .next s
    else
      let s1 : State := { s.writeMessage m.w0 m.w1 with messages := rest }
      match m.lrec.bind fun lrec => s1.launches.find? fun l => l.lrec == lrec && l.state == .sending with
      | some l => .next (s1.setLaunch { l with state := .final }).forget
      | none => .next s1

end Sys2Proof.Machine
end

