-- ==== Sys2Proof/Machine/Commands.lean ====
section
/-! DEFINITION. Management commands (R323 to R325, R358), the code roots that they make and switch (R306, R310, R314), and
the SPDM responder (R321). -/

namespace Sys2Proof.Machine
namespace State

/-- The block of the command that starts next (R323, R324): one at a time, read when it starts. DESIGN CHOICE: low
address bits are ignored, log entry 29. -/
def commandBlock (s : State) : Option Line :=
  match s.commands with
  | c :: _ => if s.phase = readyPhase ∧ c.done = false ∧ s.busy c.pa = false then some (s.homeLine c.pa) else none
  | [] => none
/-- The same, if it has the CODE. -/
def commandDue (s : State) (code : Nat) : Option Line := s.commandBlock.filter fun l => recNum l 0 2 == code
/-- The command that has started ends with a result and a value; its reply is still to be written. -/
def finish (s : State) (l : Line) (result value : Nat) (awaits : Option Nat) : State :=
  match s.commands with
  | c :: rest => { s with commands := { c with
      done := true, code := BitVec.ofNat 8 (recNum l 0 2), tag := BitVec.ofNat 16 (recNum l 2 2),
      result := BitVec.ofNat 64 (value * 256 + result), awaits := awaits } :: rest }
  | [] => s
/-- Every byte from 4 on that no parameter names is zero (R358); a parameter is an offset and a length. -/
def onlyNamed (l : Line) (named : List (Nat × Nat)) : Bool :=
  (List.range 124).all fun i => l.byte (i + 4) == 0 || named.any fun p => decide (p.1 ≤ i + 4) && decide (i + 4 < p.1 + p.2)
/-- A physical address, aligned, within a stack's backed range. -/
def paOk (a align : Nat) : Bool := backed a && a % align == 0
/-- A range of bytes within one stack's backed range. -/
def rangeOk (a n : Nat) : Bool := backed a && decide (a % 2 ^ 36 + n ≤ 48 * 2 ^ 30)
/-- A command ends: result 1 where its parameters break R358, result 2 where the device's state refuses it, else by f.
DEDUCED: in this order, log entry 38. -/
def conclude (s : State) (l : Line) (paramsOk stateOk : Bool) (f : State → State) : Result :=
  if !paramsOk then .next (s.finish l 1 0 none)
  else if !stateOk then .next (s.finish l 2 0 none)
  else .next (f s)
/-- A command's context parameter. -/
def ctxParam (l : Line) : Nat := recNum l 8 8
/-- Whether a context has a bound launch (R325). -/
def hasBind (s : State) (ctx : Nat) : Bool := !(s.ctxBinds ctx).isEmpty

/-! Contexts and code roots. -/

/-- Where Knanos places a context's object table, and the two places between which its import tables alternate. DESIGN
CHOICE: log entry 22. -/
def objectTable (ctx : Nat) : Nat := Config.codeRoots + 0x10000 + 0x1000 * ctx
def importTable (ctx which : Nat) : Nat := Config.codeRoots + 0x200000 + 0x10000 * ctx + 0x8000 * which
/-- A code root's image (R303). -/
def rootOf (objt impt impn epoch : Nat) : Nat := objt + impt * 2 ^ 128 + impn * 2 ^ 192 + epoch * 2 ^ 240
def setRoot (s : State) (ctx v : Nat) : State := s.rawBytes (Config.codeRoots + 32 * ctx) 32 v
/-- An import entry of a code reference; a zero reference gives one that is not valid (R306). -/
def importOf (cref : Nat) : Nat := if cref = 0 then 0 else 2 ^ 63 + cref
/-- The rights of a context beside those of every other registered one (R193). -/
def rightsOk (s : State) (ctx : Nat) (use give : BitVec 8) : Bool :=
  give &&& ~~~use == 0 && s.contexts.all fun x => x.1 == ctx || !x.2.registered || (give &&& x.2.use == 0 && x.2.give &&& use == 0)
/-- The first registration's code root: 256 free objects, one import entry, EPOCH 0 (R306). -/
def createRoot (s : State) (ctx handler : Nat) : State :=
  let s1 := (s.rawBytes (objectTable ctx) 4096 0).rawBytes (importTable ctx 0) 8 (importOf handler)
  s1.setRoot ctx (rootOf (objectTable ctx) (importTable ctx 0) 0 0)
/-- An import switch begins (R314 steps 1 to 3): a complete new table of `impn` + 1 entries from an address, in the area
that is free; f then changes it. -/
def beginSwitch (s : State) (ctx table impn : Nat) (f : State → Nat → State) : State :=
  let r := s.codeRoot ctx
  let place := if rootImpt r = importTable ctx 0 then importTable ctx 1 else importTable ctx 0
  let s1 := f (s.copyRange table place (8 * (impn + 1))) place
  let s2 := s1.setRoot ctx (rootOf (rootObjt r) place impn (min 0xFFFF (rootEpoch r + 1)))
  s2.onContext ctx fun x => { x with
    switching := true, adopt := ((s.ctxBinds ctx).map Prod.fst).eraseDups, oldTable := (rootImpt r, rootImpn r) }
/-- Command 0x02's effect. DESIGN CHOICE: the ASID is the context number, log entry 23. -/
def registerCtx (s : State) (l : Line) : State :=
  let ctx := ctxParam l
  let handler := recNum l 40 8
  let again := (s.context ctx).registered
  let s1 := s.onContext ctx fun x => { x with
    registered := true, root := recNum l 16 8, use := l.byte 24, give := l.byte 25, area := recNum l 32 8,
    asid := BitVec.ofNat 14 ctx }
  if again then
    let r := s.codeRoot ctx
    (s1.beginSwitch ctx (rootImpt r) (rootImpn r) fun u place => u.rawBytes place 8 (importOf handler)).finish l 0 0 (some ctx)
  else (s1.createRoot ctx handler).finish l 0 0 none
/-- Whether a slot of a context is still to fetch code of an object: it meets the index as it now is (R315). -/
def fetches (s : State) (ctx i : Nat) : Bool :=
  s.cores.any fun e => e.2.slots.any fun t => t.2.occupied && s.inCtx ctx e.1 t.1 && needsFetch t.2 &&
    (t.2.pc.extractLsb' 24 8).toNat == i
/-- Free indices of a context's object table: STATE free, or 0b11, which is treated as free (R305), and no slot still to meet
what stood there (R315). -/
def freeObjects (s : State) (ctx : Nat) : List Nat :=
  (List.range 256).filter fun i => (objState (s.ctxObject ctx i) == 0 || objState (s.ctxObject ctx i) == 3) && !(s.fetches ctx i)
/-- An object table entry: live, revision 2 (R305). -/
def objectOf (base len : Nat) : Nat := 1 + 2 * 2 ^ 8 + len * 2 ^ 32 + base * 2 ^ 64
/-- Command 0x05's effect: which free index Knanos takes is open; the object brings its seam images (R308, R313). -/
def installObj (s : State) (l : Line) (images : List (Nat × List W64)) : State :=
  let ctx := ctxParam l
  let free := s.freeObjects ctx
  let pick := s.free
  let i := free.getD (pick.1.toNat % free.length) 0
  let s1 := pick.2.rawBytes (rootObjt (s.codeRoot ctx) + 16 * i) 16 (objectOf (recNum l 16 8) (recNum l 24 4))
  let kept := s1.images.filter fun x => !(x.ctx == ctx && x.obj == i)
  let new : List SeamImage := images.map fun x => { ctx := ctx, obj := i, n := x.1, words := x.2 }
  State.finish { s1 with images := kept ++ new } l 0 i none
/-- Whether a bind uses a peer handle: an entry of its handle table that names a peer (R325, R250). -/
def usesPeer (s : State) : Bool :=
  s.cores.any fun e => (List.range 8).any fun b =>
    let k := (s.core e.1).bind b
    k.state != .free && (List.range (k.hcnt + 1)).any fun h => match (s.handle e.1 b h).1 with
      | some x => handleOk x && hSpace x == 1
      | none => false
/-- A quiesce point of every context (R247). -/
def allQuiet (s : State) : Bool := s.contexts.all fun x => s.quiet x.1
/-- What belongs to a command's effect beyond its own step has come to its end (R324). -/
def effectDone (s : State) (c : Command) : Bool :=
  match c.awaits with
  | none => true
  | some ctx => !(s.context ctx).switching && (s.squallOn ctx).isNone &&
      !(s.launches.any fun l => l.ctx == ctx && (l.state == .resetting || (l.final == 5 && l.state != .final)))

/-! SPDM (R321): messages of version 1.2 as DSP0274 lays them out. -/

/-- A number of `n` bytes. -/
def leBytes (n v : Nat) : List Byte := (List.range n).map fun i => BitVec.ofNat 8 (v / 256 ^ i)
/-- Parameters of command 0x0A: request place, its length, response place. -/
def spdmOk (l : Line) : Bool :=
  let n := recNum l 24 4
  onlyNamed l [(16, 8), (24, 4), (32, 8)] && decide (4 ≤ n) && decide (n ≤ 4096) && rangeOk (recNum l 16 8) n && rangeOk (recNum l 32 8) 4096
/-- The request's bytes. -/
def spdmRequest (s : State) (l : Line) : List Byte := (List.range (recNum l 24 4)).map fun i => Memory.get s.mem (recNum l 16 8 + i)
/-- The request of a command 0x0A that is due. -/
def spdmDue (s : State) : Option (Line × List Byte) :=
  (s.commandDue 0x0A).bind fun l => if spdmOk l then some (l, s.spdmRequest l) else none
def reqByte (r : List Byte) (i : Nat) : Nat := (r.getD i 0).toNat
def reqNum (r : List Byte) (i n : Nat) : Nat := numOfBytes ((r.drop i).take n)
/-- ERROR with its code and data. -/
def spdmError (code data : Nat) : List Byte := leBytes 1 0x12 ++ leBytes 1 0x7F ++ leBytes 1 code ++ leBytes 1 data
def unsupported (r : List Byte) : List Byte := spdmError 0x07 (reqByte r 1)
def versionMismatch : List Byte := spdmError 0x41 0
/-- A header of version 1.2. PRESUMED: as DSP0274 has it, log entry 28. -/
def spdmHead (code p1 p2 : Nat) : List Byte := leBytes 1 0x12 ++ leBytes 1 code ++ leBytes 1 p1 ++ leBytes 1 p2
/-- The response is written, and the command ends with its length. -/
def respond (s : State) (l : Line) (response : List Byte) : State :=
  State.finish { s.pokeBytes (recNum l 32 8) response with spdm := s.spdm + 1 } l 0 response.length none
/-- A request of version 1.2 with a code, answered by f; of another version, by VersionMismatch. -/
def answer (s : State) (code : Nat) (f : State → Line → List Byte → State) : Result :=
  match s.spdmDue with
  | some (l, r) =>
    if reqByte r 1 ≠ code then .next s
    else if reqByte r 0 ≠ 0x12 then .next (s.respond l versionMismatch)
    else .next (f s l r)
  | none => .next s
/-- VERSION: 1.2 alone. -/
def versionAnswer : List Byte := leBytes 1 0x10 ++ leBytes 1 0x04 ++ leBytes 2 0 ++ leBytes 1 0 ++ leBytes 1 1 ++ leBytes 2 0x1200
/-- CAPABILITIES: CERT_CAP, CHAL_CAP, and MEAS_CAP for signed measurements; the time exponent is open. -/
def capabilitiesAnswer (ctExponent : Nat) : List Byte :=
  spdmHead 0x61 0 0 ++ leBytes 1 0 ++ leBytes 1 ctExponent ++ leBytes 2 0 ++ leBytes 4 0x16 ++ leBytes 4 4096 ++ leBytes 4 4096
/-- ALGORITHMS: RSASSA-PSS 3072 and SHA-384. -/
def algorithmsAnswer : List Byte :=
  spdmHead 0x63 0 0 ++ leBytes 2 36 ++ leBytes 1 1 ++ leBytes 1 0 ++ leBytes 4 4 ++ leBytes 4 8 ++ leBytes 4 2 ++ leBytes 16 0
/-- Whether an offer holds both. -/
def offers (r : List Byte) : Bool := (BitVec.ofNat 32 (reqNum r 8 4)).getLsbD 3 && (BitVec.ofNat 32 (reqNum r 12 4)).getLsbD 1
/-- DIGESTS: slot 0. -/
def digestsAnswer : List Byte := spdmHead 0x01 0 1 ++ leBytes 48 Config.certDigest.toNat
/-- CERTIFICATE: a portion of slot 0's chain. -/
def certificateAnswer (off len : Nat) : List Byte :=
  let n := min (min len 4088) (Config.certChain.length - off)
  spdmHead 0x02 0 0 ++ leBytes 2 n ++ leBytes 2 (Config.certChain.length - off - n) ++ (Config.certChain.drop off).take n
/-- The measurement block of an index: the images' digests, and the fused state's at 13 (R320). -/
def measurementBlock (s : State) (k : Nat) : List Byte :=
  leBytes 1 k ++ leBytes 1 1 ++ leBytes 2 51 ++ leBytes 1 (if k = 13 then 2 else 1) ++ leBytes 2 48 ++ leBytes 48 (s.measured.get 0 k).toNat
/-- The indices that a GET_MEASUREMENTS asks for: one of 1 to 13, or all. -/
def measuredBy (op : Nat) : List Nat := if op = 0xFF then (List.range 13).map fun i => i + 1 else [op]
/-- CHALLENGE_AUTH before its signature; the summary is that of all measurements. -/
def challengeBody (s : State) (summary : Bool) (nonce : BitVec 256) : List Byte :=
  spdmHead 0x03 0 1 ++ leBytes 48 Config.certDigest.toNat ++ leBytes 32 nonce.toNat ++
    (if summary then leBytes 48 (Config.sha384 ((measuredBy 0xFF).flatMap s.measurementBlock)).toNat else []) ++ leBytes 2 0
/-- MEASUREMENTS before its signature. -/
def measurementsBody (s : State) (op : Nat) (nonce : BitVec 256) : List Byte :=
  let blocks := (measuredBy op).flatMap s.measurementBlock
  spdmHead 0x60 0 0 ++ leBytes 1 (measuredBy op).length ++ leBytes 3 blocks.length ++ blocks ++
    leBytes 32 nonce.toNat ++ leBytes 2 0
/-- A signature over a transcript. -/
def signature (transcript : List Byte) : List Byte := leBytes 384 (Config.sign transcript).toNat

/-- The request codes with steps of their own. -/
def spdmKnown : List Nat := [0x84, 0xE1, 0xE3, 0x81, 0x82, 0x83, 0xE0]

end State

/-! Commands. -/

/-- `REGISTER_LAUNCH_QUEUE` (R258, R325): command 0x01. -/
def execRegisterLaunchQueue (s : State) : Result :=
  match s.commandDue 0x01 with
  | none => .next s
  | some l =>
    let ctx := State.ctxParam l
    let q : Queue := { ctx := ctx, ring := recNum l 16 8, s := recNum l 24 8, tail := recNum l 32 8, head := recNum l 40 8,
                       seen := 0, next := 0, done := 0, own := false, polled := s.clock }
    let ok := State.onlyNamed l [(8, 8), (16, 8), (24, 8), (32, 8), (40, 8)] && decide (ctx < 256) && State.paOk q.ring 128 &&
      decide (4 ≤ q.s) && decide (q.s ≤ 16) && State.paOk q.tail 8 && State.paOk q.head 8
    s.conclude l ok ((s.context ctx).registered && decide (s.queues.length < 1024)) fun u =>
      State.finish { u with queues := u.queues ++ [q] } l 0 0 none
/-- `REGISTER_CONTEXT` (R193, R306, R325): command 0x02. A later one with no handler would switch to a table whose entry 0
is not valid, and is refused. -/
def execRegisterContext (s : State) : Result :=
  match s.commandDue 0x02 with
  | none => .next s
  | some l =>
    let ctx := State.ctxParam l
    let handler := recNum l 40 8
    let ok := State.onlyNamed l [(8, 8), (16, 8), (24, 2), (32, 8), (40, 8)] && decide (ctx < 256) &&
      State.paOk (recNum l 16 8) (2 ^ 14) && State.paOk (recNum l 32 8) (2 ^ 16) && State.rangeOk (recNum l 32 8) (2 ^ 21) &&
      decide (handler < 2 ^ 32) && handler % 4 == 0
    s.conclude l ok (!(s.hasBind ctx) && s.rightsOk ctx (l.byte 24) (l.byte 25) && !((s.context ctx).registered && handler == 0))
      fun u => u.registerCtx l
/-- `PRE_EMPT` (R293, R325): command 0x03; a launch whose drain runs already is running still, and its drain goes on. -/
def execPreEmpt (s : State) : Result :=
  match s.commandDue 0x03 with
  | none => .next s
  | some l =>
    let lrec := recNum l 8 8
    let x := s.launch? lrec
    let running := (x.map Launch.state) == some .running
    s.conclude l (State.onlyNamed l [(8, 8)] && State.paOk lrec 128) (running || (x.map Launch.state) == some .stopping) fun u =>
      match x with
      | some y => (if running then u.stopLaunch y else u).finish l 0 0 none
      | none => u
/-- `SQUALL_RESET_COMMAND` (R296, R325): command 0x04. -/
def execSquallResetCommand (s : State) : Result :=
  match s.commandDue 0x04 with
  | none => .next s
  | some l =>
    let ctx := State.ctxParam l
    s.conclude l (State.onlyNamed l [(8, 8)] && decide (ctx < 256)) (s.context ctx).registered fun u =>
      (u.askSquall (Squall.ask ctx 4)).finish l 0 0 (some ctx)
/-- `INSTALL_OBJECT` (R310, R325): command 0x05, with the seam images that the object's container brings. -/
def execInstallObject (images : List (Nat × List W64)) (s : State) : Result :=
  match s.commandDue 0x05 with
  | none => .next s
  | some l =>
    let ctx := State.ctxParam l
    let base := recNum l 16 8
    let len := recNum l 24 4
    let ok := State.onlyNamed l [(8, 8), (16, 8), (24, 4)] && decide (ctx < 256) && base % 128 == 0 && decide (base < 2 ^ 56) &&
      len % 4 == 0 && decide (4 ≤ len) && decide (len ≤ 0xFFFFFC)
    s.conclude l ok ((s.context ctx).registered && !(s.freeObjects ctx).isEmpty) fun u => u.installObj l images
/-- `IMPORT_SWITCH` (R306, R314, R325): command 0x06; the value is the new EPOCH. -/
def execImportSwitch (s : State) : Result :=
  match s.commandDue 0x06 with
  | none => .next s
  | some l =>
    let ctx := State.ctxParam l
    let table := recNum l 16 8
    let impn := recNum l 24 2
    let entry := BitVec.ofNat 64 (Memory.read s.mem table 8)
    let ok := State.onlyNamed l [(8, 8), (16, 8), (24, 2)] && decide (ctx < 256) && State.paOk table 128 && decide (impn ≤ 4095)
    s.conclude l ok ((s.context ctx).registered && entry.getLsbD 63 && entry.extractLsb' 32 31 == 0) fun u =>
      (u.beginSwitch ctx table impn fun v _ => v).finish l 0 (min 0xFFFF (rootEpoch (s.codeRoot ctx) + 1)) (some ctx)
/-- `WRITE_DOMAIN_TABLE` (R249, R325): command 0x08. -/
def execWriteDomainTable (s : State) : Result :=
  match s.commandDue 0x08 with
  | none => .next s
  | some l =>
    let dev := recNum l 8 8
    let peer := recNum l 16 8
    let e : W64 := BitVec.ofNat 64 (recNum l 24 8)
    let ok := State.onlyNamed l [(8, 8), (16, 8), (24, 8)] && decide (dev ≤ 15) && decide (peer ≤ 15) &&
      e.extractLsb' 20 12 == 0 && e.extractLsb' 4 8 == 0
    s.conclude l ok (!s.usesPeer) fun u =>
      State.finish { u with devno := BitVec.ofNat 64 dev, peers := u.peers.put peer e } l 0 0 none
/-- `MODULE_UP` (R247, R325): command 0x09 returns a module that is down, as a training of its halves finds it. DESIGN CHOICE: a
module that is down has no width to keep; it returns at x64 where no lane fails, log entry 77. -/
def execModuleUp (lowOk highOk : Bool) (s : State) : Result :=
  match s.commandDue 0x09 with
  | none => .next s
  | some l =>
    let m := recNum l 8 8
    s.conclude l (State.onlyNamed l [(8, 8)] && decide (m < 24)) s.allQuiet fun u =>
      let v := if (u.module m).state = .down then
          (u.onModule m fun x => { x with state := .training, width := 0 }).trainModule m lowOk highOk
        else u
      v.finish l 0 0 none
/-- `COMMAND_UNKNOWN` (R324). -/
def execCommandUnknown (s : State) : Result :=
  match s.commandBlock with
  | some l =>
    if [0x01, 0x02, 0x03, 0x04, 0x05, 0x06, 0x08, 0x09, 0x0A].contains (recNum l 0 2) then .next s
    else .next (s.finish l 3 0 none)
  | none => .next s
/-- The first word of a command's reply (R324). -/
def Command.reply (c : Command) : W64 := BitVec.ofNat 64 (1 + 256 * c.code.toNat + 65536 * c.tag.toNat)
/-- `COMMAND_REPLY` (R322, R324): the reply of the finished command, once its effect is complete and it can be written. -/
def execCommandReply (s : State) : Result :=
  match s.commands with
  | c :: rest =>
    if c.done = true ∧ s.phase = readyPhase ∧ s.effectDone c = true ∧ s.mayWrite c.reply c.result = true then
      .next { s.writeMessage c.reply c.result with commands := rest }
    else .next s
  | [] => .next s

/-! SPDM requests. -/

/-- `GET_VERSION` (R321): its request carries version 1.0, as the standard requires of this request alone. -/
def execGetVersion (s : State) : Result :=
  match s.spdmDue with
  | some (l, r) =>
    if reqCode r ≠ 0x84 then .next s
    else if State.reqByte r 0 ≠ 0x10 then .next (s.respond l State.versionMismatch)
    else .next (State.respond { s with spdmA := r ++ State.versionAnswer, spdmB := [], spdmL := [] } l State.versionAnswer)
  | none => .next s
where
  /-- The request code. -/
  reqCode (r : List Byte) : Nat := State.reqByte r 1
/-- `GET_CAPABILITIES` (R321). -/
def execGetCapabilities (s : State) : Result :=
  s.answer 0xE1 fun u l r =>
    let a := State.capabilitiesAnswer (u.free.1.toNat % 256)
    State.respond { u.free.2 with spdmA := u.spdmA ++ r ++ a } l a
/-- `NEGOTIATE_ALGORITHMS` (R321). -/
def execNegotiateAlgorithms (s : State) : Result :=
  s.answer 0xE3 fun u l r =>
    if State.offers r then State.respond { u with spdmA := u.spdmA ++ r ++ State.algorithmsAnswer } l State.algorithmsAnswer
    else u.respond l (State.unsupported r)
/-- `GET_DIGESTS` (R321). -/
def execGetDigests (s : State) : Result :=
  s.answer 0x81 fun u l r => State.respond { u with spdmB := u.spdmB ++ r ++ State.digestsAnswer } l State.digestsAnswer
/-- `GET_CERTIFICATE` (R321): slot 0 only. -/
def execGetCertificate (s : State) : Result :=
  s.answer 0x82 fun u l r =>
    if State.reqByte r 2 ≠ 0 then u.respond l (State.unsupported r)
    else
      let a := State.certificateAnswer (State.reqNum r 4 2) (State.reqNum r 6 2)
      State.respond { u with spdmB := u.spdmB ++ r ++ a } l a
/-- `CHALLENGE` (R321): slot 0 only, signed by the device key. -/
def execChallenge (s : State) : Result :=
  s.answer 0x83 fun u l r =>
    if State.reqByte r 2 ≠ 0 then u.respond l (State.unsupported r)
    else
      let a := State.challengeBody u (State.reqByte r 3 != 0) (Config.nonce u.spdm)
      State.respond { u with spdmB := [] } l (a ++ State.signature (u.spdmA ++ u.spdmB ++ r ++ a))
/-- `GET_MEASUREMENTS` (R321): one of the indices 1 to 13, or all of them, and no other option (R9); signed when the request
asks for it. -/
def execGetMeasurements (s : State) : Result :=
  s.answer 0xE0 fun u l r =>
    let op := State.reqByte r 3
    let signed := State.reqByte r 2 % 2 == 1
    if op = 0 ∨ (13 < op ∧ op ≠ 0xFF) ∨ (signed = true ∧ State.reqByte r 36 % 16 ≠ 0) then u.respond l (State.unsupported r)
    else
      let a := State.measurementsBody u op (Config.nonce u.spdm)
      if signed then State.respond { u with spdmL := [] } l (a ++ State.signature (u.spdmA ++ u.spdmL ++ r ++ a))
      else State.respond { u with spdmL := u.spdmL ++ r ++ a } l a
/-- `SPDM_UNSUPPORTED_REQUEST` (R321): any other request code; and a command 0x0A whose parameters break R358 ends here. -/
def execSpdmUnsupportedRequest (s : State) : Result :=
  match s.commandDue 0x0A with
  | none => .next s
  | some l =>
    if !State.spdmOk l then .next (s.finish l 1 0 none)
    else
      let r := s.spdmRequest l
      if State.spdmKnown.contains (State.reqByte r 1) then .next s
      else if State.reqByte r 0 ≠ 0x12 then .next (s.respond l State.versionMismatch)
      else .next (s.respond l (State.unsupported r))

end Sys2Proof.Machine
end

