-- ==== Sys2Proof/Machine/Dispatch.lean ====
section
/-! DEFINITION. One arm per constructor: every instruction, micro-op and device step by its meaning. -/

namespace Sys2Proof.Machine

def exec (i : Instr) (s : State) : Host.Outcome State Fault Refusal :=
  match i with
  | .nopC => Sys2Proof.Machine.execNopC s
  | .movB32C d b => Sys2Proof.Machine.execMovB32C d b s
  | .movB32Clit d lit => Sys2Proof.Machine.execMovB32Clit d lit s
  | .movB32Imm8C d i0 => Sys2Proof.Machine.execMovB32Imm8C d i0 s
  | .addI32C d a b => Sys2Proof.Machine.execAddI32C d a b s
  | .addI32Clit d a lit => Sys2Proof.Machine.execAddI32Clit d a lit s
  | .addI32Imm8C d a i0 => Sys2Proof.Machine.execAddI32Imm8C d a i0 s
  | .subI32C d a b => Sys2Proof.Machine.execSubI32C d a b s
  | .subI32Clit d a lit => Sys2Proof.Machine.execSubI32Clit d a lit s
  | .mulI32C d a b => Sys2Proof.Machine.execMulI32C d a b s
  | .mulI32Clit d a lit => Sys2Proof.Machine.execMulI32Clit d a lit s
  | .andB32C d a b => Sys2Proof.Machine.execAndB32C d a b s
  | .andB32Clit d a lit => Sys2Proof.Machine.execAndB32Clit d a lit s
  | .andB32Imm8C d a i0 => Sys2Proof.Machine.execAndB32Imm8C d a i0 s
  | .orB32C d a b => Sys2Proof.Machine.execOrB32C d a b s
  | .orB32Clit d a lit => Sys2Proof.Machine.execOrB32Clit d a lit s
  | .xorB32C d a b => Sys2Proof.Machine.execXorB32C d a b s
  | .xorB32Clit d a lit => Sys2Proof.Machine.execXorB32Clit d a lit s
  | .shlB32Imm8C d a i0 => Sys2Proof.Machine.execShlB32Imm8C d a i0 s
  | .shrB32Imm8C d a i0 => Sys2Proof.Machine.execShrB32Imm8C d a i0 s
  | .shrI32Imm8C d a i0 => Sys2Proof.Machine.execShrI32Imm8C d a i0 s
  | .shlB32C d a b => Sys2Proof.Machine.execShlB32C d a b s
  | .shlB32Clit d a lit => Sys2Proof.Machine.execShlB32Clit d a lit s
  | .shrB32C d a b => Sys2Proof.Machine.execShrB32C d a b s
  | .shrB32Clit d a lit => Sys2Proof.Machine.execShrB32Clit d a lit s
  | .minI32C d a b => Sys2Proof.Machine.execMinI32C d a b s
  | .minI32Clit d a lit => Sys2Proof.Machine.execMinI32Clit d a lit s
  | .maxI32C d a b => Sys2Proof.Machine.execMaxI32C d a b s
  | .maxI32Clit d a lit => Sys2Proof.Machine.execMaxI32Clit d a lit s
  | .popcB32C d a => Sys2Proof.Machine.execPopcB32C d a s
  | .clzB32C d a => Sys2Proof.Machine.execClzB32C d a s
  | .leaN32C d a b => Sys2Proof.Machine.execLeaN32C d a b s
  | .leaN32Clit d a lit => Sys2Proof.Machine.execLeaN32Clit d a lit s
  | .faddFp32C d a b => Sys2Proof.Machine.execFaddFp32C d a b s
  | .faddFp32Clit d a lit => Sys2Proof.Machine.execFaddFp32Clit d a lit s
  | .fmulFp32C d a b => Sys2Proof.Machine.execFmulFp32C d a b s
  | .fmulFp32Clit d a lit => Sys2Proof.Machine.execFmulFp32Clit d a lit s
  | .fminFp32C d a b => Sys2Proof.Machine.execFminFp32C d a b s
  | .fminFp32Clit d a lit => Sys2Proof.Machine.execFminFp32Clit d a lit s
  | .fmaxFp32C d a b => Sys2Proof.Machine.execFmaxFp32C d a b s
  | .fmaxFp32Clit d a lit => Sys2Proof.Machine.execFmaxFp32Clit d a lit s
  | .faddBf16C d a b => Sys2Proof.Machine.execFaddBf16C d a b s
  | .faddBf16Clit d a lit => Sys2Proof.Machine.execFaddBf16Clit d a lit s
  | .fmulBf16C d a b => Sys2Proof.Machine.execFmulBf16C d a b s
  | .fmulBf16Clit d a lit => Sys2Proof.Machine.execFmulBf16Clit d a lit s
  | .cvtFp32I32C d a => Sys2Proof.Machine.execCvtFp32I32C d a s
  | .cvtI32Fp32C d a => Sys2Proof.Machine.execCvtI32Fp32C d a s
  | .setpEqB32C p a b => Sys2Proof.Machine.execSetpEqB32C p a b s
  | .setpEqB32Clit p a lit => Sys2Proof.Machine.execSetpEqB32Clit p a lit s
  | .setpNeB32C p a b => Sys2Proof.Machine.execSetpNeB32C p a b s
  | .setpNeB32Clit p a lit => Sys2Proof.Machine.execSetpNeB32Clit p a lit s
  | .setpLtI32C p a b => Sys2Proof.Machine.execSetpLtI32C p a b s
  | .setpLtI32Clit p a lit => Sys2Proof.Machine.execSetpLtI32Clit p a lit s
  | .setpGeI32C p a b => Sys2Proof.Machine.execSetpGeI32C p a b s
  | .setpGeI32Clit p a lit => Sys2Proof.Machine.execSetpGeI32Clit p a lit s
  | .setpLtN32C p a b => Sys2Proof.Machine.execSetpLtN32C p a b s
  | .setpLtN32Clit p a lit => Sys2Proof.Machine.execSetpLtN32Clit p a lit s
  | .setpGeN32C p a b => Sys2Proof.Machine.execSetpGeN32C p a b s
  | .setpGeN32Clit p a lit => Sys2Proof.Machine.execSetpGeN32Clit p a lit s
  | .setpLtFp32C p a b => Sys2Proof.Machine.execSetpLtFp32C p a b s
  | .setpLtFp32Clit p a lit => Sys2Proof.Machine.execSetpLtFp32Clit p a lit s
  | .setpGeFp32C p a b => Sys2Proof.Machine.execSetpGeFp32C p a b s
  | .setpGeFp32Clit p a lit => Sys2Proof.Machine.execSetpGeFp32Clit p a lit s
  | .pandC d a b => Sys2Proof.Machine.execPandC d a b s
  | .porC d a b => Sys2Proof.Machine.execPorC d a b s
  | .pxorC d a b => Sys2Proof.Machine.execPxorC d a b s
  | .pandnC d a b => Sys2Proof.Machine.execPandnC d a b s
  | .pmovC d a => Sys2Proof.Machine.execPmovC d a s
  | .pnotC d a => Sys2Proof.Machine.execPnotC d a s
  | .ldBC d la b => Sys2Proof.Machine.execLdBC d la b s
  | .ldHC d la b => Sys2Proof.Machine.execLdHC d la b s
  | .ldWC d la b => Sys2Proof.Machine.execLdWC d la b s
  | .ldDC d la b => Sys2Proof.Machine.execLdDC d la b s
  | .stBC la b d => Sys2Proof.Machine.execStBC la b d s
  | .stHC la b d => Sys2Proof.Machine.execStHC la b d s
  | .stWC la b d => Sys2Proof.Machine.execStWC la b d s
  | .stDC la b d => Sys2Proof.Machine.execStDC la b d s
  | .recallC la => Sys2Proof.Machine.execRecallC la s
  | .flushC la => Sys2Proof.Machine.execFlushC la s
  | .exitC => Sys2Proof.Machine.execExitC s
  | .retC a => Sys2Proof.Machine.execRetC a s
  | .voteAnyC d a => Sys2Proof.Machine.execVoteAnyC d a s
  | .voteAllC d a => Sys2Proof.Machine.execVoteAllC d a s
  | .voteBallC d a => Sys2Proof.Machine.execVoteBallC d a s
  | .electC d => Sys2Proof.Machine.execElectC d s
  | .shflIdxC d a b => Sys2Proof.Machine.execShflIdxC d a b s
  | .shflXorC d a i0 => Sys2Proof.Machine.execShflXorC d a i0 s
  | .mfsC d sr => Sys2Proof.Machine.execMfsC d sr s
  | .pauseC => Sys2Proof.Machine.execPauseC s
  | .illegalInstruction why => Sys2Proof.Machine.execIllegalInstruction why s
  | .add g t d a b => Sys2Proof.Machine.execAdd g t d a b s
  | .sub g t d a b => Sys2Proof.Machine.execSub g t d a b s
  | .mul g t d a b => Sys2Proof.Machine.execMul g t d a b s
  | .mulhi g t d a b => Sys2Proof.Machine.execMulhi g t d a b s
  | .mad g t d a b c => Sys2Proof.Machine.execMad g t d a b c s
  | .madw g t d a b c => Sys2Proof.Machine.execMadw g t d a b c s
  | .min g t d a b => Sys2Proof.Machine.execMin g t d a b s
  | .max g t d a b => Sys2Proof.Machine.execMax g t d a b s
  | .abs g t d a => Sys2Proof.Machine.execAbs g t d a s
  | .neg g t d a => Sys2Proof.Machine.execNeg g t d a s
  | .lea g t d a b sh => Sys2Proof.Machine.execLea g t d a b sh s
  | .and g t d a b => Sys2Proof.Machine.execAnd g t d a b s
  | .or g t d a b => Sys2Proof.Machine.execOr g t d a b s
  | .xor g t d a b => Sys2Proof.Machine.execXor g t d a b s
  | .not g t d a => Sys2Proof.Machine.execNot g t d a s
  | .andn g t d a b => Sys2Proof.Machine.execAndn g t d a b s
  | .shl g t d a b => Sys2Proof.Machine.execShl g t d a b s
  | .shr g t d a b => Sys2Proof.Machine.execShr g t d a b s
  | .rot g d a b => Sys2Proof.Machine.execRot g d a b s
  | .popc g t d a => Sys2Proof.Machine.execPopc g t d a s
  | .clz g t d a => Sys2Proof.Machine.execClz g t d a s
  | .brev g d a => Sys2Proof.Machine.execBrev g d a s
  | .bfe g t d a b c => Sys2Proof.Machine.execBfe g t d a b c s
  | .bfi g d a b c => Sys2Proof.Machine.execBfi g d a b c s
  | .sel g t d a b c => Sys2Proof.Machine.execSel g t d a b c s
  | .mov g t d b => Sys2Proof.Machine.execMov g t d b s
  | .setp g test p a b => Sys2Proof.Machine.execSetp g test p a b s
  | .pand g d a b => Sys2Proof.Machine.execPand g d a b s
  | .por g d a b => Sys2Proof.Machine.execPor g d a b s
  | .pxor g d a b => Sys2Proof.Machine.execPxor g d a b s
  | .pandn g d a b => Sys2Proof.Machine.execPandn g d a b s
  | .pmov g d a => Sys2Proof.Machine.execPmov g d a s
  | .pnot g d a => Sys2Proof.Machine.execPnot g d a s
  | .fadd g t rm d a b => Sys2Proof.Machine.execFadd g t rm d a b s
  | .fsub g t rm d a b => Sys2Proof.Machine.execFsub g t rm d a b s
  | .fmul g t rm d a b => Sys2Proof.Machine.execFmul g t rm d a b s
  | .fma g t rm d a b c => Sys2Proof.Machine.execFma g t rm d a b c s
  | .fmin g t d a b => Sys2Proof.Machine.execFmin g t d a b s
  | .fmax g t d a b => Sys2Proof.Machine.execFmax g t d a b s
  | .fabs g t d a => Sys2Proof.Machine.execFabs g t d a s
  | .fneg g t d a => Sys2Proof.Machine.execFneg g t d a s
  | .fcsgn g t d a b => Sys2Proof.Machine.execFcsgn g t d a b s
  | .fscale g rm d a b => Sys2Proof.Machine.execFscale g rm d a b s
  | .fclamp g t rm d a b c => Sys2Proof.Machine.execFclamp g t rm d a b c s
  | .frnd g t rm d a => Sys2Proof.Machine.execFrnd g t rm d a s
  | .frcp g rm d a => Sys2Proof.Machine.execFrcp g rm d a s
  | .fsqrt g rm d a => Sys2Proof.Machine.execFsqrt g rm d a s
  | .frsqrt g rm d a => Sys2Proof.Machine.execFrsqrt g rm d a s
  | .fexp2 g rm d a => Sys2Proof.Machine.execFexp2 g rm d a s
  | .flog2 g rm d a => Sys2Proof.Machine.execFlog2 g rm d a s
  | .fsin g rm d a => Sys2Proof.Machine.execFsin g rm d a s
  | .fcos g rm d a => Sys2Proof.Machine.execFcos g rm d a s
  | .fdot2 g t rm d a b c => Sys2Proof.Machine.execFdot2 g t rm d a b c s
  | .lmul g t rm d a b => Sys2Proof.Machine.execLmul g t rm d a b s
  | .lmac g t rm d a b c => Sys2Proof.Machine.execLmac g t rm d a b c s
  | .cvt g dst src rm d a => Sys2Proof.Machine.execCvt g dst src rm d a s
  | .cvtp g t rm d a b => Sys2Proof.Machine.execCvtp g t rm d a b s
  | .cvtx g t rm d a k => Sys2Proof.Machine.execCvtx g t rm d a k s
  | .pk8 g t rm d a b h => Sys2Proof.Machine.execPk8 g t rm d a b h s
  | .unp8 g t d a k => Sys2Proof.Machine.execUnp8 g t d a k s
  | .pk4 g t rm d a b h => Sys2Proof.Machine.execPk4 g t rm d a b h s
  | .unp4 g t d a n => Sys2Proof.Machine.execUnp4 g t d a n s
  | .lenc g t d a => Sys2Proof.Machine.execLenc g t d a s
  | .ldec g t d a => Sys2Proof.Machine.execLdec g t d a s
  | .scal g t d a => Sys2Proof.Machine.execScal g t d a s
  | .perm g d a b c => Sys2Proof.Machine.execPerm g d a b c s
  | .prmt g d a b c => Sys2Proof.Machine.execPrmt g d a b c s
  | .bswp g d a => Sys2Proof.Machine.execBswp g d a s
  | .bcmp g c d a b => Sys2Proof.Machine.execBcmp g c d a b s
  | .bsub g d a b => Sys2Proof.Machine.execBsub g d a b s
  | .openLine g mode sc l p h a => Sys2Proof.Machine.execOpenLine g mode sc l p h a s
  | .sopen g l p a => Sys2Proof.Machine.execSopen g l p a s
  | .recallLine g la => Sys2Proof.Machine.execRecall g la s
  | .flush g la => Sys2Proof.Machine.execFlush g la s
  | .ld g sz d la b off => Sys2Proof.Machine.execLd g sz d la b off s
  | .st g sz la b d off => Sys2Proof.Machine.execSt g sz la b d off s
  | .lde g t d la b off => Sys2Proof.Machine.execLde g t d la b off s
  | .ste g t la b d off => Sys2Proof.Machine.execSte g t la b d off s
  | .atom g op d la b c => Sys2Proof.Machine.execAtom g op d la b c s
  | .red g op la b d => Sys2Proof.Machine.execRed g op la b d s
  | .pfd g h a => Sys2Proof.Machine.execPfd g h a s
  | .bra g off => Sys2Proof.Machine.execBra g off s
  | .call g off => Sys2Proof.Machine.execCall g off s
  | .callImport g entry => Sys2Proof.Machine.execCallImport g entry s
  | .callx g a => Sys2Proof.Machine.execCallx g a s
  | .jmpx g a => Sys2Proof.Machine.execJmpx g a s
  | .ret g a => Sys2Proof.Machine.execRet g a s
  | .exit g => Sys2Proof.Machine.execExit g s
  | .nop g => Sys2Proof.Machine.execNop g s
  | .join g p b => Sys2Proof.Machine.execJoin g p b s
  | .leave g p b => Sys2Proof.Machine.execLeave g p b s
  | .tbar g p a b => Sys2Proof.Machine.execTbar g p a b s
  | .tred g op d a b => Sys2Proof.Machine.execTred g op d a b s
  | .tbcast g d a b c => Sys2Proof.Machine.execTbcast g d a b c s
  | .shfl g mode d a b c => Sys2Proof.Machine.execShfl g mode d a b c s
  | .vote g dst a => Sys2Proof.Machine.execVote g dst a s
  | .matchLanes g t d a => Sys2Proof.Machine.execMatchLanes g t d a s
  | .confl g d a => Sys2Proof.Machine.execConfl g d a s
  | .cred g op d a => Sys2Proof.Machine.execCred g op d a s
  | .cscan g op excl d a => Sys2Proof.Machine.execCscan g op excl d a s
  | .elect g p => Sys2Proof.Machine.execElect g p s
  | .mma g a => Sys2Proof.Machine.execMma g a s
  | .mload g a => Sys2Proof.Machine.execMload g a s
  | .talloc g t a => Sys2Proof.Machine.execTalloc g t a s
  | .tfree g t => Sys2Proof.Machine.execTfree g t s
  | .tstat g d t => Sys2Proof.Machine.execTstat g d t s
  | .copy g a => Sys2Proof.Machine.execCopy g a s
  | .wait g w => Sys2Proof.Machine.execWait g w s
  | .sig g t la b d => Sys2Proof.Machine.execSig g t la b d s
  | .sigw g t la b d => Sys2Proof.Machine.execSigw g t la b d s
  | .stkgive g p a b => Sys2Proof.Machine.execStkgive g p a b s
  | .stkown g p a => Sys2Proof.Machine.execStkown g p a s
  | .tmset g a => Sys2Proof.Machine.execTmset g a s
  | .trap g code => Sys2Proof.Machine.execTrap g code s
  | .bkpt g tag => Sys2Proof.Machine.execBkpt g tag s
  | .rteRetry g => Sys2Proof.Machine.execRteRetry g s
  | .rteSkip g => Sys2Proof.Machine.execRteSkip g s
  | .rteExit g => Sys2Proof.Machine.execRteExit g s
  | .mfs g d sr => Sys2Proof.Machine.execMfs g d sr s
  | .mts g sr a => Sys2Proof.Machine.execMts g sr a s
  | .icinv g a => Sys2Proof.Machine.execIcinv g a s
  | .pfi g a => Sys2Proof.Machine.execPfi g a s
  | .pause g => Sys2Proof.Machine.execPause g s
  | .hld g f d h => Sys2Proof.Machine.execHld g f d h s
  | .seamld g a b => Sys2Proof.Machine.execSeamld g a b s
  | .xseam g n d a b c p imm => Sys2Proof.Machine.execXseam g n d a b c p imm s
  | .uopEnd => Sys2Proof.Machine.execUopEnd s
  | .uopAdd q a b k => Sys2Proof.Machine.execUopAdd q a b k s
  | .uopSub q a b k => Sys2Proof.Machine.execUopSub q a b k s
  | .uopMul q a b k => Sys2Proof.Machine.execUopMul q a b k s
  | .uopMad q a b c k => Sys2Proof.Machine.execUopMad q a b c k s
  | .uopAnd q a b k => Sys2Proof.Machine.execUopAnd q a b k s
  | .uopOr q a b k => Sys2Proof.Machine.execUopOr q a b k s
  | .uopXor q a b k => Sys2Proof.Machine.execUopXor q a b k s
  | .uopShl q a b k => Sys2Proof.Machine.execUopShl q a b k s
  | .uopShr arith q a b k => Sys2Proof.Machine.execUopShr arith q a b k s
  | .uopSel q a b c k => Sys2Proof.Machine.execUopSel q a b c k s
  | .uopCmp t q a b k => Sys2Proof.Machine.execUopCmp t q a b k s
  | .uopFadd rm q a b k => Sys2Proof.Machine.execUopFadd rm q a b k s
  | .uopFmul rm q a b k => Sys2Proof.Machine.execUopFmul rm q a b k s
  | .uopFma rm q a b c k => Sys2Proof.Machine.execUopFma rm q a b c k s
  | .uopFmin q a b k => Sys2Proof.Machine.execUopFmin q a b k s
  | .uopFmax q a b k => Sys2Proof.Machine.execUopFmax q a b k s
  | .uopLmul t q a b k => Sys2Proof.Machine.execUopLmul t q a b k s
  | .uopLtab t el q a k => Sys2Proof.Machine.execUopLtab t el q a k s
  | .uopCvt f q a b k => Sys2Proof.Machine.execUopCvt f q a b k s
  | .uopPack f rm q a b k => Sys2Proof.Machine.execUopPack f rm q a b k s
  | .uopLld q a off la => Sys2Proof.Machine.execUopLld q a off la s
  | .uopLst a b off la => Sys2Proof.Machine.execUopLst a b off la s
  | .uopShfl mode q a b k => Sys2Proof.Machine.execUopShfl mode q a b k s
  | .uopBrf z a t => Sys2Proof.Machine.execUopBrf z a t s
  | .uopLoop bounded a last cnt => Sys2Proof.Machine.execUopLoop bounded a last cnt s
  | .uopWr t a k => Sys2Proof.Machine.execUopWr t a k s
  | .parkedHandlerEntry core slot => Sys2Proof.Machine.execParkedHandlerEntry core slot s
  | .haltReachesMember core parked member => Sys2Proof.Machine.execHaltReachesMember core parked member s
  | .timerTrap core slot => Sys2Proof.Machine.execTimerTrap core slot s
  | .pauseExpiry core slot => Sys2Proof.Machine.execPauseExpiry core slot s
  | .exitRetire core slot => Sys2Proof.Machine.execExitRetire core slot s
  | .fillArrives core frame => Sys2Proof.Machine.execFillArrives core frame s
  | .abandonedFillArrives core frame => Sys2Proof.Machine.execAbandonedFillArrives core frame s
  | .tokenWaitMet core wid => Sys2Proof.Machine.execTokenWaitMet core wid s
  | .detectorFire core => Sys2Proof.Machine.execDetectorFire core s
  | .instructionFetch core slot again => Sys2Proof.Machine.execInstructionFetch core slot again s
  | .fillRead id => Sys2Proof.Machine.execFillRead id s
  | .writeBack id => Sys2Proof.Machine.execWriteBack id s
  | .homeRead id => Sys2Proof.Machine.execHomeRead id s
  | .homeWrite id => Sys2Proof.Machine.execHomeWrite id s
  | .atomicRequest id => Sys2Proof.Machine.execAtomicRequest id s
  | .reductionRequest id => Sys2Proof.Machine.execReductionRequest id s
  | .sigRequest id => Sys2Proof.Machine.execSigRequest id s
  | .sigwRead id => Sys2Proof.Machine.execSigwRead id s
  | .sigwResend id => Sys2Proof.Machine.execSigwResend id s
  | .engineLineRead core op line => Sys2Proof.Machine.execEngineLineRead core op line s
  | .engineLineWrite core op line => Sys2Proof.Machine.execEngineLineWrite core op line s
  | .walkRead core wid => Sys2Proof.Machine.execWalkRead core wid s
  | .sumDelivery id => Sys2Proof.Machine.execSumDelivery id s
  | .requestEntryFree id => Sys2Proof.Machine.execRequestEntryFree id s
  | .reply id outer => Sys2Proof.Machine.execReply id outer s
  | .windowAcknowledge die agent seq => Sys2Proof.Machine.execWindowAcknowledge die agent seq s
  | .flitReceive m dir crcOk formOk => Sys2Proof.Machine.execFlitReceive m dir crcOk formOk s
  | .retryRequest m dir => Sys2Proof.Machine.execRetryRequest m dir s
  | .ackTimeout m dir => Sys2Proof.Machine.execAckTimeout m dir s
  | .moduleRetrainComplete m lowOk highOk => Sys2Proof.Machine.execModuleRetrainComplete m lowOk highOk s
  | .handOverControl stack => Sys2Proof.Machine.execHandOverControl stack s
  | .handoverDrain stack => Sys2Proof.Machine.execHandoverDrain stack s
  | .handoverClose stack => Sys2Proof.Machine.execHandoverClose stack s
  | .handoverSwitch stack => Sys2Proof.Machine.execHandoverSwitch stack s
  | .peerRequest peer src seq pa op => Sys2Proof.Machine.execPeerRequest peer src seq pa op s
  | .peerTimeout id => Sys2Proof.Machine.execPeerTimeout id s
  | .hostMemoryRead chan seq pa op => Sys2Proof.Machine.execHostMemoryRead chan seq pa op s
  | .hostMemoryWrite chan seq pa op => Sys2Proof.Machine.execHostMemoryWrite chan seq pa op s
  | .hostRegisterRead chan seq off => Sys2Proof.Machine.execHostRegisterRead chan seq off s
  | .hostRegisterWrite off v => Sys2Proof.Machine.execHostRegisterWrite off v s
  | .dclLinkLoss => Sys2Proof.Machine.execDclLinkLoss s
  | .deviceReset v => Sys2Proof.Machine.execDeviceReset v s
  | .msgbaseWrite v => Sys2Proof.Machine.execMsgbaseWrite v s
  | .msgidxConsWrite v => Sys2Proof.Machine.execMsgidxConsWrite v s
  | .plimWrite v => Sys2Proof.Machine.execPlimWrite v s
  | .tlimWrite v => Sys2Proof.Machine.execTlimWrite v s
  | .dlineWrite v => Sys2Proof.Machine.execDlineWrite v s
  | .powerOn => Sys2Proof.Machine.execPowerOn s
  | .stackTraining failed => Sys2Proof.Machine.execStackTraining failed s
  | .d2dTraining lowBad highBad => Sys2Proof.Machine.execD2dTraining lowBad highBad s
  | .knanosStart moved => Sys2Proof.Machine.execKnanosStart moved s
  | .thermalTrip die => Sys2Proof.Machine.execThermalTrip die s
  | .fatalError kind die part => Sys2Proof.Machine.execFatalError kind die part s
  | .managementCoreTimeout die => Sys2Proof.Machine.execManagementCoreTimeout die s
  | .registerLaunchQueue => Sys2Proof.Machine.execRegisterLaunchQueue s
  | .registerContext => Sys2Proof.Machine.execRegisterContext s
  | .preEmpt => Sys2Proof.Machine.execPreEmpt s
  | .squallResetCommand => Sys2Proof.Machine.execSquallResetCommand s
  | .installObject images => Sys2Proof.Machine.execInstallObject images s
  | .importSwitch => Sys2Proof.Machine.execImportSwitch s
  | .writeDomainTable => Sys2Proof.Machine.execWriteDomainTable s
  | .moduleUp lowOk highOk => Sys2Proof.Machine.execModuleUp lowOk highOk s
  | .getVersion => Sys2Proof.Machine.execGetVersion s
  | .getCapabilities => Sys2Proof.Machine.execGetCapabilities s
  | .negotiateAlgorithms => Sys2Proof.Machine.execNegotiateAlgorithms s
  | .getDigests => Sys2Proof.Machine.execGetDigests s
  | .getCertificate => Sys2Proof.Machine.execGetCertificate s
  | .challenge => Sys2Proof.Machine.execChallenge s
  | .getMeasurements => Sys2Proof.Machine.execGetMeasurements s
  | .spdmUnsupportedRequest => Sys2Proof.Machine.execSpdmUnsupportedRequest s
  | .commandUnknown => Sys2Proof.Machine.execCommandUnknown s
  | .commandReply => Sys2Proof.Machine.execCommandReply s
  | .messageWrite => Sys2Proof.Machine.execMessageWrite s
  | .launchQueuePoll queue => Sys2Proof.Machine.execLaunchQueuePoll queue s
  | .launchRecordRead queue => Sys2Proof.Machine.execLaunchRecordRead queue s
  | .quiesceMoves lrec => Sys2Proof.Machine.execQuiesceMoves lrec s
  | .knanosBind lrec core entry crews macros => Sys2Proof.Machine.execKnanosBind lrec core entry crews macros s
  | .bindSetupDone core entry => Sys2Proof.Machine.execBindSetupDone core entry s
  | .powerThermalReading power energy temp0 temp1 => Sys2Proof.Machine.execPowerThermalReading power energy temp0 temp1 s
  | .claim core => Sys2Proof.Machine.execClaim core s
  | .claimPerform core entry => Sys2Proof.Machine.execClaimPerform core entry s
  | .claimReply core entry => Sys2Proof.Machine.execClaimReply core entry s
  | .preEmption lrec => Sys2Proof.Machine.execPreEmption lrec s
  | .deadlineExpiry lrec => Sys2Proof.Machine.execDeadlineExpiry lrec s
  | .unbind core entry => Sys2Proof.Machine.execUnbind core entry s
  | .launchCounterZero core entry => Sys2Proof.Machine.execLaunchCounterZero core entry s
  | .preEmptionSave lrec => Sys2Proof.Machine.execPreEmptionSave lrec s
  | .launchCompletion lrec => Sys2Proof.Machine.execLaunchCompletion lrec s
  | .completionWordAdd lrec => Sys2Proof.Machine.execCompletionWordAdd lrec s
  | .completionMessage lrec => Sys2Proof.Machine.execCompletionMessage lrec s
  | .squallReset ctx => Sys2Proof.Machine.execSquallReset ctx s
  | .resetRecordWrite ctx => Sys2Proof.Machine.execResetRecordWrite ctx s
  | .copyComplete core op => Sys2Proof.Machine.execCopyComplete core op s
  | .mloadComplete core op => Sys2Proof.Machine.execMloadComplete core op s
  | .mmaComplete core op => Sys2Proof.Machine.execMmaComplete core op s
  | .tfreeEffect core op => Sys2Proof.Machine.execTfreeEffect core op s
  | .macroSelfTest core mac good => Sys2Proof.Machine.execMacroSelfTest core mac good s
  | .importAdopt core ctx => Sys2Proof.Machine.execImportAdopt core ctx s
  | .importSwitchComplete ctx => Sys2Proof.Machine.execImportSwitchComplete ctx s
  | .objectFree ctx idx => Sys2Proof.Machine.execObjectFree ctx idx s
  | .cmdpaWrite v => Sys2Proof.Machine.execCmdpaWrite v s
  | .combinedRequestLeaves core quad => Sys2Proof.Machine.execCombinedRequestLeaves core quad s
  | .uncorrectableError site => Sys2Proof.Machine.execUncorrectableError site s
  | .macroFenceClear core mac => Sys2Proof.Machine.execMacroFenceClear core mac s
  | .dclRecovery x8 => Sys2Proof.Machine.execDclRecovery x8 s

end Sys2Proof.Machine
end

