-- ==== Sys2Proof/Machine/Run.lean ====
section
/-! DEFINITION. What each kind of turn does: a quadrant's issue (R22, R274), a micro-op (R208, R212), a device step, and
time (R31, R246). -/

namespace Sys2Proof.Machine

/-- Continues with a next state. -/
def Result.andThen (r : Result) (f : State → Result) : Result :=
  match r with
  | .next s => f s
  | .fault e => .fault e
  | .refused e => .refused e

namespace State

/-- A bundle's slots have issued in this cycle (R289 SKID, R164); an instruction other than an open ends their retry mode
(R123). -/
def noteIssue (s : State) (c q : Nat) (slots : List Nat) (i : Instr) (pair : Bool) : State :=
  let now := s.clock
  let n := s.issued c q
  let s1 := s.onCore c fun k => { k with
    issueCycle := now, issueQuad := q, issueCount := if pair then 2 else n + 1, issueClass := unitClass i }
  slots.foldl (fun (u : State) m => u.onSlot c m fun t => { t with
    recent := (now :: t.recent).take 8, retry := t.retry && isOpen i }) s1
/-- The lanes of a bundle that fail a decode check of their own, with each detail that occurs among them. -/
def badLanes (s : State) (c : Nat) (slots : List Nat) (i : Instr) : List (Detail × List Nat) :=
  [Detail.register, Detail.target, Detail.seamUnbound, Detail.privilege].map fun d => (d, slots.filter fun n => s.decodeFault c n i == some d)
/-- Runs an instruction for a bundle; for none of its slots it does nothing. -/
def runBundle (b : Bundle) (i : Instr) (s : State) : Result :=
  if b.slots.isEmpty then .next s else exec i { s with cur := some b }
/-- The instruction `i` of a bundle: lanes that fail a decode check trap with its detail, the others run it (R89, R90). -/
def runLanes (b : Bundle) (i : Instr) (s : State) : Result :=
  let bad := s.badLanes b.core b.slots i
  let good := b.slots.filter fun n => (s.decodeFault b.core n i).isNone
  bad.foldl (fun (r : Result) (x : Detail × List Nat) =>
      r.andThen fun u => u.runBundle { b with slots := x.2 } (.illegalInstruction x.1))
    (s.runBundle { b with slots := good } i)
/-- A bundle issues. -/
def issueBundle (s : State) (c q : Nat) (slots : List Nat) : Result :=
  let n := slots.headD 0
  let t := s.slot c n
  let i := instrAt t
  (s.noteIssue c q slots i (s.isPair c n)).runLanes { core := c, quad := q, slots := slots, pc := t.pc, len := lenAt t } i
/-- A quadrant's turn: the next bundle that it issues in this cycle, if nothing is due before it (R164, R173, R274). -/
def issueTurn (s : State) (c q : Nat) : Result :=
  if s.phase == readyPhase && decide (c < Config.cores) && decide (q < 4) && !(s.coreDue c) && s.mayIssue c q then
    match s.nextBundle c q with
    | some slots => s.issueBundle c q slots
    | none => .next s
  else .next s
/-- The next micro-op of a slot's running seam. Within a cycle micro-ops come before every instruction that the core issues,
so that a commit does (R212). -/
def uopTurn (s : State) (c n : Nat) : Result :=
  match (s.slot c n).seam with
  | none => .next s
  | some r => match if s.issuedAny c then none else (r.words[r.idx]?).bind decodeUop with
    | some i => s.runBundle { core := c, quad := quadOf n, slots := [n], pc := (s.slot c n).pc, len := 12 } i
    | none => .next s
/-- A re-send of a `sigw` is due (R228). -/
def resendDue (s : State) : Bool :=
  s.reqs.any fun r => match r.stage with
    | .resend t => decide (t ≤ s.clock)
    | _ => false
/-- A queue's TAIL has not been read for 5 µs, though it can be (R259). -/
def pollDue (s : State) : Bool :=
  s.queues.any fun q => decide (q.polled + 5 * Config.cyclesPerUs ≤ s.clock) && !(s.busy q.tail)
/-- Everything that belongs to the cycle has come about, on every core and with Knanos. -/
def cycleDone (s : State) : Bool :=
  (s.cores.all fun e => s.coreQuiet e.1 && !(s.claimDue e.1) && !(s.engineDue e.1)) && !s.giveDue &&
    !(s.launches.any s.deadlinePassed) && !(s.squalls.any fun q => q.stage == .asked && s.squallOpen q.ctx) && !s.resendDue && !s.pollDue
/-- One fabric tick on the links (R246, R248, R340). -/
def fabricTick (s : State) : State := { s.releaseErrands.sendFlits.ackTicks with tick := s.tick + 1, time := s.time + 1 }
/-- A core's new cycle begins: opens whose time has come complete, and the detector counts (R125, R223). -/
def coreCycle (s : State) (c : Nat) : State := (s.openTimers c).countDetector c
/-- Time goes on by one fabric tick, once a thermal trip that is due has reset the device (R326) and the acknowledgements that
are due are sent (R340); in the last tick of a core cycle only when the cycle is done. Before the device is ready no cycle is
counted (R32), and time waits for a phase whose bound has come (R319). After a fatal error the links go on, so that messages and
dump reach the host (R302). -/
def tickTurn (s : State) : Result :=
  if s.tripDue 0 || s.tripDue 1 then .next s
  else if s.phase ≠ readyPhase ∧ s.phase ≠ fatalPhase then (if s.phaseDue then .next s else .next { s with time := s.time + 1 })
  else if s.ackDue then .next s
  else if s.tick % 3 = 2 ∧ s.phase = readyPhase then
    if s.cycleDone then .next (s.fabricTick.cores.keys.foldl coreCycle s.fabricTick) else .next s
  else .next s.fabricTick
/-- What a turn does. -/
def runTurn (s : State) (t : Turn) : Result :=
  match t with
  | .issue c q => s.issueTurn c q
  | .uop c n => s.uopTurn c n
  | .event i => if i.isDeviceStep then exec i s else .next s
  | .tick => s.tickTurn
/-- The next turn is drawn. -/
def nextTurn (s : State) : State := { s with turn := Config.nextTurn s.turns, turns := s.turns + 1 }

/-- A line of code whose first bytes are words of an encoding. -/
def lineOfWords (l : List W32) : Line := lineOfBytes (bytesOfWords l)
/-- The words of an encoding of which the low bits are given, the rest 0. -/
def wordsOf (nbits w : Nat) : List W32 := (List.range 5).map fun k => BitVec.ofNat 32 ((w % 2 ^ nbits) >>> (32 * k))
/-- The bind that a placed instruction runs in: entry 0 of core 0, crew 0, 256 registers. -/
def placedBind : Bind :=
  { Bind.free with state := .running, regs := 15, floor := 16, pool := 0, crews := 1 }
/-- Slot 0 of core 0, filled, standing at code reference 0 with its line fetched. -/
def placedSlot (words : List W32) : Slot :=
  { Slot.reset with occupied := true, used := true, stay := some (0, { data := lineOfWords words, len := 2 ^ 24 }) }
/-- The device ready, with an encoding where the next issue of quadrant 0 of core 0 finds it. -/
def place (s : State) (words : List W32) : State :=
  let s1 := s.onCore 0 fun k => { k with binds := k.binds.put 0 placedBind, slots := k.slots.put 0 (placedSlot words) }
  { s1 with phase := readyPhase, turn := .issue 0 0 }

end State
end Sys2Proof.Machine
end

