-- ==== Sys2Proof/Machine/Step.lean ====
section
/-! DEFINITION. One step: the turn that stands is taken, and the next one is drawn. -/

namespace Sys2Proof.Machine

/-- One step of the package. -/
def step (s : State) : Host.Outcome State Fault Refusal :=
  (s.runTurn s.turn).andThen fun t => .next t.nextTurn

/-- The state with an encoding of which `nbits` bits are given placed where the next step fetches (log entry 7). -/
def State.withFetchWord (s : State) (nbits w : Nat) : State := s.place (State.wordsOf nbits w)

end Sys2Proof.Machine
end

