-- ==== Sys2Proof/Safety.lean ====
section
/-! DEFINITION. The terms that statements use: which instructions act, what a clean operand is, what a lane-wise
instruction leaves alone, what counts as a safe state of the machine, and the canonical facts about memory. -/

namespace Sys2Proof.Machine
namespace State

/-- No lane of the bundle whose guard holds reads a poisoned register of a list (R300). -/
def CleanFor (s : State) (g : Guard) (srcs : List Nat) : Prop :=
  ∀ n ∈ s.bundle.slots, (s.slot s.bundle.core n).guard g = true → ∀ r ∈ srcs, (s.slot s.bundle.core n).poisoned r = false
/-- The states differ at most in slots of a list on one core: no memory, frame, tile, control register, other slot or
other core. -/
def SlotsOnly (s t : State) (c : Nat) (l : List Nat) : Prop :=
  t = { s with cores := t.cores } ∧ (∀ d, d ≠ c → t.core d = s.core d) ∧
    t.core c = { s.core c with slots := (t.core c).slots } ∧ ∀ n, n ∉ l → t.slot c n = s.slot c n
/-- The states differ at most in one core. -/
def CoreOnly (s t : State) (c : Nat) : Prop := t = { s with cores := t.cores } ∧ ∀ d, d ≠ c → t.core d = s.core d
/-- The bundle is slot `n` of core `c` alone, with an encoding of `len` bytes. -/
def Alone (s : State) (c n len : Nat) : Prop := s.bundle.core = c ∧ s.bundle.slots = [n] ∧ s.bundle.len = len
/-- Slot `n` of core `c` runs an instruction of `len` bytes alone, its guard holds, and no source is poisoned. -/
def Runs (s : State) (c n len : Nat) (g : Guard) (srcs : List Nat) : Prop :=
  s.Alone c n len ∧ (s.slot c n).guard g = true ∧ ∀ r ∈ srcs, (s.slot c n).poisoned r = false
/-- No register of the slot is poisoned, in either place of 240 to 247. -/
def Unpoisoned (s : State) (c n : Nat) : Prop := ∀ r, (s.slot c n).poisoned r = false
/-- A byte of memory at the homes. -/
def byteAt (s : State) (a : Nat) : Byte := Memory.get s.mem a

/-- What every state of the machine should be: memory in its canonical form, and PHASE one that R319 lists. -/
def Safe (s : State) : Prop := Memory.wf s.mem = true ∧ s.phase ∈ [0x00#8, 0x01, 0x02, 0x03, 0x04, 0x05, 0xF0, 0xF1, 0xF2, 0xF3]

end State

/-- A value as the number that a type reads it as. -/
def num {w : Nat} (signed : Bool) (x : BitVec w) : Int := if signed then x.toInt else (x.toNat : Int)
/-- What a function makes of the two halves of a register (R48). -/
def halves (f : Nat → Nat → Nat) (x y : W32) : W32 :=
  BitVec.ofNat 32 (f (x.toNat % 65536) (y.toNat % 65536) % 65536 + 65536 * (f (x.toNat / 65536) (y.toNat / 65536) % 65536))

/-- A lane-wise instruction (R93): in every lane of its bundle whose guard holds the slot changes by `f`, in the others
not at all; every lane steps past; and nothing else changes. -/
def LaneWise (i : Instr) (g : Guard) (srcs : List Nat) (f : Slot → Slot) : Prop :=
  ∀ s : State, s.bundle.slots.Nodup → s.CleanFor g srcs →
    ∃ t, exec i s = .next t ∧ s.SlotsOnly t s.bundle.core s.bundle.slots ∧
      ∀ n ∈ s.bundle.slots,
        t.slot s.bundle.core n =
          ((if (s.slot s.bundle.core n).guard g then f (s.slot s.bundle.core n) else s.slot s.bundle.core n).goto
            (pcAdd (s.slot s.bundle.core n).pc s.bundle.len))
/-- The same where the change also reads what the machine holds beside the slot. -/
def LaneWiseAt (i : Instr) (g : Guard) (srcs : List Nat) (f : State → Nat → Nat → Slot → Slot) : Prop :=
  ∀ s : State, s.bundle.slots.Nodup → s.CleanFor g srcs →
    ∃ t, exec i s = .next t ∧ s.SlotsOnly t s.bundle.core s.bundle.slots ∧
      ∀ n ∈ s.bundle.slots,
        t.slot s.bundle.core n =
          if (s.slot s.bundle.core n).guard g then f s s.bundle.core n (s.slot s.bundle.core n)
          else (s.slot s.bundle.core n).goto (pcAdd (s.slot s.bundle.core n).pc s.bundle.len)
/-- A poisoned source parks a lane at the instruction, with ACC 9 and the register's number, unless its guard fails; a lane
in its handler asks for the squall reset of a double fault instead (R284, R300). -/
def ParksOnPoison (i : Instr) (g : Guard) (srcs : List Nat) : Prop :=
  ∀ (s : State) (c n len r : Nat), s.Alone c n len → (s.slot c n).guard g = true →
    srcs.find? (fun q => (s.slot c n).poisoned q) = some r →
    let e : Trap := { cause := .poison, acc := 9, val := BitVec.ofNat 64 r }
    exec i s = .next (if (s.slot c n).masked then s.squallOf c n 2 (s.slot c n).pc e.record e.val else s.park c n e)
/-- An instruction whose guard fails in the one lane of its bundle only steps past (R76). -/
def SkipsOnFalse (i : Instr) (g : Guard) : Prop :=
  ∀ (s : State) (c n len : Nat), s.Alone c n len → (s.slot c n).guard g = false →
    ∃ k, exec i s = .next { (s.setSlot c n ((s.slot c n).goto (pcAdd (s.slot c n).pc len))) with nextId := k }
/-- Both instructions always answer the same next state. -/
def SameEffect (i j : Instr) : Prop := ∀ s : State, ∃ t, exec i s = .next t ∧ exec j s = .next t
/-- A load of `bytes` bytes from an offset in the one lane of its bundle, through a frame or scratch way it may read, none
of the bytes poisoned (R130, R131): byte j of the access is byte j mod 4 of register j div 4, narrow loads zero-extend. -/
def LoadsLine (i : Instr) (g : Guard) (bytes : Nat) (d : Reg) (la : LineOp) (b : Reg) (off : Nat) : Prop :=
  ∀ (s : State) (c m len k : Nat) (w : Way), s.Runs c m len g [b.toNat] → s.useWay c m la 2 = .ok k w → w.rd = true →
    w.kind ≠ .home → w.sum = false →
    let u := s.slot c m
    let o := (u.reg b.toNat).toNat + off
    let img := s.lineImage c w
    (∀ j, j < bytes → img.2.1 &&& nibbleMask (o + j) 1 = 0) →
    ∃ t, exec i s = .next t ∧ s.SlotsOnly { t with nextId := s.nextId } c [m] ∧ (t.slot c m).pc = pcAdd u.pc len ∧
      (t.slot c m).preds = u.preds ∧
      (∀ j, j < bytes → ((t.slot c m).reg (d.toNat + j / 4)).extractLsb' (8 * (j % 4)) 8 = img.1.byte ((o + j) % 128)) ∧
      (bytes < 4 → ((t.slot c m).reg d.toNat).toNat < 256 ^ bytes) ∧
      ∀ r, r < d.toNat ∨ d.toNat + (bytes + 3) / 4 ≤ r → (t.slot c m).reg r = u.reg r
/-- A store of `bytes` bytes likewise: the line holds the registers' bytes from the offset on, wrapping, and is otherwise
as it was; a frame's nibbles there become valid and dirty, and no poison is left there (R131, R132, R300). -/
def StoresLine (i : Instr) (g : Guard) (bytes : Nat) (la : LineOp) (b d : Reg) (off : Nat) : Prop :=
  ∀ (s : State) (c m len k : Nat) (w : Way), s.Runs c m len g (b.toNat :: regRun d ((bytes + 3) / 4)) →
    s.useWay c m la 3 = .ok k w → w.wr = true → w.sum = false →
    (w.kind = .scratch ∨ ∃ f x, w.kind = .frame f ∧ AMap.find? (s.core c).frames f = some x) →
    let u := s.slot c m
    let o := (u.reg b.toNat).toNat + off
    ∃ t, exec i s = .next t ∧ t.mem = s.mem ∧ t.slot c m = u.goto (pcAdd u.pc len) ∧
      (∀ e n, ¬ (e = c ∧ n = m) → t.slot e n = s.slot e n) ∧
      (∀ j, j < bytes → (t.lineImage c w).1.byte ((o + j) % 128) = (u.reg (d.toNat + j / 4)).extractLsb' (8 * (j % 4)) 8 ∧
        (t.lineImage c w).2.1 &&& nibbleMask (o + j) 1 = 0) ∧
      (∀ a, a < 128 → (∀ j, j < bytes → (o + j) % 128 ≠ a) → (t.lineImage c w).1.byte a = (s.lineImage c w).1.byte a) ∧
      ∀ f x, w.kind = .frame f → AMap.find? (s.core c).frames f = some x → x.kind ≠ .sum →
        ∃ y, AMap.find? (t.core c).frames f = some y ∧ y.valid = x.valid ||| nibbleMask o bytes ∧
          y.dirty = x.dirty ||| nibbleMask o bytes

/-- A running seam goes on behind its word: to the next, or at the end of a loop's body to its first word while iterations
are left (R211). -/
def SeamRun.after (r : SeamRun) : SeamRun :=
  match r.loop with
  | some (first, last, left) =>
    if r.idx < last then { r with idx := r.idx + 1 }
    else if 1 < left then { r with idx := first, loop := some (first, last, left - 1) }
    else { r with idx := r.idx + 1, loop := none }
  | none => { r with idx := r.idx + 1 }
/-- A micro-op whose word is not poisoned, in the slot whose seam runs: it changes the run by f and goes on (R208). -/
def SeamStep (i : Instr) (f : SeamRun → SeamRun) : Prop :=
  ∀ (s : State) (c n len : Nat) (r : SeamRun), s.Alone c n len → (s.slot c n).seam = some r →
    (s.core c).cstorePoison.get false (r.start + r.idx) = false →
    ∃ t, exec i s = .next t ∧ t.mem = s.mem ∧ t.slot c n = { s.slot c n with seam := some (f r) }
/-- A micro-op that writes a temporary. -/
def SeamWrites (i : Instr) (q : QReg) (f : SeamRun → W32) : Prop :=
  SeamStep i fun r => SeamRun.after { r with q := r.q.set q.toNat (f r) }

/-- The command at the head of the queue ends with a result and a value, and its reply is still to be written (R324). -/
def State.EndsCommand (s t : State) (l : Line) (result value : Nat) : Prop :=
  ∃ c d rest, s.commands = c :: rest ∧ t.commands = d :: rest ∧ d.done = true ∧ d.pa = c.pa ∧ d.code = BitVec.ofNat 8 (l.read 0 2) ∧
    d.tag = BitVec.ofNat 16 (l.read 2 2) ∧ d.result = BitVec.ofNat 64 (value * 256 + result)
/-- Requests of the source of messages, agent 100 of die 0, that have left for the host and are not acknowledged (R257). -/
def State.messagesOut (s : State) : Nat :=
  s.receipts.countP (fun w => w.dest == .host && w.agent == 100 && w.srcDie == 0) +
    s.reqs.countP fun r => r.dest == .host && r.agent == 100 && r.srcDie == 0 && (match r.stage with
      | .out _ => true
      | .link _ => true
      | .away _ => true
      | _ => false)
/-- A message of two words is written to the ring where PROD points, and PROD advances; with no ring it is discarded
(R322). -/
def State.Posts (s t : State) (w0 w1 : W64) : Prop :=
  if s.msgbase.toNat % 32 = 0 then t.prod = s.prod ∧ t.reqs = s.reqs
  else t.prod = s.prod + 1 ∧ ∃ r ∈ t.reqs, r.kind = .message w0 w1 ∧ r.dest = .host ∧
    r.pa = s.msgbase.toNat / 4096 * 4096 + 16 * (s.prod.toNat % 2 ^ (s.msgbase.toNat % 32))

end Sys2Proof.Machine
end

