-- ==== Sys2Proof/Certificates/Slice0/Obligations.lean ====
section
/-! DEFINITION. The statements about the Isalor X2: what its rules say that an instruction, an event of the device or
the machine as a whole does. -/

open Sys2Proof Sys2Proof.Machine

/-! The encoding. -/

/-- R70, R72, R75, R77, R79, R80: the bytes of a well-formed instruction decode to it, with every operand. -/
def Obligations.DecodeOfEncode : Prop :=
  ∀ i : Instr, i.wf = true → i.enc.isSome = true → decode (bytesOfWords (encode i)) = .ok i

/-- R206: the control store word of a well-formed micro-op decodes to it. -/
def Obligations.UopDecodeOfEncode : Prop :=
  ∀ (i : Instr) (w : W64), i.wf = true → encodeUop i = some w → decodeUop w = some i

/-- R70: bits 1:0 of word0 fix the length of an encoding; a literal is stored bits 31:0 first. -/
def Obligations.LengthOfWord0 : Prop :=
  (∀ e : Enc, e.words.length = lengthWords (e.words.headD 0)) ∧
  (∀ (f : CFields) (v : W64), f.lit = some v → Enc.words (.c f) = [(Enc.words (.c f)).headD 0, v.extractLsb' 0 32, v.extractLsb' 32 32]) ∧
  (∀ (f : XFields) (v : W64), f.lit = some v →
    ∃ w1 w2, Enc.words (.x f) = [(Enc.words (.x f)).headD 0, w1, w2, v.extractLsb' 0 32, v.extractLsb' 32 32]) ∧
  lengthWords 0 = 1 ∧ lengthWords 1 = 3 ∧ lengthWords 2 = 3 ∧ lengthWords 3 = 5

/-- The words that the tables of chapters 04, 05 and 06 give for instructions of each kind decode to them. -/
def Obligations.SampleWords : Prop :=
  decodeWords [0x03020454] = .ok (.leaN32C 4 2 3) ∧
  decodeWords [0x0307706E, 0x00880900, 4] = .ok (.bfe .always .i32 7 3 (.imm 4) 9) ∧
  decodeWords [0x08087002, 0x00890000, 0xFFFFFFFF] = .ok (.add .always .i64 8 8 (.imm 0xFFFFFFFF)) ∧
  decodeWords [0x0C0CB106, 0x0070000D, 0] = .ok (.fsub ⟨true, 3⟩ .bf16 .rd 12 12 (.reg 13)) ∧
  decodeWords [0x06057182, 0x00100E00, 0] = .ok (.cvt .always .bf16 .fp32 .rne 5 6) ∧
  decodeWords [0x140A71C2, 0x00001604, 0] = .ok (.perm .always 10 20 (.reg 4) 22) ∧
  decodeWords [0x0C114202, 0x03000000, 3] = .ok (.openLine ⟨false, 4⟩ .rw 0 1 1 3 12) ∧
  decodeWords [0x096305B8] = .ok (.ldWC 5 ⟨3, some 2⟩ 9) ∧
  decodeWords [0x0407721A, 0x00100002, 3] = .ok (.lde .always .bf16 7 ⟨4, none⟩ 2 3) ∧
  decodeWords [0x02057222, 0x000E0E0D, 0] = .ok (.atom .always (.red (.arith .add .fp32)) 5 ⟨2, none⟩ 13 14) ∧
  decodeWords [0x007100D0] = .ok (.recallC ⟨1, some 3⟩) ∧
  decodeWords [0x00000004] = .ok .nopC

/-- R24, R76, R79, R88: the guard 0b1111 is refused with detail GUARD, an unassigned XOP and COP 0x00 with OPCODE, and
a literal where the form has none with FORM, in this order; no instruction that decodes names a pair whose first
register is odd. -/
def Obligations.IllegalEncodings : Prop :=
  ((∀ f : XFields, f.g = ⟨true, 7⟩ → Enc.decode (.x f) = .error .guard) ∧
    (∀ f : XFields, f.g ≠ ⟨true, 7⟩ → xopAssigned f.xop.toNat = false → Enc.decode (.x f) = .error .opcode) ∧
    (∀ f : CFields, f.cop = 0 → Enc.decode (.c f) = .error .opcode) ∧
    (∀ (f : XFields) (v : W64), f.g ≠ ⟨true, 7⟩ → xopAssigned f.xop.toNat = true → f.lit = some v →
      xopStar f.xop.toNat = false → f.xop ≠ 0x0C1 → Enc.decode (.x f) = .error .form) ∧
    (∀ (f : CFields) (v : W64), f.lit = some v → f.cop ≠ 0 →
      f.cop.toNat ∉ [0x02, 0x04, 0x06, 0x07, 0x08, 0x0A, 0x0B, 0x0F, 0x10, 0x11, 0x12, 0x15, 0x16, 0x17, 0x18, 0x19, 0x1A,
        0x1B, 0x1E, 0x1F, 0x20, 0x21, 0x22, 0x23, 0x24, 0x25] → Enc.decode (.c f) = .error .form)) ∧
  (∀ (e : Enc) (i : Instr), e.decode = .ok i → i.regsAligned = true)

/-! Integer, logic, shift and bit-field instructions. -/

/-- R95: the integer instructions write their results mod 2^w; `.i` types read two's complement, `.n` types naturals;
the C form of `lea` has s fixed at 2. -/
def Obligations.IntegerArithmetic : Prop :=
  (∀ g t d a b, LaneWise (.add g t d a b) g (regsOf t.wide a ++ b.srcs t.wide)
    fun u => u.bin t.wide t.signed d a b fun w x y => BitVec.ofInt w (num t.signed x + num t.signed y)) ∧
  (∀ g t d a b, LaneWise (.sub g t d a b) g (regsOf t.wide a ++ b.srcs t.wide)
    fun u => u.bin t.wide t.signed d a b fun w x y => BitVec.ofInt w (num t.signed x - num t.signed y)) ∧
  (∀ g t d a b, LaneWise (.mul g t d a b) g (regsOf t.wide a ++ b.srcs t.wide)
    fun u => u.bin t.wide t.signed d a b fun w x y => BitVec.ofInt w (num t.signed x * num t.signed y)) ∧
  (∀ g t d a b, LaneWise (.mulhi g t d a b) g ([a.toNat] ++ b.srcs false)
    fun u => u.setReg d.toNat (BitVec.ofInt 32 (num t.signed (u.reg a.toNat) * num t.signed (u.b32 b) / 2 ^ 32))) ∧
  (∀ g t d a b c, LaneWise (.mad g t d a b c) g (regsOf t.wide a ++ b.srcs t.wide ++ regsOf t.wide c)
    fun u =>
      if t.wide then u.setPair d.toNat
        (BitVec.ofInt 64 (num t.signed (u.pair a.toNat) * num t.signed (u.b64 t.signed b) + num t.signed (u.pair c.toNat)))
      else u.setReg d.toNat
        (BitVec.ofInt 32 (num t.signed (u.reg a.toNat) * num t.signed (u.b32 b) + num t.signed (u.reg c.toNat)))) ∧
  (∀ g t d a b c, LaneWise (.madw g t d a b c) g ([a.toNat] ++ b.srcs false ++ regsOf true c)
    fun u => u.setPair d.toNat
      (BitVec.ofInt 64 (num t.signed (u.reg a.toNat) * num t.signed (u.b32 b) + (u.pair c.toNat).toNat))) ∧
  (∀ g t d a b, LaneWise (.min g t d a b) g (regsOf t.wide a ++ b.srcs t.wide)
    fun u => u.bin t.wide t.signed d a b fun w x y => BitVec.ofInt w (Min.min (num t.signed x) (num t.signed y))) ∧
  (∀ g t d a b, LaneWise (.max g t d a b) g (regsOf t.wide a ++ b.srcs t.wide)
    fun u => u.bin t.wide t.signed d a b fun w x y => BitVec.ofInt w (Max.max (num t.signed x) (num t.signed y))) ∧
  (∀ g t d a, LaneWise (.abs g t d a) g (regsOf t.wide a)
    fun u => u.un t.wide d a fun w x => BitVec.ofInt w x.toInt.natAbs) ∧
  (∀ g t d a, LaneWise (.neg g t d a) g (regsOf t.wide a)
    fun u => u.un t.wide d a fun w x => BitVec.ofInt w (-x.toInt)) ∧
  (∀ g t d a b sh, LaneWise (.lea g t d a b sh) g (regsOf t.wide a ++ b.srcs t.wide)
    fun u => u.bin t.wide false d a b fun w x y => BitVec.ofNat w (x.toNat + y.toNat * 2 ^ sh.toNat)) ∧
  (∀ d a b, SameEffect (.leaN32C d a b) (.lea .always .n32 d a (.reg b) 2)) ∧
  (∀ d a v, SameEffect (.leaN32Clit d a v) (.lea .always .n32 d a (.imm v) 2))

/-- R96: the logic instructions act bit by bit; `mov` copies operand B, and `sel` chooses by its predicate. -/
def Obligations.Logic : Prop :=
  (∀ g t d a b, ∃ f : (w : Nat) → BitVec w → BitVec w → BitVec w,
    (∀ w x y k, k < w → (f w x y).getLsbD k = (x.getLsbD k && y.getLsbD k)) ∧
      LaneWise (.and g t d a b) g (regsOf t.wide a ++ b.srcs t.wide) fun u => u.bin t.wide false d a b f) ∧
  (∀ g t d a b, ∃ f : (w : Nat) → BitVec w → BitVec w → BitVec w,
    (∀ w x y k, k < w → (f w x y).getLsbD k = (x.getLsbD k || y.getLsbD k)) ∧
      LaneWise (.or g t d a b) g (regsOf t.wide a ++ b.srcs t.wide) fun u => u.bin t.wide false d a b f) ∧
  (∀ g t d a b, ∃ f : (w : Nat) → BitVec w → BitVec w → BitVec w,
    (∀ w x y k, k < w → (f w x y).getLsbD k = (x.getLsbD k ^^ y.getLsbD k)) ∧
      LaneWise (.xor g t d a b) g (regsOf t.wide a ++ b.srcs t.wide) fun u => u.bin t.wide false d a b f) ∧
  (∀ g t d a b, ∃ f : (w : Nat) → BitVec w → BitVec w → BitVec w,
    (∀ w x y k, k < w → (f w x y).getLsbD k = (x.getLsbD k && !y.getLsbD k)) ∧
      LaneWise (.andn g t d a b) g (regsOf t.wide a ++ b.srcs t.wide) fun u => u.bin t.wide false d a b f) ∧
  (∀ g t d a, ∃ f : (w : Nat) → BitVec w → BitVec w,
    (∀ w x k, k < w → (f w x).getLsbD k = !x.getLsbD k) ∧
      LaneWise (.not g t d a) g (regsOf t.wide a) fun u => u.un t.wide d a f) ∧
  (∀ g t d b, LaneWise (.mov g t d b) g (b.srcs t.wide)
    fun u => if t.wide then u.setPair d.toNat (u.b64 false b) else u.setReg d.toNat (u.b32 b)) ∧
  (∀ g t d a b c, LaneWise (.sel g t d a b c) g (regsOf t.wide a ++ b.srcs t.wide)
    fun u => u.bin t.wide false d a b fun _ x y => if u.pred c then x else y)

/-- R97: shifts by a count read from the low 32 bits of operand B; at the width or more `shl`, `shr.b` and `shr.n`
give 0 and `shr.i` the sign; `rot` turns by the count mod 32; the imm8 count of a C form is zero-extended. -/
def Obligations.Shifts : Prop :=
  (∀ g t d a b, LaneWise (.shl g t d a b) g (regsOf t.wide a ++ b.srcs false)
    fun u => u.shift t.wide d a b fun w x k => if k < w then BitVec.ofNat w (x.toNat * 2 ^ k) else 0) ∧
  (∀ g t d a b, t.signed = false → LaneWise (.shr g t d a b) g (regsOf t.wide a ++ b.srcs false)
    fun u => u.shift t.wide d a b fun w x k => if k < w then BitVec.ofNat w (x.toNat / 2 ^ k) else 0) ∧
  (∀ g t d a b, t.signed = true → LaneWise (.shr g t d a b) g (regsOf t.wide a ++ b.srcs false)
    fun u => u.shift t.wide d a b fun w x k =>
      if k < w then BitVec.ofInt w (x.toInt / 2 ^ k) else if x.toInt < 0 then BitVec.ofInt w (-1) else 0) ∧
  (∀ g d a b, LaneWise (.rot g d a b) g ([a.toNat] ++ b.srcs false)
    fun u => u.setReg d.toNat (BitVec.ofNat 32
      ((u.reg a.toNat).toNat * 2 ^ ((u.b32 b).toNat % 32) + (u.reg a.toNat).toNat / 2 ^ (32 - (u.b32 b).toNat % 32)))) ∧
  (∀ d a i, SameEffect (.shlB32Imm8C d a i) (.shl .always .b32 d a (.imm (i.setWidth 32)))) ∧
  (∀ d a i, SameEffect (.shrB32Imm8C d a i) (.shr .always .b32 d a (.imm (i.setWidth 32)))) ∧
  (∀ d a i, SameEffect (.shrI32Imm8C d a i) (.shr .always .i32 d a (.imm (i.setWidth 32))))

/-- R98, R99, R115 to R117: `popc` counts one bits, `clz` the zero bits above the highest one bit, `brev` turns bit i
into bit 31 − i; `bfe` takes a field out, extended by its type, and `bfi` puts one in; the byte instructions, byte by
byte of the result. -/
def Obligations.BitFieldsAndBytes : Prop :=
  ((∀ g t d a, LaneWise (.popc g t d a) g (regsOf t.wide a)
      fun u => u.un t.wide d a fun w x => BitVec.ofNat w ((List.range w).filter fun k => x.getLsbD k).length) ∧
    (∀ g t d a, LaneWise (.clz g t d a) g (regsOf t.wide a)
      fun u => u.un t.wide d a fun w x =>
        BitVec.ofNat w ((List.range w).takeWhile fun k => !x.getLsbD (w - 1 - k)).length) ∧
    (∀ g d a, ∃ f : W32 → W32, (∀ x i, i < 32 → (f x).getLsbD i = x.getLsbD (31 - i)) ∧
      LaneWise (.brev g d a) g [a.toNat] fun u => u.setReg d.toNat (f (u.reg a.toNat))) ∧
    (∀ g t d a b c, ∃ f : W32 → Nat → Nat → W32,
      (∀ x p n, p + n ≤ 32 → ∀ i, i < 32 → (f x p n).getLsbD i =
        if i < n then x.getLsbD (p + i) else t.signed && decide (0 < n) && x.getLsbD (p + n - 1)) ∧
      LaneWise (.bfe g t d a b c) g ([a.toNat] ++ b.srcs false ++ [c.toNat]) fun u =>
        let p := Min.min ((u.b32 b).toNat % 256) 32
        u.setReg d.toNat (f (u.reg a.toNat) p (Min.min ((u.reg c.toNat).toNat % 256) (32 - p)))) ∧
    (∀ g d a b c, ∃ f : W32 → W32 → Nat → Nat → W32,
      (∀ x y p n, p + n ≤ 32 → ∀ i, i < 32 → (f x y p n).getLsbD i =
        if p ≤ i ∧ i < p + n then x.getLsbD (i - p) else y.getLsbD i) ∧
      LaneWise (.bfi g d a b c) g ([a.toNat] ++ b.srcs false ++ [c.toNat]) fun u =>
        let p := Min.min ((u.b32 b).toNat % 256) 32
        u.setReg d.toNat (f (u.reg a.toNat) (u.reg c.toNat) p (Min.min ((u.b32 b).toNat / 256 % 256) (32 - p))))) ∧
  ((∀ g d a b c, ∃ f : W64 → W32 → W64 → W32,
      (∀ x y z k, k < 4 → (f x y z).extractLsb' (8 * k) 8 =
        let n := (y.extractLsb' (8 * k) 4).toNat
        if n < 8 then x.extractLsb' (8 * n) 8 else z.extractLsb' (8 * (n - 8)) 8) ∧
      LaneWise (.perm g d a b c) g (regsOf true a ++ b.srcs false ++ regsOf true c) fun u =>
        u.setReg d.toNat (f (u.pair a.toNat) (u.b32 b) (u.pair c.toNat))) ∧
    (∀ g d a b c, ∃ f : W32 → W32 → W32 → W32,
      (∀ x y z k, k < 4 → (f x y z).extractLsb' (8 * k) 8 =
        let n := (z.extractLsb' (4 * k) 3).toNat
        let v : BitVec 8 := if n < 4 then x.extractLsb' (8 * n) 8 else y.extractLsb' (8 * (n - 4)) 8
        if z.getLsbD (4 * k + 3) then (if v.msb then 0xFF else 0x00) else v) ∧
      LaneWise (.prmt g d a b c) g ([a.toNat] ++ b.srcs false ++ [c.toNat]) fun u =>
        u.setReg d.toNat (f (u.reg a.toNat) (u.b32 b) (u.reg c.toNat))) ∧
    (∀ g d a, ∃ f : W32 → W32, (∀ x k, k < 4 → (f x).extractLsb' (8 * k) 8 = x.extractLsb' (8 * (3 - k)) 8) ∧
      LaneWise (.bswp g d a) g [a.toNat] fun u => u.setReg d.toNat (f (u.reg a.toNat))) ∧
    (∀ g c d a b, ∃ f : W32 → W32 → W32,
      (∀ x y k, k < 4 → (f x y).extractLsb' (8 * k) 8 =
        let p := (x.extractLsb' (8 * k) 8).toNat
        let q := (y.extractLsb' (8 * k) 8).toNat
        if (match c with
          | .eq => decide (p = q)
          | .ne => decide (p ≠ q)
          | .lt => decide (p < q)
          | .le => decide (p ≤ q)
          | .gt => decide (q < p)
          | .ge => decide (q ≤ p)) then 0xFF else 0x00) ∧
      LaneWise (.bcmp g c d a b) g ([a.toNat] ++ b.srcs false) fun u => u.setReg d.toNat (f (u.reg a.toNat) (u.b32 b))) ∧
    (∀ g d a b, ∃ f : W32 → W32 → W32,
      (∀ x y k, k < 4 → ((f x y).extractLsb' (8 * k) 8).toNat =
        (x.extractLsb' (8 * k) 8).toNat - (y.extractLsb' (8 * k) 8).toNat) ∧
      LaneWise (.bsub g d a b) g ([a.toNat] ++ b.srcs false) fun u => u.setReg d.toNat (f (u.reg a.toNat) (u.b32 b))))

/-- R100: `setp` writes the truth of its condition: signed under `.i`, natural under `.n`, bit patterns under `.b`;
under `.fp32` numerically, with a NaN false for all but `ne`, true for `nan` and false for `num`. -/
def Obligations.Comparisons : Prop :=
  (∀ g c t p a b, LaneWise (.setp g (.int c t) p a b) g (regsOf t.wide a ++ b.srcs t.wide) fun u =>
    let x := if t.wide then num t.signed (u.pair a.toNat) else num t.signed (u.reg a.toNat)
    let y := if t.wide then num t.signed (u.b64 t.signed b) else num t.signed (u.b32 b)
    u.setPred p (match c with
      | .eq => decide (x = y)
      | .ne => decide (x ≠ y)
      | .lt => decide (x < y)
      | .le => decide (x ≤ y)
      | .gt => decide (y < x)
      | .ge => decide (y ≤ x))) ∧
  (∀ g ne t p a b, LaneWise (.setp g (.bits ne t) p a b) g (regsOf t.wide a ++ b.srcs t.wide) fun u =>
    let same := if t.wide then decide (u.pair a.toNat = u.b64 false b) else decide (u.reg a.toNat = u.b32 b)
    u.setPred p (if ne then !same else same)) ∧
  (∀ g c p a b, LaneWise (.setp g (.fp c) p a b) g ([a.toNat] ++ b.srcs false) fun u =>
    let x := fp32.decode (u.reg a.toNat).toNat
    let y := fp32.decode (u.b32 b).toNat
    u.setPred p (if x = .nan ∨ y = .nan then decide (c = .ne) else
      match c with
      | .eq => x.eq y
      | .ne => !x.eq y
      | .lt => x.lt y
      | .le => x.lt y || x.eq y
      | .gt => !x.lt y && !x.eq y
      | .ge => !x.lt y)) ∧
  (∀ g p a b, LaneWise (.setp g .nan p a b) g ([a.toNat] ++ b.srcs false) fun u =>
    u.setPred p (decide (fp32.decode (u.reg a.toNat).toNat = .nan ∨ fp32.decode (u.b32 b).toNat = .nan))) ∧
  (∀ g p a b, LaneWise (.setp g .num p a b) g ([a.toNat] ++ b.srcs false) fun u =>
    u.setPred p (decide (fp32.decode (u.reg a.toNat).toNat ≠ .nan ∧ fp32.decode (u.b32 b).toNat ≠ .nan)))

/-- R101, R147: the predicate instructions and `nop`; a write to `p7` is discarded. -/
def Obligations.Predicates : Prop :=
  (∀ g d a b, LaneWise (.pand g d a b) g [] fun u => u.setPred d (u.pred a && u.pred b)) ∧
  (∀ g d a b, LaneWise (.por g d a b) g [] fun u => u.setPred d (u.pred a || u.pred b)) ∧
  (∀ g d a b, LaneWise (.pxor g d a b) g [] fun u => u.setPred d (u.pred a ^^ u.pred b)) ∧
  (∀ g d a b, LaneWise (.pandn g d a b) g [] fun u => u.setPred d (u.pred a && !u.pred b)) ∧
  (∀ g d a, LaneWise (.pmov g d a) g [] fun u => u.setPred d (u.pred a)) ∧
  (∀ g d a, LaneWise (.pnot g d a) g [] fun u => u.setPred d (!u.pred a)) ∧
  (∀ g, LaneWise (.nop g) g [] id) ∧
  (∀ (u : Slot) (v : Bool), u.setPred 7 v = u)

/-! Rounding and floating point. -/

/-- R49, R53: rounding toward zero gives the largest code of the format at or below the magnitude, toward +∞ the smallest at
or above it, and to nearest the closer of these two, of equally close ones the even; beyond the largest finite code `.ru`
gives +∞ and `.rz` and `.rd` the largest finite code, and `.rne` gives +∞ for all that lies at or above the middle between
it and the next power of two, what the precision of the format would round past it; the same with the sign for negative
values. To an integer, `.rd` gives the floor, `.ru` the ceiling, `.rz` cuts off, and `.rne` gives the nearest, of two the
even. -/
def Obligations.Rounding : Prop :=
  (∀ f ∈ [fp32, fp16, bf16, fp8e5], ∀ d : Dy, 0 < d.m →
      let val (c : Nat) : Dy := match f.finite c with
        | .val _ v => v
        | _ => ⟨0, 0⟩
      let down := (Exact.val false d).round f .rz
      let up := (Exact.val false d).round f .ru
      let near := (Exact.val false d).round f .rne
      down < f.infCode ∧ d.lt (val down) = false ∧ (down + 1 < f.infCode → d.lt (val (down + 1)) = true) ∧
      up ≤ f.infCode ∧ (up < f.infCode → (val up).lt d = false) ∧ (0 < up → (val (up - 1)).lt d = true) ∧
      (near = down ∨ near = up) ∧
      (near = f.infCode ↔ d.lt ⟨2 ^ (f.mb + 2) - 1, f.qmin + 2 ^ f.eb - 4⟩ = false) ∧
      (up < f.infCode → down < up →
        let below := d.add (val down).neg
        let above := (val up).add d.neg
        (below.lt above = true → near = down) ∧ (above.lt below = true → near = up) ∧
          (below.lt above = false → above.lt below = false → near % 2 = 0)) ∧
      (Exact.val false d).round f .rd = down ∧
      ∀ m : RM, (Exact.val true d.neg).round f m =
        (Exact.val false d).round f (match m with
          | .ru => .rd
          | .rd => .ru
          | x => x) + 2 ^ (f.eb + f.mb)) ∧
  (∀ (m : Int) (k : Nat),
      Dy.toInt .rd ⟨m, -(k : Int)⟩ = m / 2 ^ k ∧ Dy.toInt .ru ⟨m, -(k : Int)⟩ = -(-m / 2 ^ k) ∧
      Dy.toInt .rz ⟨m, -(k : Int)⟩ = m.tdiv (2 ^ k) ∧
      (let v := Dy.toInt .rne ⟨m, -(k : Int)⟩
       2 * (v * 2 ^ k - m).natAbs ≤ 2 ^ k ∧ (2 * (v * 2 ^ k - m).natAbs = 2 ^ k → v % 2 = 0)) ∧
      (∀ (r : RM) (e : Nat), Dy.toInt r ⟨m, (e : Int)⟩ = m * 2 ^ e))

/-- R48, R102, R103: the arithmetic and sign instructions, on each element of a packed register alone: sums, products
and the fused form are rounded once; `fmin` and `fmax` order −0 below +0 and prefer a number to a NaN; `fabs`, `fneg`
and `fcsgn` change the sign bit alone; `fclamp` is `fmin` of `fmax`; `frnd` keeps the sign of a zero. -/
def Obligations.FloatArithmetic : Prop :=
  let least (f : Fmt) (x y : Nat) : Nat :=
    if f.decode x = .nan then (if f.decode y = .nan then f.nanCode else y) else if f.decode y = .nan then x
    else if (f.decode y).below (f.decode x) then y else x
  let greatest (f : Fmt) (x y : Nat) : Nat :=
    if f.decode x = .nan then (if f.decode y = .nan then f.nanCode else y) else if f.decode y = .nan then x
    else if (f.decode x).below (f.decode y) then y else x
  let signs (t : FTy) : W32 := if t = .fp32 then 0x80000000 else 0x80008000
  (∀ g t rm d a b, LaneWise (.fadd g t rm d a b) g ([a.toNat] ++ b.srcs false) fun u =>
    u.setReg d.toNat (fun2 t (fun f x y => ((f.decode x).add rm (f.decode y)).round f rm) (u.reg a.toNat) (u.b32 b))) ∧
  (∀ g t rm d a b, LaneWise (.fsub g t rm d a b) g ([a.toNat] ++ b.srcs false) fun u =>
    u.setReg d.toNat (fun2 t (fun f x y => ((f.decode x).add rm (f.decode y).neg).round f rm) (u.reg a.toNat) (u.b32 b))) ∧
  (∀ g t rm d a b, LaneWise (.fmul g t rm d a b) g ([a.toNat] ++ b.srcs false) fun u =>
    u.setReg d.toNat (fun2 t (fun f x y => ((f.decode x).mul (f.decode y)).round f rm) (u.reg a.toNat) (u.b32 b))) ∧
  (∀ g t rm d a b c, LaneWise (.fma g t rm d a b c) g ([a.toNat] ++ b.srcs false ++ [c.toNat]) fun u =>
    u.setReg d.toNat (fun3 t (fun f x y z => (((f.decode x).mul (f.decode y)).add rm (f.decode z)).round f rm)
      (u.reg a.toNat) (u.b32 b) (u.reg c.toNat))) ∧
  (∀ g t d a b, LaneWise (.fmin g t d a b) g ([a.toNat] ++ b.srcs false) fun u =>
    u.setReg d.toNat (fun2 t least (u.reg a.toNat) (u.b32 b))) ∧
  (∀ g t d a b, LaneWise (.fmax g t d a b) g ([a.toNat] ++ b.srcs false) fun u =>
    u.setReg d.toNat (fun2 t greatest (u.reg a.toNat) (u.b32 b))) ∧
  (∀ g t d a, LaneWise (.fabs g t d a) g [a.toNat] fun u => u.setReg d.toNat (u.reg a.toNat &&& ~~~(signs t))) ∧
  (∀ g t d a, LaneWise (.fneg g t d a) g [a.toNat] fun u => u.setReg d.toNat (u.reg a.toNat ^^^ signs t)) ∧
  (∀ g t d a b, LaneWise (.fcsgn g t d a b) g ([a.toNat] ++ b.srcs false) fun u =>
    u.setReg d.toNat ((u.reg a.toNat &&& ~~~(signs t)) ||| (u.b32 b &&& signs t))) ∧
  (∀ g rm d a b, LaneWise (.fscale g rm d a b) g ([a.toNat] ++ b.srcs false) fun u =>
    u.setReg d.toNat (BitVec.ofNat 32 ((match fp32.decode (u.reg a.toNat).toNat with
      | .val n v => Exact.val n ⟨v.m, v.e + (u.b32 b).toInt⟩
      | x => x).round fp32 rm))) ∧
  (∀ g t rm d a b c, LaneWise (.fclamp g t rm d a b c) g ([a.toNat] ++ b.srcs false ++ [c.toNat]) fun u =>
    u.setReg d.toNat (fun3 t (fun f x y z => least f (greatest f x y) z) (u.reg a.toNat) (u.b32 b) (u.reg c.toNat))) ∧
  (∀ g t rm d a, LaneWise (.frnd g t rm d a) g [a.toNat] fun u =>
    u.setReg d.toNat (fun1 t (fun f x => match f.decode x with
      | .nan => f.nanCode
      | .inf n => f.infCode + (if n then 2 ^ (f.eb + f.mb) else 0)
      | .val n v => (Exact.val n ⟨v.toInt rm, 0⟩).round f rm) (u.reg a.toNat)))

/-- R104: the elementary functions complete with the special results of their table, and a NaN gives the default NaN;
`frcp` and `fsqrt` rounded toward zero are the largest codes at or below 1/A and √A. -/
def Obligations.ElementaryFunctions : Prop :=
  let val (c : Nat) : Dy := match fp32.finite c with
    | .val _ v => v
    | _ => ⟨0, 0⟩
  let nan (f : Nat → Nat) : Prop := ∀ x, fp32.decode x = .nan → f x = 0x7FC00000
  let negative (f : Nat → Nat) : Prop := ∀ x, (fp32.decode x).lt (.val false ⟨0, 0⟩) = true → f x = 0x7FC00000
  (∀ g rm d a, ∃ f : Nat → Nat,
    f 0 = 0x7F800000 ∧ f 0x80000000 = 0xFF800000 ∧ f 0x7F800000 = 0 ∧ f 0xFF800000 = 0x80000000 ∧ nan f ∧
    (rm = .rz → ∀ x, 0 < x → x < 0x7F800000 → f x < 0x7F800000 ∧ Dy.lt ⟨1, 0⟩ ((val x).mul (val (f x))) = false ∧
      (f x + 1 < 0x7F800000 → Dy.lt ⟨1, 0⟩ ((val x).mul (val (f x + 1))) = true)) ∧
    LaneWise (.frcp g rm d a) g [a.toNat] fun u => u.setReg d.toNat (BitVec.ofNat 32 (f (u.reg a.toNat).toNat))) ∧
  (∀ g rm d a, ∃ f : Nat → Nat,
    f 0x80000000 = 0x80000000 ∧ f 0x7F800000 = 0x7F800000 ∧ negative f ∧ nan f ∧
    (rm = .rz → ∀ x, 0 < x → x < 0x7F800000 → f x < 0x7F800000 ∧ (val x).lt ((val (f x)).mul (val (f x))) = false ∧
      (val x).lt ((val (f x + 1)).mul (val (f x + 1))) = true) ∧
    LaneWise (.fsqrt g rm d a) g [a.toNat] fun u => u.setReg d.toNat (BitVec.ofNat 32 (f (u.reg a.toNat).toNat))) ∧
  (∀ g rm d a, ∃ f : Nat → Nat,
    f 0 = 0x7F800000 ∧ f 0x80000000 = 0xFF800000 ∧ f 0x7F800000 = 0 ∧ negative f ∧ nan f ∧
    LaneWise (.frsqrt g rm d a) g [a.toNat] fun u => u.setReg d.toNat (BitVec.ofNat 32 (f (u.reg a.toNat).toNat))) ∧
  (∀ g rm d a, ∃ f : Nat → Nat,
    f 0xFF800000 = 0 ∧ f 0x7F800000 = 0x7F800000 ∧ nan f ∧
    LaneWise (.fexp2 g rm d a) g [a.toNat] fun u => u.setReg d.toNat (BitVec.ofNat 32 (f (u.reg a.toNat).toNat))) ∧
  (∀ g rm d a, ∃ f : Nat → Nat,
    f 0 = 0xFF800000 ∧ f 0x80000000 = 0xFF800000 ∧ f 0x3F800000 = 0 ∧ f 0x7F800000 = 0x7F800000 ∧ negative f ∧ nan f ∧
    LaneWise (.flog2 g rm d a) g [a.toNat] fun u => u.setReg d.toNat (BitVec.ofNat 32 (f (u.reg a.toNat).toNat))) ∧
  (∀ g rm d a, ∃ f : Nat → Nat,
    f 0 = 0 ∧ f 0x80000000 = 0x80000000 ∧ f 0x7F800000 = 0x7FC00000 ∧ f 0xFF800000 = 0x7FC00000 ∧ nan f ∧
    LaneWise (.fsin g rm d a) g [a.toNat] fun u => u.setReg d.toNat (BitVec.ofNat 32 (f (u.reg a.toNat).toNat))) ∧
  (∀ g rm d a, ∃ f : Nat → Nat,
    f 0 = 0x3F800000 ∧ f 0x80000000 = 0x3F800000 ∧ f 0x7F800000 = 0x7FC00000 ∧ f 0xFF800000 = 0x7FC00000 ∧ nan f ∧
    LaneWise (.fcos g rm d a) g [a.toNat] fun u => u.setReg d.toNat (BitVec.ofNat 32 (f (u.reg a.toNat).toNat)))

/-- R105 to R108: `fdot2` rounds the exact sum of two products and C once; `lmul` adds logarithms element by element,
and `lmac` takes each product from T6 or T12 and rounds the exact sum with C once. -/
def Obligations.DotAndLogarithmic : Prop :=
  (∀ g t rm d a b c, LaneWise (.fdot2 g t rm d a b c) g ([a.toNat] ++ b.srcs false ++ [c.toNat]) fun u =>
    let el (x : W32) (k : Nat) := t.fmt.decode ((x.extractLsb' (16 * k) 16).toNat)
    u.setReg d.toNat (BitVec.ofNat 32 ((((el (u.reg a.toNat) 0).mul (el (u.b32 b) 0)).add rm
      ((el (u.reg a.toNat) 1).mul (el (u.b32 b) 1)) |>.add rm (fp32.decode (u.reg c.toNat).toNat)).round fp32 rm))) ∧
  (∀ g rm d a b, ∃ f : W32 → W32 → W32,
    (∀ x y k, k < 4 →
      let p := (x.extractLsb' (8 * k) 6).toNat
      let q := (y.extractLsb' (8 * k) 6).toNat
      let l := p % 32 + q % 32
      let s := (p / 32 + q / 32) % 2 * 32
      ((f x y).extractLsb' (8 * k) 8).toNat = s + if p % 32 = 0 ∨ q % 32 = 0 ∨ l < 17 then 0 else Min.min (l - 16) 31) ∧
    LaneWise (.lmul g .lns6 rm d a b) g ([a.toNat] ++ b.srcs false) fun u => u.setReg d.toNat (f (u.reg a.toNat) (u.b32 b))) ∧
  (∀ g rm d a b, ∃ f : W32 → W32 → W32,
    (∀ x y k, k < 2 →
      let p := (x.extractLsb' (16 * k) 12).toNat
      let q := (y.extractLsb' (16 * k) 12).toNat
      let l := p % 2048 + q % 2048
      let s := (p / 2048 + q / 2048) % 2 * 2048
      ((f x y).extractLsb' (16 * k) 16).toNat =
        s + if p % 2048 = 0 ∨ q % 2048 = 0 ∨ l < 1025 then 0 else Min.min (l - 1024) 2047) ∧
    LaneWise (.lmul g .lns12 rm d a b) g ([a.toNat] ++ b.srcs false) fun u => u.setReg d.toNat (f (u.reg a.toNat) (u.b32 b))) ∧
  (∀ g rm d a b c, LaneWise (.lmac g .lns6 rm d a b c) g ([a.toNat] ++ b.srcs false ++ [c.toNat]) fun u =>
    u.setReg d.toNat (BitVec.ofNat 32 (((List.range 4).foldl (fun (x : Exact) k =>
      let p := ((u.reg a.toNat).extractLsb' (8 * k) 6).toNat
      let q := ((u.b32 b).extractLsb' (8 * k) 6).toNat
      let l := p % 32 + q % 32
      let mag : Int := [2048, 2435, 2896, 3444].getD (l % 4) 0
      if p % 32 = 0 ∨ q % 32 = 0 then x
      else x.add rm (.val (p / 32 != q / 32) ⟨if p / 32 = q / 32 then mag else -mag, (l / 4 : Nat) - 19⟩))
      (fp32.decode (u.reg c.toNat).toNat)).round fp32 rm))) ∧
  (∀ g rm d a b c, LaneWise (.lmac g .lns12 rm d a b c) g ([a.toNat] ++ b.srcs false ++ [c.toNat]) fun u =>
    u.setReg d.toNat (BitVec.ofNat 32 (((List.range 2).foldl (fun (x : Exact) k =>
      let p := ((u.reg a.toNat).extractLsb' (16 * k) 12).toNat
      let q := ((u.b32 b).extractLsb' (16 * k) 12).toNat
      let l := p % 2048 + q % 2048
      let mag : Int := t12 (l % 32)
      if p % 2048 = 0 ∨ q % 2048 = 0 then x
      else x.add rm (.val (p / 2048 != q / 2048) ⟨if p / 2048 = q / 2048 then mag else -mag, (l / 32 : Nat) - 79⟩))
      (fp32.decode (u.reg c.toNat).toNat)).round fp32 rm)))

/-- R109 to R112: the conversions: an integer or float source at its exact value, rounded once or saturated; `pk8` and
`pk4` leave the other bytes of vD. -/
def Obligations.Conversions : Prop :=
  (∀ g dst src rm d a, ∃ x : Slot → Exact,
    (∀ u, x u = match src with
      | .i32 => Exact.val (decide ((u.reg a.toNat).toInt < 0)) ⟨(u.reg a.toNat).toInt, 0⟩
      | .n32 => Exact.val false ⟨(u.reg a.toNat).toNat, 0⟩
      | .i64 => Exact.val (decide ((u.pair a.toNat).toInt < 0)) ⟨(u.pair a.toNat).toInt, 0⟩
      | .n64 => Exact.val false ⟨(u.pair a.toNat).toNat, 0⟩
      | .fp32 => fp32.decode (u.reg a.toNat).toNat
      | .fp16 => fp16.decode ((u.reg a.toNat).extractLsb' 0 16).toNat
      | .bf16 => bf16.decode ((u.reg a.toNat).extractLsb' 0 16).toNat) ∧
    LaneWise (.cvt g dst src rm d a) g (regsOf (src == .i64 || src == .n64) a) fun u =>
      let int (lo hi : Int) : Int := match x u with
        | .nan => 0
        | .inf n => if n then lo else hi
        | .val _ v => Max.max lo (Min.min hi (v.toInt rm))
      match dst with
      | .i32 => u.setReg d.toNat (BitVec.ofInt 32 (int (-0x80000000) 0x7FFFFFFF))
      | .n32 => u.setReg d.toNat (BitVec.ofInt 32 (int 0 0xFFFFFFFF))
      | .i64 => u.setPair d.toNat (BitVec.ofInt 64 (int (-0x8000000000000000) 0x7FFFFFFFFFFFFFFF))
      | .n64 => u.setPair d.toNat (BitVec.ofInt 64 (int 0 0xFFFFFFFFFFFFFFFF))
      | .fp32 => u.setReg d.toNat (BitVec.ofNat 32 ((x u).round fp32 rm))
      | .fp16 => u.setReg d.toNat (BitVec.ofNat 32 ((x u).round fp16 rm))
      | .bf16 => u.setReg d.toNat (BitVec.ofNat 32 ((x u).round bf16 rm))) ∧
  (∀ g t rm d a b, LaneWise (.cvtp g t rm d a b) g ([a.toNat] ++ b.srcs false) fun u =>
    let el (x : W32) : BitVec 16 := BitVec.ofNat 16 ((fp32.decode x.toNat).round t.fmt rm)
    u.setReg d.toNat (el (u.b32 b) ++ el (u.reg a.toNat))) ∧
  (∀ g t rm d a k, LaneWise (.cvtx g t rm d a k) g [a.toNat] fun u =>
    u.setReg d.toNat (BitVec.ofNat 32 ((t.fmt.decode ((u.reg a.toNat).extractLsb' (16 * k.toNat) 16).toNat).round fp32 .rz))) ∧
  (∀ g t rm d a b h, ∃ e : W32 → BitVec 8, ∃ f : W32 → W32 → W32 → W32,
    (∀ x, e x = match t with
      | .fp8e4 => BitVec.ofNat 8 ((fp32.decode x.toNat).toE4 rm)
      | .fp8e5 => BitVec.ofNat 8 ((fp32.decode x.toNat).round fp8e5 rm)
      | .i8 => BitVec.ofInt 8 ((fp32.decode x.toNat).toInt rm (-128) 127)
      | .n8 => BitVec.ofInt 8 ((fp32.decode x.toNat).toInt rm 0 255)) ∧
    (∀ x y z k, k < 4 → (f x y z).extractLsb' (8 * k) 8 =
      if k = 2 * h.toNat then e x else if k = 2 * h.toNat + 1 then e y else z.extractLsb' (8 * k) 8) ∧
    LaneWise (.pk8 g t rm d a b h) g ([a.toNat] ++ b.srcs false ++ [d.toNat]) fun u =>
      u.setReg d.toNat (f (u.reg a.toNat) (u.b32 b) (u.reg d.toNat))) ∧
  (∀ g t d a k, LaneWise (.unp8 g t d a k) g [a.toNat] fun u =>
    let c : BitVec 8 := (u.reg a.toNat).extractLsb' (8 * k.toNat) 8
    u.setReg d.toNat (match t with
      | .fp8e4 => if c.toNat % 128 = 127 then 0x7FC00000 else BitVec.ofNat 32 ((fp8e4.finite c.toNat).round fp32 .rz)
      | .fp8e5 => BitVec.ofNat 32 ((fp8e5.decode c.toNat).round fp32 .rz)
      | .i8 => c.signExtend 32
      | .n8 => c.setWidth 32)) ∧
  (∀ g t rm d a b h, ∃ e : W32 → BitVec 4, ∃ f : W32 → W32 → W32 → W32,
    (∀ x, e x = match t with
      | .fp4 => BitVec.ofNat 4 ((fp32.decode x.toNat).toFp4 rm)
      | .i4 => BitVec.ofInt 4 ((fp32.decode x.toNat).toInt rm (-8) 7)) ∧
    (∀ x y z k, k < 4 → (f x y z).extractLsb' (8 * k) 8 = if k = h.toNat then e y ++ e x else z.extractLsb' (8 * k) 8) ∧
    LaneWise (.pk4 g t rm d a b h) g ([a.toNat] ++ b.srcs false ++ [d.toNat]) fun u =>
      u.setReg d.toNat (f (u.reg a.toNat) (u.b32 b) (u.reg d.toNat))) ∧
  (∀ g t d a n, LaneWise (.unp4 g t d a n) g [a.toNat] fun u =>
    let c : BitVec 4 := (u.reg a.toNat).extractLsb' (4 * n.toNat) 4
    u.setReg d.toNat (match t with
      | .fp4 => BitVec.ofNat 32 ((fp4.finite c.toNat).round fp32 .rz)
      | .i4 => c.signExtend 32))

/-- R54, R55, R59, R60, R113, R114: `lenc` counts the thresholds at or below the magnitude, t1 to t31 of R59 or u1 to
u2047 of R60, each the nearest FP32 number to its power of two; it keeps the sign, and gives 0 for every NaN; `ldec` is
exact, and `lenc` gives every code back from its decoded value; `scal` is the scale byte of a block. -/
def Obligations.LogarithmicCodes : Prop :=
  (∀ g d a, ∃ f : W32 → W32, ∃ h : Nat → W32,
    (∀ x : W32, fp32.decode x.toNat = .nan → f x = 0) ∧
    f 0x7F800000 = 31 ∧ f 0xFF800000 = 63 ∧ f 0 = 0 ∧ f 0x80000000 = 32 ∧ f 0x40400000 = 0x16 ∧
    (∀ x : W32, x.toNat < 0x7F800000 → f (x ||| 0x80000000) = f x + 32) ∧
    (∀ x : W32, x.toNat < 0x7F800000 → (f x).toNat = (([0x3D8B95C2, 0x3DA5FED7, 0x3DC5672A, 0x3DEAC0C7, 0x3E0B95C2, 0x3E25FED7,
      0x3E45672A, 0x3E6AC0C7, 0x3E8B95C2, 0x3EA5FED7, 0x3EC5672A, 0x3EEAC0C7, 0x3F0B95C2, 0x3F25FED7, 0x3F45672A, 0x3F6AC0C7,
      0x3F8B95C2, 0x3FA5FED7, 0x3FC5672A, 0x3FEAC0C7, 0x400B95C2, 0x4025FED7, 0x4045672A, 0x406AC0C7, 0x408B95C2, 0x40A5FED7,
      0x40C5672A, 0x40EAC0C7, 0x410B95C2, 0x4125FED7, 0x4145672A].filter fun (t : Nat) => decide (t ≤ x.toNat)).length)) ∧
    (∀ c, c < 64 → c % 32 ≠ 0 → ∃ v, fp32.decode (h c).toNat = .val (decide (32 ≤ c)) v ∧
        (v.add ⟨(if 32 ≤ c then 1 else -1) * [2048, 2435, 2896, 3444].getD (c % 4) 0, (c % 32 / 4 : Nat) - 15⟩).m = 0) ∧
    h 0 = 0 ∧ h 32 = 0x80000000 ∧ (∀ c, c < 64 → f (h c) = BitVec.ofNat 32 c) ∧
    LaneWise (.lenc g .lns6 d a) g [a.toNat] (fun u => u.setReg d.toNat (f (u.reg a.toNat))) ∧
    LaneWise (.ldec g .lns6 d a) g [a.toNat] fun u => u.setReg d.toNat (h ((u.reg a.toNat).extractLsb' 0 6).toNat)) ∧
  (∀ g d a, ∃ f : W32 → W32, ∃ h : Nat → W32, ∃ t : Nat → Nat,
    (∀ x : W32, fp32.decode x.toNat = .nan → f x = 0) ∧
    f 0x7F800000 = 2047 ∧ f 0xFF800000 = 4095 ∧ f 0 = 0 ∧ f 0x80000000 = 2048 ∧
    (∀ k, k < 2047 → t k / 2 ^ 23 = k / 32 + 95 ∧
      let m := t k % 2 ^ 23 + 2 ^ 23
      (2 * m - 1) ^ 64 < 2 ^ (2 * (k % 32) + 1 + 64 * 24) ∧ 2 ^ (2 * (k % 32) + 1 + 64 * 24) < (2 * m + 1) ^ 64) ∧
    (∀ x : W32, x.toNat < 0x7F800000 → (f x).toNat = ((List.range 2047).filter fun k => decide (t k ≤ x.toNat)).length) ∧
    (∀ x : W32, x.toNat < 0x7F800000 → f (x ||| 0x80000000) = f x + 2048) ∧
    (∀ c, c < 4096 → c % 2048 ≠ 0 → ∃ v, fp32.decode (h c).toNat = .val (decide (2048 ≤ c)) v ∧
        (v.add ⟨(if 2048 ≤ c then 1 else -1) * t12 (c % 32), (c % 2048 / 32 : Nat) - 47⟩).m = 0) ∧
    h 0 = 0 ∧ h 2048 = 0x80000000 ∧ (∀ c, c < 4096 → f (h c) = BitVec.ofNat 32 c) ∧
    LaneWise (.lenc g .lns12 d a) g [a.toNat] (fun u => u.setReg d.toNat (f (u.reg a.toNat))) ∧
    LaneWise (.ldec g .lns12 d a) g [a.toNat] fun u => u.setReg d.toNat (h ((u.reg a.toNat).extractLsb' 0 12).toNat)) ∧
  (∀ g t d a, ∃ f : W32 → W32,
    (∀ x, fp32.decode x.toNat = .nan → f x = 0xFF) ∧ f 0 = 127 ∧ f 0x80000000 = 127 ∧
    (∀ x : W32, x.toNat % 2 ^ 31 ≠ 0 → x.toNat % 2 ^ 31 ≤ 0x7F800000 →
      let e : Int := match t with
        | .lns6 => 3
        | .fp4 => 2
        | .fp8e4 => 8
        | .fp8e5 => 15
      let k : Int := if x.toNat % 2 ^ 31 < 2 ^ 23 then (Nat.log2 (x.toNat % 2 ^ 31) : Int) - 149 else (x.toNat / 2 ^ 23 % 256 : Nat) - 127
      ((f x).toNat : Int) = Max.max 0 (Min.min 254 (k - e + 127))) ∧
    LaneWise (.scal g t d a) g [a.toNat] fun u => u.setReg d.toNat (f (u.reg a.toNat)))
/-! Registers, operands, C forms, poison. -/

/-- R24, R26, R80, R282, R300: a register reads what was written to it and no other register changes; while traps are
masked, numbers 240 to 247 name the bank, and each place keeps its contents while the other is used; a write clears
poison; pairs hold the low word first; `p7` reads true; operand B is a register, IMM32 or the literal. -/
def Obligations.RegistersAndOperands : Prop :=
  (∀ (s : State) (c n : Nat) (u : Slot), (s.setSlot c n u).slot c n = u ∧ s.SlotsOnly (s.setSlot c n u) c [n]) ∧
  (∀ (t : Slot) (r : Nat) (v : W32), (t.setReg r v).reg r = v ∧ (t.setReg r v).poisoned r = false ∧
    (t.setReg r v).preds = t.preds ∧ (t.setReg r v).pc = t.pc ∧ ∀ q, q ≠ r → (t.setReg r v).reg q = t.reg q) ∧
  (∀ (t : Slot) (r : Nat) (v : W32), t.masked = true →
    (if 240 ≤ r ∧ r ≤ 247 then (t.setReg r v).regs = t.regs ∧ (t.setReg r v).bank = t.bank.put r v
     else (t.setReg r v).bank = t.bank ∧ (t.setReg r v).regs = t.regs.put r v)) ∧
  (∀ (t : Slot) (r : Nat) (v : W32), t.masked = false → (t.setReg r v).bank = t.bank ∧ (t.setReg r v).regs = t.regs.put r v) ∧
  (∀ (t : Slot) (r : Nat), (t.pair r).extractLsb' 0 32 = t.reg r ∧ (t.pair r).extractLsb' 32 32 = t.reg (r + 1)) ∧
  (∀ (t : Slot) (r : Nat) (v : W64), (t.setPair r v).reg r = v.extractLsb' 0 32 ∧ (t.setPair r v).reg (r + 1) = v.extractLsb' 32 32) ∧
  (∀ t : Slot, t.pred 7 = true) ∧
  (∀ (t : Slot) (p q : PredNo) (v : Bool), p ≠ 7 → (t.setPred p v).pred q = if q = p then v else t.pred q) ∧
  (∀ (t : Slot) (g : Guard), t.guard g = (t.pred g.p ^^ g.neg)) ∧
  (∀ (t : Slot) (r : Reg), t.b32 (.reg r) = t.reg r.toNat ∧ ∀ sg, t.b64 sg (.reg r) = t.pair r.toNat) ∧
  (∀ (t : Slot) (v : W32), t.b32 (.imm v) = v ∧ t.b64 true (.imm v) = v.signExtend 64 ∧ t.b64 false (.imm v) = v.setWidth 64) ∧
  (∀ (t : Slot) (v : W64), t.b32 (.lit v) = v.extractLsb' 0 32 ∧ ∀ sg, t.b64 sg (.lit v) = v)

/-- R73, R74: a C form, of every family but the loads and stores of lines, has exactly the effect of the X form with guard
0b0111 and the immediate that its row names. -/
def Obligations.CForms : Prop :=
  SameEffect .nopC (.nop .always) ∧
  (∀ d b, SameEffect (.movB32C d b) (.mov .always .b32 d (.reg b))) ∧
  (∀ d v, SameEffect (.movB32Clit d v) (.mov .always .b32 d (.imm v))) ∧
  (∀ d i, SameEffect (.movB32Imm8C d i) (.mov .always .b32 d (.imm (i.signExtend 32)))) ∧
  (∀ d a b, SameEffect (.addI32C d a b) (.add .always .i32 d a (.reg b))) ∧
  (∀ d a v, SameEffect (.addI32Clit d a v) (.add .always .i32 d a (.imm v))) ∧
  (∀ d a i, SameEffect (.addI32Imm8C d a i) (.add .always .i32 d a (.imm (i.signExtend 32)))) ∧
  (∀ d a b, SameEffect (.subI32C d a b) (.sub .always .i32 d a (.reg b))) ∧
  (∀ d a v, SameEffect (.subI32Clit d a v) (.sub .always .i32 d a (.imm v))) ∧
  (∀ d a b, SameEffect (.mulI32C d a b) (.mul .always .i32 d a (.reg b))) ∧
  (∀ d a v, SameEffect (.mulI32Clit d a v) (.mul .always .i32 d a (.imm v))) ∧
  (∀ d a b, SameEffect (.andB32C d a b) (.and .always .b32 d a (.reg b))) ∧
  (∀ d a v, SameEffect (.andB32Clit d a v) (.and .always .b32 d a (.imm v))) ∧
  (∀ d a i, SameEffect (.andB32Imm8C d a i) (.and .always .b32 d a (.imm (i.setWidth 32)))) ∧
  (∀ d a b, SameEffect (.orB32C d a b) (.or .always .b32 d a (.reg b))) ∧
  (∀ d a v, SameEffect (.orB32Clit d a v) (.or .always .b32 d a (.imm v))) ∧
  (∀ d a b, SameEffect (.xorB32C d a b) (.xor .always .b32 d a (.reg b))) ∧
  (∀ d a v, SameEffect (.xorB32Clit d a v) (.xor .always .b32 d a (.imm v))) ∧
  (∀ d a i, SameEffect (.shlB32Imm8C d a i) (.shl .always .b32 d a (.imm (i.setWidth 32)))) ∧
  (∀ d a i, SameEffect (.shrB32Imm8C d a i) (.shr .always .b32 d a (.imm (i.setWidth 32)))) ∧
  (∀ d a i, SameEffect (.shrI32Imm8C d a i) (.shr .always .i32 d a (.imm (i.setWidth 32)))) ∧
  (∀ d a b, SameEffect (.shlB32C d a b) (.shl .always .b32 d a (.reg b))) ∧
  (∀ d a v, SameEffect (.shlB32Clit d a v) (.shl .always .b32 d a (.imm v))) ∧
  (∀ d a b, SameEffect (.shrB32C d a b) (.shr .always .b32 d a (.reg b))) ∧
  (∀ d a v, SameEffect (.shrB32Clit d a v) (.shr .always .b32 d a (.imm v))) ∧
  (∀ d a b, SameEffect (.minI32C d a b) (.min .always .i32 d a (.reg b))) ∧
  (∀ d a v, SameEffect (.minI32Clit d a v) (.min .always .i32 d a (.imm v))) ∧
  (∀ d a b, SameEffect (.maxI32C d a b) (.max .always .i32 d a (.reg b))) ∧
  (∀ d a v, SameEffect (.maxI32Clit d a v) (.max .always .i32 d a (.imm v))) ∧
  (∀ d a, SameEffect (.popcB32C d a) (.popc .always .b32 d a)) ∧
  (∀ d a, SameEffect (.clzB32C d a) (.clz .always .b32 d a)) ∧
  (∀ d a b, SameEffect (.leaN32C d a b) (.lea .always .n32 d a (.reg b) 2)) ∧
  (∀ d a v, SameEffect (.leaN32Clit d a v) (.lea .always .n32 d a (.imm v) 2)) ∧
  (∀ d a b, SameEffect (.faddFp32C d a b) (.fadd .always .fp32 .rne d a (.reg b))) ∧
  (∀ d a v, SameEffect (.faddFp32Clit d a v) (.fadd .always .fp32 .rne d a (.imm v))) ∧
  (∀ d a b, SameEffect (.fmulFp32C d a b) (.fmul .always .fp32 .rne d a (.reg b))) ∧
  (∀ d a v, SameEffect (.fmulFp32Clit d a v) (.fmul .always .fp32 .rne d a (.imm v))) ∧
  (∀ d a b, SameEffect (.fminFp32C d a b) (.fmin .always .fp32 d a (.reg b))) ∧
  (∀ d a v, SameEffect (.fminFp32Clit d a v) (.fmin .always .fp32 d a (.imm v))) ∧
  (∀ d a b, SameEffect (.fmaxFp32C d a b) (.fmax .always .fp32 d a (.reg b))) ∧
  (∀ d a v, SameEffect (.fmaxFp32Clit d a v) (.fmax .always .fp32 d a (.imm v))) ∧
  (∀ d a b, SameEffect (.faddBf16C d a b) (.fadd .always .bf16 .rne d a (.reg b))) ∧
  (∀ d a v, SameEffect (.faddBf16Clit d a v) (.fadd .always .bf16 .rne d a (.imm v))) ∧
  (∀ d a b, SameEffect (.fmulBf16C d a b) (.fmul .always .bf16 .rne d a (.reg b))) ∧
  (∀ d a v, SameEffect (.fmulBf16Clit d a v) (.fmul .always .bf16 .rne d a (.imm v))) ∧
  (∀ d a, SameEffect (.cvtFp32I32C d a) (.cvt .always .fp32 .i32 .rne d a)) ∧
  (∀ d a, SameEffect (.cvtI32Fp32C d a) (.cvt .always .i32 .fp32 .rne d a)) ∧
  (∀ p a b, SameEffect (.setpEqB32C p a b) (.setp .always (.bits false .b32) p a (.reg b))) ∧
  (∀ p a v, SameEffect (.setpEqB32Clit p a v) (.setp .always (.bits false .b32) p a (.imm v))) ∧
  (∀ p a b, SameEffect (.setpNeB32C p a b) (.setp .always (.bits true .b32) p a (.reg b))) ∧
  (∀ p a v, SameEffect (.setpNeB32Clit p a v) (.setp .always (.bits true .b32) p a (.imm v))) ∧
  (∀ p a b, SameEffect (.setpLtI32C p a b) (.setp .always (.int .lt .i32) p a (.reg b))) ∧
  (∀ p a v, SameEffect (.setpLtI32Clit p a v) (.setp .always (.int .lt .i32) p a (.imm v))) ∧
  (∀ p a b, SameEffect (.setpGeI32C p a b) (.setp .always (.int .ge .i32) p a (.reg b))) ∧
  (∀ p a v, SameEffect (.setpGeI32Clit p a v) (.setp .always (.int .ge .i32) p a (.imm v))) ∧
  (∀ p a b, SameEffect (.setpLtN32C p a b) (.setp .always (.int .lt .n32) p a (.reg b))) ∧
  (∀ p a v, SameEffect (.setpLtN32Clit p a v) (.setp .always (.int .lt .n32) p a (.imm v))) ∧
  (∀ p a b, SameEffect (.setpGeN32C p a b) (.setp .always (.int .ge .n32) p a (.reg b))) ∧
  (∀ p a v, SameEffect (.setpGeN32Clit p a v) (.setp .always (.int .ge .n32) p a (.imm v))) ∧
  (∀ p a b, SameEffect (.setpLtFp32C p a b) (.setp .always (.fp .lt) p a (.reg b))) ∧
  (∀ p a v, SameEffect (.setpLtFp32Clit p a v) (.setp .always (.fp .lt) p a (.imm v))) ∧
  (∀ p a b, SameEffect (.setpGeFp32C p a b) (.setp .always (.fp .ge) p a (.reg b))) ∧
  (∀ p a v, SameEffect (.setpGeFp32Clit p a v) (.setp .always (.fp .ge) p a (.imm v))) ∧
  (∀ d a b, SameEffect (.pandC d a b) (.pand .always d a b)) ∧
  (∀ d a b, SameEffect (.porC d a b) (.por .always d a b)) ∧
  (∀ d a b, SameEffect (.pxorC d a b) (.pxor .always d a b)) ∧
  (∀ d a b, SameEffect (.pandnC d a b) (.pandn .always d a b)) ∧
  (∀ d a, SameEffect (.pmovC d a) (.pmov .always d a)) ∧
  (∀ d a, SameEffect (.pnotC d a) (.pnot .always d a)) ∧
  (∀ la, SameEffect (.recallC la) (.recallLine .always la)) ∧
  (∀ la, SameEffect (.flushC la) (.flush .always la)) ∧
  SameEffect .exitC (.exit .always) ∧
  (∀ a, SameEffect (.retC a) (.ret .always a)) ∧
  (∀ d a, SameEffect (.voteAnyC d a) (.vote .always (.any d) a)) ∧
  (∀ d a, SameEffect (.voteAllC d a) (.vote .always (.all d) a)) ∧
  (∀ d a, SameEffect (.voteBallC d a) (.vote .always (.ball d) a)) ∧
  (∀ d, SameEffect (.electC d) (.elect .always d)) ∧
  (∀ d a b, SameEffect (.shflIdxC d a b) (.shfl .always .idx d a (.reg b) 7)) ∧
  (∀ d a i, SameEffect (.shflXorC d a i) (.shfl .always .xor d a (.imm (i.setWidth 32)) 7)) ∧
  (∀ d sr, SameEffect (.mfsC d sr) (.mfs .always d sr)) ∧
  SameEffect .pauseC (.pause .always)

/-- R76, R284, R300: a lane whose guard fails steps past and does nothing else, in the instructions that are not lane-wise;
a lane that reads a poisoned register parks at the instruction with ACC 9 and the register's number, or in its handler is a
double fault; instructions of each family. That `%tval` names the first poisoned source in operand order is the model's
choice, log entry 68: R300 says only that it holds the register number. That `callx`, `jmpx` and `ret` take POISON also
where bits 1:0 of the register are not zero is the model's choice, log entry 83. -/
def Obligations.GuardsAndPoison : Prop :=
  ((∀ g t d a b, ParksOnPoison (.add g t d a b) g (regsOf t.wide a ++ b.srcs t.wide)) ∧
    (∀ g t d a b c, ParksOnPoison (.mad g t d a b c) g (regsOf t.wide a ++ b.srcs t.wide ++ regsOf t.wide c)) ∧
    (∀ g t d b, ParksOnPoison (.mov g t d b) g (b.srcs t.wide)) ∧
    (∀ g test p a b, ParksOnPoison (.setp g test p a b) g (regsOf test.wide a ++ b.srcs test.wide)) ∧
    (∀ g t rm d a b, ParksOnPoison (.fadd g t rm d a b) g ([a.toNat] ++ b.srcs false)) ∧
    (∀ g t rm d a b h, ParksOnPoison (.pk8 g t rm d a b h) g ([a.toNat] ++ b.srcs false ++ [d.toNat])) ∧
    (∀ g d a b c, ParksOnPoison (.perm g d a b c) g (regsOf true a ++ b.srcs false ++ regsOf true c)) ∧
    (∀ g p b, ParksOnPoison (.join g p b) g (b.srcs false)) ∧
    (∀ g a, ParksOnPoison (.jmpx g a) g [a.toNat]) ∧
    (∀ g a, ParksOnPoison (.callx g a) g [a.toNat]) ∧
    (∀ g a, ParksOnPoison (.ret g a) g [a.toNat]) ∧
    (∀ g a, ParksOnPoison (.tmset g a) g (regsOf true a)) ∧
    (∀ g sr a, State.handlerOnly sr = false → ParksOnPoison (.mts g sr a) g (regsOf (sr.cnt == 2) a)) ∧
    (∀ g sr a (s : State) (c n len r : Nat), s.Alone c n len → (s.slot c n).guard g = true → (s.slot c n).masked = true →
      (regsOf (sr.cnt == 2) a).find? (fun q => (s.slot c n).poisoned q) = some r →
      exec (.mts g sr a) s = .next (s.squallOf c n 2 (s.slot c n).pc (poisonTrap r).record (poisonTrap r).val)) ∧
    (∀ g p a b, ParksOnPoison (.stkgive g p a b) g ([a.toNat] ++ b.srcs false)) ∧
    (∀ g p a, ParksOnPoison (.stkown g p a) g [a.toNat])) ∧
  ((∀ g off, SkipsOnFalse (.bra g off) g) ∧ (∀ g off, SkipsOnFalse (.call g off) g) ∧ (∀ g e, SkipsOnFalse (.callImport g e) g) ∧
    (∀ g a, SkipsOnFalse (.callx g a) g) ∧ (∀ g a, SkipsOnFalse (.jmpx g a) g) ∧ (∀ g a, SkipsOnFalse (.ret g a) g) ∧
    (∀ g, SkipsOnFalse (.exit g) g) ∧ (∀ g p b, SkipsOnFalse (.join g p b) g) ∧ (∀ g p b, SkipsOnFalse (.leave g p b) g) ∧
    (∀ g p a b, SkipsOnFalse (.tbar g p a b) g) ∧ (∀ g op d a b, SkipsOnFalse (.tred g op d a b) g) ∧
    (∀ g d a b c, SkipsOnFalse (.tbcast g d a b c) g) ∧ (∀ g m d a b p, SkipsOnFalse (.shfl g m d a b p) g) ∧
    (∀ g d a, SkipsOnFalse (.vote g d a) g) ∧ (∀ g t d a, SkipsOnFalse (.matchLanes g t d a) g) ∧
    (∀ g d a, SkipsOnFalse (.confl g d a) g) ∧ (∀ g op d a, SkipsOnFalse (.cred g op d a) g) ∧
    (∀ g op e d a, SkipsOnFalse (.cscan g op e d a) g) ∧ (∀ g p, SkipsOnFalse (.elect g p) g) ∧
    (∀ g m sc l p h a, SkipsOnFalse (.openLine g m sc l p h a) g) ∧ (∀ g l p a, SkipsOnFalse (.sopen g l p a) g) ∧
    (∀ g la, SkipsOnFalse (.recallLine g la) g) ∧ (∀ g la, SkipsOnFalse (.flush g la) g) ∧
    (∀ g sz d la b o, SkipsOnFalse (.ld g sz d la b o) g) ∧ (∀ g sz la b d o, SkipsOnFalse (.st g sz la b d o) g) ∧
    (∀ g t d la b o, SkipsOnFalse (.lde g t d la b o) g) ∧ (∀ g t la b d o, SkipsOnFalse (.ste g t la b d o) g) ∧
    (∀ g op d la b c, SkipsOnFalse (.atom g op d la b c) g) ∧ (∀ g op la b d, SkipsOnFalse (.red g op la b d) g) ∧
    (∀ g h a, SkipsOnFalse (.pfd g h a) g) ∧ (∀ g a, SkipsOnFalse (.mma g a) g) ∧ (∀ g a, SkipsOnFalse (.mload g a) g) ∧
    (∀ g t a, SkipsOnFalse (.talloc g t a) g) ∧ (∀ g t, SkipsOnFalse (.tfree g t) g) ∧ (∀ g d t, SkipsOnFalse (.tstat g d t) g) ∧
    (∀ g a, SkipsOnFalse (.copy g a) g) ∧ (∀ g w, SkipsOnFalse (.wait g w) g) ∧ (∀ g t la b d, SkipsOnFalse (.sig g t la b d) g) ∧
    (∀ g t la b d, SkipsOnFalse (.sigw g t la b d) g) ∧ (∀ g p a b, SkipsOnFalse (.stkgive g p a b) g) ∧
    (∀ g p a, SkipsOnFalse (.stkown g p a) g) ∧ (∀ g a, SkipsOnFalse (.tmset g a) g) ∧ (∀ g v, SkipsOnFalse (.trap g v) g) ∧
    (∀ g v, SkipsOnFalse (.bkpt g v) g) ∧ (∀ g, SkipsOnFalse (.rteRetry g) g) ∧ (∀ g, SkipsOnFalse (.rteSkip g) g) ∧
    (∀ g, SkipsOnFalse (.rteExit g) g) ∧ (∀ g d sr, SkipsOnFalse (.mfs g d sr) g) ∧ (∀ g sr a, SkipsOnFalse (.mts g sr a) g) ∧
    (∀ g a, SkipsOnFalse (.icinv g a) g) ∧ (∀ g a, SkipsOnFalse (.pfi g a) g) ∧ (∀ g, SkipsOnFalse (.pause g) g) ∧
    (∀ g f d h, SkipsOnFalse (.hld g f d h) g))

/-- R22: each slot of a bundle acts: an instruction whose lanes act on their own does to the bundle what it does to its
slots one after the other. -/
def Obligations.LaneByLane : Prop :=
  let holds (i : Instr) : Prop := ∀ (s : State) (b : Bundle) (n : Nat) (l : List Nat), s.cur = some b → b.slots = n :: l →
    exec i s = Result.andThen (Result.andThen (exec i { s with cur := some { b with slots := [n] } }) fun t =>
      exec i { t with cur := some { b with slots := l } }) fun t => .next { t with cur := some b }
  (∀ g off, holds (.bra g off)) ∧ (∀ g off, holds (.call g off)) ∧ (∀ g e, holds (.callImport g e)) ∧
  (∀ g a, holds (.callx g a)) ∧ (∀ g a, holds (.jmpx g a)) ∧ (∀ g a, holds (.ret g a)) ∧ (∀ g, holds (.exit g)) ∧
  (∀ g p b, holds (.join g p b)) ∧ (∀ g p b, holds (.leave g p b)) ∧ (∀ g w, holds (.wait g w)) ∧
  (∀ g d sr, holds (.mfs g d sr)) ∧ (∀ g sr a, holds (.mts g sr a)) ∧ (∀ g a, holds (.tmset g a)) ∧
  (∀ g v, holds (.trap g v)) ∧ (∀ g v, holds (.bkpt g v)) ∧ (∀ g, holds (.rteRetry g)) ∧ (∀ g, holds (.rteSkip g)) ∧
  (∀ g, holds (.rteExit g)) ∧ (∀ g a, holds (.icinv g a)) ∧ (∀ g a, holds (.pfi g a)) ∧ (∀ g, holds (.pause g)) ∧
  (∀ g f d h, holds (.hld g f d h)) ∧ (∀ g p a b, holds (.stkgive g p a b)) ∧ (∀ g p a, holds (.stkown g p a)) ∧
  (∀ g t la b d, holds (.sigw g t la b d)) ∧ (∀ g p a b, holds (.tbar g p a b)) ∧ (∀ g op d a b, holds (.tred g op d a b)) ∧
  (∀ g d a b c, holds (.tbcast g d a b c)) ∧ (∀ w, holds (.illegalInstruction w))

/-! Steps, transfers, traps, special registers, teams, lanes. -/

/-- R22, R71, R89, R212, R274: a turn of a quadrant runs the instruction that the bytes at its bundle's program counter
decode to, with the issue noted and the next turn drawn; lanes that fail a decode check of their own take the trap; an
encoding that begins at no multiple of 4 traps with the first detail in the table's order that its bytes break too, and with
one that is a free value where they break none; a turn of a running seam runs its micro-op, in a cycle in which its core has
issued nothing yet; a turn of a device step runs that step. Where it rests on the model's own choices, these are log entries
1 and 59. -/
def Obligations.StepRunsInstruction : Prop :=
  (∀ (s : State) (c q n len : Nat) (l : List Nat) (i : Instr) (ref : W32) (line : CodeLine),
    s.turn = .issue c q → s.phase = 0x05 → c < 192 → q < 4 → s.coreDue c = false → s.mayIssue c q = true →
    s.nextBundle c q = some (n :: l) → (s.slot c n).stay = some (ref, line) →
    (s.slot c n).pc.toNat % 4 = 0 → decode (State.lineBytes line.data (s.slot c n).pc) = .ok i → i.wf = true →
    len = State.encLength line.data (s.slot c n).pc → (∀ m ∈ n :: l, s.decodeFault c m i = none) →
    step s = Result.andThen (exec i { s.noteIssue c q (n :: l) i (s.isPair c n) with
      cur := some { core := c, quad := q, slots := n :: l, pc := (s.slot c n).pc, len := len } }) fun t => .next t.nextTurn) ∧
  (∀ (s : State) (c q n len : Nat) (i : Instr) (ref : W32) (line : CodeLine) (d : Detail),
    s.turn = .issue c q → s.phase = 0x05 → c < 192 → q < 4 → s.coreDue c = false → s.mayIssue c q = true →
    s.nextBundle c q = some [n] → (s.slot c n).stay = some (ref, line) →
    len = State.encLength line.data (s.slot c n).pc →
    (((s.slot c n).pc.toNat % 4 = 0 ∧ decode (State.lineBytes line.data (s.slot c n).pc) = .ok i ∧
        s.decodeFault c n i = some d) ∨
      (decode (State.lineBytes line.data (s.slot c n).pc) = .error d ∧ i = .illegalInstruction d) ∨
      (∃ j, (s.slot c n).pc.toNat % 4 ≠ 0 ∧ decode (State.lineBytes line.data (s.slot c n).pc) = .ok j ∧
        (∀ e, j ≠ .illegalInstruction e) ∧ i = .illegalInstruction (Config.misalignedDetail (s.slot c n).pc) ∧
        d = (s.decodeFault c n j).getD (Config.misalignedDetail (s.slot c n).pc))) →
    step s = Result.andThen (exec (.illegalInstruction d) { s.noteIssue c q [n] i (s.isPair c n) with
      cur := some { core := c, quad := q, slots := [n], pc := (s.slot c n).pc, len := len } }) fun t => .next t.nextTurn) ∧
  (∀ (s : State) (c n : Nat) (r : SeamRun) (w : W64) (i : Instr),
    s.turn = .uop c n → s.issuedAny c = false → (s.slot c n).seam = some r → r.words[r.idx]? = some w → decodeUop w = some i →
    step s = Result.andThen (exec i { s with
      cur := some { core := c, quad := n / 512, slots := [n], pc := (s.slot c n).pc, len := 12 } }) fun t => .next t.nextTurn) ∧
  (∀ (s : State) (c n : Nat), s.turn = .uop c n → s.issuedAny c = true → step s = .next s.nextTurn) ∧
  (∀ (s : State) (i : Instr), s.turn = .event i → i.isDeviceStep = true →
    step s = Result.andThen (exec i s) fun t => .next t.nextTurn) ∧
  ∀ s : State, s.nextTurn = { s with turn := Config.nextTurn s.turns, turns := s.turns + 1 }

/-- R85, R147 to R152, R156, R196, R275, R287, R290, R291, R304: branches, calls and returns go to their targets with the
return address in v253, a register target that is not a multiple of 4 is detail TARGET, and a call of an import goes to its
entry; they wait for no counter, and the operations that are outstanding keep their counts. `exit` and `rte.exit` make the
slot vacant once O is 0 and every value-returning access has completed, and hold it until then; `EXIT_RETIRE` ends that
hold; a vacant slot counts nothing and keeps its registers, `%tcmp` and its crew's line registers; no other slot, and no
memory, changes. A slot that exits leaves its team: a phase no longer expects it, and completes for its partner where it was
the last; the team ends with its last member. It leaves the set of a halt; a parked slot that ends with `rte.exit` ends its
own. Where it rests on the model's own choices, these are log entry 60. -/
def Obligations.ControlFlow : Prop :=
  ((∀ (s : State) (c n len : Nat) (g : Guard) (off : W32), s.Runs c n len g [] →
      let u := s.slot c n
      let to_ : W32 := u.pc.extractLsb' 24 8 ++ (u.pc.extractLsb' 0 24 + off.setWidth 24)
      let next : W32 := u.pc.extractLsb' 24 8 ++ (u.pc.extractLsb' 0 24 + BitVec.ofNat 24 len)
      exec (.bra g off) s = .next (s.setSlot c n (u.goto to_)) ∧
      exec (.call g off) s = .next (s.setSlot c n ((u.setReg 253 next).goto to_))) ∧
    (∀ (s : State) (c n len : Nat) (g : Guard) (a : Reg), s.Runs c n len g [a.toNat] →
      let u := s.slot c n
      let next : W32 := u.pc.extractLsb' 24 8 ++ (u.pc.extractLsb' 0 24 + BitVec.ofNat 24 len)
      if (u.reg a.toNat).toNat % 4 = 0 then
        exec (.jmpx g a) s = .next (s.setSlot c n (u.goto (u.reg a.toNat))) ∧
        exec (.ret g a) s = .next (s.setSlot c n (u.goto (u.reg a.toNat))) ∧
        exec (.callx g a) s = .next (s.setSlot c n ((u.setReg 253 next).goto (u.reg a.toNat)))
      else
        exec (.jmpx g a) s = .next (s.takeTrap c n (illegalTrap .target)) ∧
        exec (.ret g a) s = .next (s.takeTrap c n (illegalTrap .target)) ∧
        exec (.callx g a) s = .next (s.takeTrap c n (illegalTrap .target))) ∧
    (∀ (s : State) (c n len : Nat) (g : Guard) (e : BitVec 12), s.Runs c n len g [] →
      let u := s.slot c n
      let next : W32 := u.pc.extractLsb' 24 8 ++ (u.pc.extractLsb' 0 24 + BitVec.ofNat 24 len)
      exec (.callImport g e) s = .next (match s.importEntry c (s.bindOf c n).ctx e.toNat with
        | .ok v => s.setSlot c n ((u.setReg 253 next).goto v)
        | .invalid => s.takeTrap c n (illegalTrap .target)
        | .poisoned => s.takeTrap c n { cause := .poison, val := BitVec.ofNat 64 e.toNat })) ∧
    (∀ (s : State) (c x i : Nat) (v : W32), s.importEntry c x i = .ok v ↔
      i ≤ rootImpn ((s.core c).roots.get 0 x) ∧ s.homePoisoned (rootImpt ((s.core c).roots.get 0 x) + 8 * i) 8 = false ∧
        Memory.read s.mem (rootImpt ((s.core c).roots.get 0 x) + 8 * i) 8 = 2 ^ 63 + v.toNat) ∧
    (∀ (s : State) (c n : Nat) (g : Guard) (off : W32),
      let to_ := ((s.slot c n).pc.toNat % 2 ^ 24 : Int) + off.toInt
      (s.decodeFault c n (.bra g off) = if to_ < 0 ∨ 2 ^ 24 - 4 < to_ then some .target else none) ∧
      (s.decodeFault c n (.call g off) = if s.registerBad c n (.call g off) then some .register
        else if to_ < 0 ∨ 2 ^ 24 - 4 < to_ then some .target else none)) ∧
    -- whatever is outstanding
    (∀ (s : State) (c n : Nat) (g : Guard) (off : W32) (x : BitVec 12) (a : Reg) (v : W32) (k : Cls),
      s.laneHeld c n (.call g off) = false ∧ s.laneHeld c n (.callImport g x) = false ∧ s.laneHeld c n (.callx g a) = false ∧
        s.laneHeld c n (.ret g a) = false ∧ s.laneHeld c n (.jmpx g a) = false ∧ s.laneHeld c n (.bra g off) = false ∧
        (((s.slot c n).setReg 253 v).goto v).count k = (s.slot c n).count k)) ∧
  (∀ (s : State) (c n len : Nat) (g : Guard), s.Runs c n len g [] → (s.core c).halts = [] → (s.core c).teamsOf n = [] →
      let u := s.slot c n
      let left (t : State) : Prop := (∀ e m, ¬ (e = c ∧ m = n) → t.slot e m = s.slot e m) ∧ t.mem = s.mem ∧
        (t.core c).crews = (s.core c).crews ∧ (t.slot c n).occupied = false ∧ (t.slot c n).masked = false ∧ (t.slot c n).hold = .free ∧
        (∀ k, (t.slot c n).count k = 0) ∧ (t.slot c n).regs = u.regs ∧ (t.slot c n).bank = u.bank ∧ (t.slot c n).tcmp = u.tcmp
      let waits (t : State) : Prop := s.SlotsOnly t c [n] ∧ (t.slot c n).hold = .exiting ∧ (t.slot c n).masked = false ∧
        (t.slot c n).opsO = u.opsO ∧ (t.slot c n).opsH = u.opsH ∧ (t.slot c n).regs = u.regs
      let free : Prop := u.opsO = [] ∧ ∀ o ∈ u.opsH, o.returns = true → o.done = true
      (∃ t, exec (.exit g) s = .next t ∧ (free → left t) ∧ (¬ free → waits t)) ∧
      (u.masked = true → ∃ t, exec (.rteExit g) s = .next t ∧ (free → left t) ∧ (¬ free → waits t)) ∧
      (u.hold = .exiting → free → ∃ t, exec (.exitRetire c n) s = .next t ∧ left t) ∧
      (¬ free → exec (.exitRetire c n) s = .next s)) ∧
  -- a member of a team, and a slot in a halt
  (∀ (s : State) (c n len : Nat) (g : Guard), s.Runs c n len g [] → (s.slot c n).opsO = [] →
      (∀ o ∈ (s.slot c n).opsH, o.returns = true → o.done = true) →
      let leaves (i : Instr) (holds : State → Prop) : Prop := ∃ t, exec i s = .next t ∧ t.mem = s.mem ∧ (t.slot c n).occupied = false ∧ holds t
      (∀ (k : Nat) (x : Team), (s.core c).halts = [] → (s.core c).teamsOf n = [k] → AMap.find? (s.core c).teams k = some x →
        let others := x.members.filter fun m => m != n
        let team (t : State) : Option Team := AMap.find? (t.core c).teams k
        (others = [] → leaves (.exit g) fun t => team t = none) ∧
        (others ≠ [] → x.phase = none → leaves (.exit g) fun t => team t = some { x with members := others }) ∧
        (∀ p q, x.phase = some p → others ≠ [] → q ∈ p.expected → q ≠ n → (∀ a ∈ p.arrived, a.slot ≠ q) →
          leaves (.exit g) fun t => team t = some { x with members := others, phase := some { p with
            throughout := p.throughout.filter fun m => m != n, expected := p.expected.filter fun m => m != n } }) ∧
        ∀ (b m lm : Nat) (gm : Guard) (pm : PredNo) (am : Reg) (bm : OpB) (mm : W32), m ≠ n →
          x = { bind := b, members := [m, n], phase := some {
            key := phaseKey (.tbar gm pm am bm), throughout := [m, n], expected := [m, n], masks := [(m / 32, mm)],
            arrived := [{ slot := m, same := true, inst := .tbar gm pm am bm, value := 0, sel := 0, len := lm }] } } →
          leaves (.exit g) fun t => team t = some { bind := b, members := [m], phase := none } ∧
            t.slot c m = { ((s.slot c m).setPred pm ((List.range 32).all fun j => !mm.getLsbD j || 32 * (m / 32) + j == m)).goto
              (pcAdd (s.slot c m).pc lm) with hold := .free, notBefore := s.clock + 1 }) ∧
      ∀ (p m cycle : Nat) (st : MemberState) (others : List (Nat × MemberState)) (ins : List Nat), (s.core c).teamsOf n = [] → p ≠ n → m ≠ n →
        ((s.core c).halts = [{ slot := p, cycle := cycle, members := (n, .running) :: others, inSeam := ins }] → (∀ o ∈ others, o.1 ≠ n) →
          leaves (.exit g) fun t => (t.core c).halts = [{ slot := p, cycle := cycle, members := others, inSeam := ins }]) ∧
        ((s.core c).halts = [{ slot := n, cycle := cycle, members := [(m, st)], inSeam := ins }] → (s.slot c n).masked = true →
          leaves (.rteExit g) fun t => (t.core c).halts = [] ∧ t.slot c m =
            if (s.slot c m).hold = .halted then { s.slot c m with hold := .free, notBefore := s.clock + 1 } else s.slot c m))

/-- R33, R278, R281, R284, R285: a precise trap masks traps, writes `%tpc` with the instruction's own code reference,
`%tcause` and `%tval`, and goes to import entry 0, in one cycle; in a handler it asks for a squall reset of cause 2
with the second fault's record, and one whose handler cannot be entered for one of cause 3. A timer trap, once
`%clock` has reached `%tcmp`'s time with its enable set, at a boundary of an unmasked slot, clears the enable, and
`%tval` holds the clock. -/
def Obligations.TrapEntry : Prop :=
  (∀ (s : State) (c n len : Nat) (g : Guard) (code tag : W32) (d : Detail), s.Runs c n len g [] →
      let u := s.slot c n
      let ctx := (s.bindOf c n).ctx
      let entered (pc cause : W32) (val : W64) : State := s.setSlot c n { u with
        pc := pc, masked := true, tpc := u.pc, tcause := cause, tval := val, hold := .free, retry := false, seam := none,
        stay := none, notBefore := s.clock + 1 }
      let asked (kind : Nat) (cause : W32) (val : W64) : State :=
        if s.squalls.any fun q => q.ctx == ctx then s
        else { s with squalls := s.squalls ++ [{ ctx := ctx, cause := kind, slot := some (c, n), tcause := cause, tpc := u.pc,
                                                 tval := val, stage := .asked, waits := [], gives := [], clock := 0,
                                                 launches := [], cancelled := 0 }] }
      (∀ pc, u.masked = false → s.importEntry c ctx 0 = .ok pc →
        exec (.trap g code) s = .next (entered pc 0x05 (code.setWidth 64)) ∧
        exec (.bkpt g tag) s = .next (entered pc 0x06 (tag.setWidth 64)) ∧
        exec (.illegalInstruction d) s = .next (entered pc 0x01 (BitVec.ofNat 64 (Detail.code d)))) ∧
      (u.masked = true →
        exec (.trap g code) s = .next (asked 2 0x05 (code.setWidth 64)) ∧
        exec (.bkpt g tag) s = .next (asked 2 0x06 (tag.setWidth 64)) ∧
        exec (.illegalInstruction d) s = .next (asked 2 0x01 (BitVec.ofNat 64 (Detail.code d)))) ∧
      (u.masked = false → (∀ pc, s.importEntry c ctx 0 ≠ .ok pc) →
        exec (.trap g code) s = .next (asked 3 0x05 (code.setWidth 64)) ∧
        exec (.bkpt g tag) s = .next (asked 3 0x06 (tag.setWidth 64)) ∧
        exec (.illegalInstruction d) s = .next (asked 3 0x01 (BitVec.ofNat 64 (Detail.code d))))) ∧
  (∀ (s : State) (c n : Nat) (pc : W32),
      let u := s.slot c n
      u.occupied = true → (u.hold = .free ∨ ∃ r va, u.hold = .sigw r va) → u.masked = false → s.stopDue c n = false →
      u.notBefore ≤ s.clock → s.importEntry c (s.bindOf c n).ctx 0 = .ok pc →
      exec (.timerTrap c n) s = .next (
        if u.tcmp.getLsbD 63 = true ∧ u.tcmp.toNat % 2 ^ 63 ≤ s.coreClock c % 2 ^ 63 then
          s.setSlot c n { u with
            tcmp := u.tcmp &&& 0x7FFFFFFFFFFFFFFF, pc := pc, masked := true, tpc := u.pc, tcause := 0x04,
            tval := BitVec.ofNat 64 (s.coreClock c), hold := .free, retry := false, seam := none, stay := none,
            notBefore := s.clock + 1 }
        else s))

/-- R213, R286, R287, R289: a slot that parks writes its record and stands at its instruction; one in no team enters its
handler in the next cycle, one in teams after five, with a halt of their other members; a halt that reaches a member three
or five cycles later stops it with a HALTED record, whose SKID counts what has issued since and a seam that it found
running. Where it rests on the model's own choices, these are log entries 42 and 72. -/
def Obligations.Parking : Prop :=
  (∀ (s : State) (c n len : Nat) (g : Guard) (p : PredNo) (a : Reg) (b : OpB), s.Runs c n len g (a.toNat :: b.srcs false) →
    let u := s.slot c n
    let k := (u.reg a.toNat).toNat
    u.masked = false → 7 < k →
    let parked (enter : Nat) : Slot := { u with
      tpc := u.pc, tcause := 0x118, tval := (u.reg a.toNat).setWidth 64, hold := .parked s.clock enter, parker := true,
      openPark := none, retry := false, seam := none }
    (exec (.stkgive g p a b) s = .next (
      if (s.core c).teamsOf n = [] then s.setSlot c n (parked (s.clock + 1))
      else (s.setSlot c n (parked (s.clock + 5))).onCore c fun x => { x with
        halts := x.halts ++ [{ slot := n, cycle := s.clock, members := ((s.core c).haltSet n).map fun m => (m, .running), inSeam := [] }] })) ∧
    exec (.stkown g p a) s = exec (.stkgive g p a b) s) ∧
  (∀ (k : Core) (n m : Nat), m ∈ k.haltSet n ↔ m ≠ n ∧ ∃ e ∈ k.teams, n ∈ e.2.members ∧ m ∈ e.2.members) ∧
  (∀ (s : State) (c n from_ enter : Nat) (pc : W32),
    let u := s.slot c n
    u.hold = .parked from_ enter → s.importEntry c (s.bindOf c n).ctx 0 = .ok pc →
    exec (.parkedHandlerEntry c n) s = .next (
      if enter ≤ s.clock then s.setSlot c n { u with
        pc := pc, masked := true, hold := .free, retry := false, seam := none, stay := none, notBefore := s.clock }
      else s)) ∧
  (∀ (s : State) (c p m cycle : Nat) (st : MemberState) (ins : List Nat),
    let u := s.slot c m
    (s.core c).halts = [{ slot := p, cycle := cycle, members := [(m, st)], inSeam := ins }] → st ≠ .stopped →
    (u.hold = .free ∨ ∃ r va, u.hold = .sigw r va) → u.occupied = true → u.masked = false →
    let due := cycle + (if m / 512 = p / 512 then 3 else 5)
    let skid := (u.recent.countP fun y => decide (cycle < y) && decide (y < due)) + if m ∈ ins then 1 else 0
    (s.clock < due → exec (.haltReachesMember c p m) s = .next s) ∧
    (due ≤ s.clock → exec (.haltReachesMember c p m) s = .next (
      (s.onCore c fun k => { k with halts := [{ slot := p, cycle := cycle, members := [(m, .stopped)], inSeam := ins }] }).setSlot c m
        { u with hold := .halted, tpc := u.pc, tcause := BitVec.ofNat 32 (0x20 + skid % 16 * 2 ^ 24), tval := BitVec.ofNat 64 p }))) ∧
  -- one that the halt finds in a seam goes on, and the `xseam` counts, also one that issued at P or before
  (∀ (s : State) (c p m cycle : Nat) (r : SeamRun),
    let u := s.slot c m
    (s.core c).halts = [{ slot := p, cycle := cycle, members := [(m, .running)], inSeam := [] }] →
    u.hold = .seam → u.seam = some r → cycle + (if m / 512 = p / 512 then 3 else 5) ≤ s.clock →
    exec (.haltReachesMember c p m) s = .next (s.onCore c fun k => { k with halts := [{
      slot := p, cycle := cycle, members := [(m, .deferred)],
      inSeam := match u.recent with
        | y :: _ => if cycle < y then [] else [m]
        | [] => [m] }] }))

/-- R123, R196, R291: in a handler `rte.retry` goes back to `%tpc` in retry mode and `rte.skip` past the instruction there,
and the lane of an `open` that parked is left SKIPPED in that `open`'s register; traps are unmasked again; outside a handler
each is detail PRIVILEGE. Where it rests on the model's own choices, these are log entry 42. -/
def Obligations.ReturnFromTrap : Prop :=
  ∀ (s : State) (c n len : Nat) (g : Guard), s.Runs c n len g [] →
    let u := s.slot c n
    (u.masked = true →
      (∃ t, exec (.rteRetry g) s = .next t ∧ (t.slot c n).masked = false ∧ (t.slot c n).pc = u.tpc ∧
        (t.slot c n).retry = true ∧ (t.slot c n).regs = u.regs ∧ t.mem = s.mem) ∧
      ((s.core c).halts = [] → exec (.rteRetry g) s = .next (s.setSlot c n
        { u.goto u.tpc with masked := false, retry := true, parker := false, openPark := none })) ∧
      (∀ l : CodeLine, AMap.find? (s.core c).icache (codeKey ((s.core c).bind u.bind).ctx u.tpc) = some l →
        u.tpc.toNat % 2 ^ 24 < l.len → (s.core c).halts = [] →
        ∃ t, exec (.rteSkip g) s = .next t ∧ s.SlotsOnly t c [n] ∧
          t.slot c n = { u.goto (pcAdd u.tpc (State.encLength l.data u.tpc)) with
            masked := false, retry := false, parker := false, openPark := none,
            ostat := match u.openPark with
              | some r => ostat r 0 3
              | none => u.ostat })) ∧
    (u.masked = false →
      exec (.rteRetry g) s = .next (s.takeTrap c n (illegalTrap .privilege)) ∧
      exec (.rteSkip g) s = .next (s.takeTrap c n (illegalTrap .privilege)) ∧
      exec (.rteExit g) s = .next (s.takeTrap c n (illegalTrap .privilege)))

/-- R31, R194, R197, R198, R280: what `mfs`, `mts`, `tmset` and `hld` read and write; reserved bits of `%tcause` read 0;
outside a handler `mts` of `%tpc`, `%tcause` or `%tval` is detail PRIVILEGE, whatever its source holds. Where it rests on
the model's own choices, these are log entry 2. -/
def Obligations.SpecialRegisters : Prop :=
  (∀ (s : State) (c n len : Nat) (g : Guard) (d : Reg), s.Runs c n len g [] →
    let u := s.slot c n
    let b := s.bindOf c n
    let narrow (r : SReg) (v : Nat) : Prop :=
      exec (.mfs g d r) s = .next (s.setSlot c n ((u.setReg d.toNat (BitVec.ofNat 32 v)).goto (pcAdd u.pc len)))
    let wide (r : SReg) (v : W64) : Prop :=
      exec (.mfs g d r) s = .next (s.setSlot c n ((u.setPair d.toNat v).goto (pcAdd u.pc len)))
    narrow .item u.item.toNat ∧ narrow .crew (n / 32 % 16) ∧ narrow .quad (n / 512) ∧ narrow .core c ∧ narrow .die (c / 96) ∧
    narrow .lane (if b.width = 1 then n % 16 else if b.width = 3 then n % 64 else n % 32) ∧
    narrow .ostat u.ostat.toNat ∧ narrow .tpc u.tpc.toNat ∧ narrow .tcause u.tcause.toNat ∧
    narrow .age (u.fill + (Config.clockSkew c).val) ∧ wide .clock (BitVec.ofNat 64 (s.coreClock c)) ∧ wide .tcmp u.tcmp ∧
    wide .tval u.tval ∧ wide .team ((s.core c).teamMask n)) ∧
  (∀ (s : State) (c n len : Nat) (g : Guard) (a : Reg), s.Runs c n len g (regsOf true a) →
    let u := s.slot c n
    let past (v : Slot) : State := s.setSlot c n (v.goto (pcAdd u.pc len))
    exec (.tmset g a) s = .next (past { u with tcmp := u.pair a.toNat }) ∧
    exec (.mts g .tcmp a) s = .next (past { u with tcmp := u.pair a.toNat }) ∧
    exec (.mts g .tval a) s = .next (if u.masked then past { u with tval := u.pair a.toNat } else s.takeTrap c n (illegalTrap .privilege)) ∧
    exec (.mts g .tpc a) s = .next (if u.masked then past { u with tpc := u.reg a.toNat } else s.takeTrap c n (illegalTrap .privilege)) ∧
    exec (.mts g .tcause a) s = .next (if u.masked then past { u with tcause := u.reg a.toNat &&& 0x0F0FF1FF } else s.takeTrap c n (illegalTrap .privilege))) ∧
  (∀ (s : State) (c n len : Nat) (g : Guard) (a : Reg) (r : SReg), s.Alone c n len → (s.slot c n).guard g = true →
    (s.slot c n).masked = false → r ∈ [SReg.tpc, .tcause, .tval] →
    exec (.mts g r a) s = .next (s.takeTrap c n (illegalTrap .privilege))) ∧
  (∀ (s : State) (c n len : Nat) (g : Guard) (d : Reg) (h : BitVec 12) (e : BitVec 256), s.Runs c n len g [] →
    s.handle c (s.slot c n).bind h.toNat = (some e, s) →
    let u := s.slot c n
    let got (v : W64) : State := s.setSlot c n ((u.setPair d.toNat v).goto (pcAdd u.pc len))
    exec (.hld g .base d h) s = .next (got (BitVec.ofNat 64 (e.extractLsb' 64 56).toNat)) ∧
    exec (.hld g .len d h) s = .next (got (e.extractLsb' 128 64)) ∧
    ∃ v, exec (.hld g .flags d h) s = .next (got v) ∧ ∀ k, k < 64 →
      v.getLsbD k = if 16 ≤ k ∧ k < 20 then e.getLsbD (184 + k) else e.getLsbD k)

/-- R188, R199, R200, R201, R202: `wait` steps past once the counts are within its thresholds, and not before; `pause` holds
the slot for 16 cycles; `icinv` drops a code line of a loaded object, and does nothing else for any other reference; `pfi`
changes no memory and takes no trap; a fetch that finds its line keeps it with every slot that waits for it, at one instant.
Where it rests on the model's own choices, these are log entries 48 and 49. -/
def Obligations.WaitsAndCode : Prop :=
  (∀ (s : State) (c n len : Nat) (g : Guard) (w : WaitSet), s.Runs c n len g [] →
    let u := s.slot c n
    let met : Bool := [(w.o, Cls.o), (w.h, .h), (w.c, .c), (w.m, .m), (w.s, .s)].all fun x => match x.1 with
      | some v => decide (u.count x.2 ≤ v.toNat)
      | none => true
    exec (.wait g w) s = .next (if met then s.setSlot c n (u.goto (pcAdd u.pc len)) else s)) ∧
  (∀ (s : State) (c n len : Nat) (g : Guard), s.Runs c n len g [] →
    exec (.pause g) s = .next (s.setSlot c n { s.slot c n with hold := .pause (s.clock + 17) len })) ∧
  (∀ (s : State) (c n till len : Nat), (s.slot c n).hold = .pause till len →
    exec (.pauseExpiry c n) s = .next (
      if till ≤ s.clock then s.setSlot c n { (s.slot c n).goto (pcAdd (s.slot c n).pc len) with hold := .free } else s)) ∧
  (∀ (s : State) (c n len : Nat) (g : Guard) (a : Reg), s.Runs c n len g [a.toNat] →
    let u := s.slot c n
    let key := codeKey (s.bindOf c n).ctx (u.reg a.toNat)
    (objState (s.objEntry c (s.bindOf c n).ctx (u.reg a.toNat)) ≠ 1 →
      exec (.icinv g a) s = .next (s.setSlot c n (u.goto (pcAdd u.pc len)))) ∧
    (objState (s.objEntry c (s.bindOf c n).ctx (u.reg a.toNat)) = 1 →
      ∃ t, exec (.icinv g a) s = .next t ∧ AMap.find? (t.core c).icache key = none ∧ t.mem = s.mem ∧
      (∀ k, k ≠ key → AMap.find? (t.core c).icache k = AMap.find? (s.core c).icache k) ∧
      (t.slot c n).pc = pcAdd u.pc len ∧ (t.slot c n).regs = u.regs) ∧
    ∃ t, exec (.pfi g a) s = .next t ∧ t.slot c n = u.goto (pcAdd u.pc len) ∧ t.mem = s.mem ∧ t.reqs = s.reqs) ∧
  -- `pfi` takes no trap, whatever its register holds
  (∀ (s : State) (c n len : Nat) (g : Guard) (a : Reg), s.Runs c n len g [] → (s.slot c n).poisoned a.toNat = true →
    exec (.pfi g a) s = .next (s.setSlot c n ((s.slot c n).goto (pcAdd (s.slot c n).pc len)))) ∧
  (∀ (s : State) (c n : Nat) (l : CodeLine),
    let u := s.slot c n
    u.occupied = true → u.hold = .free → u.notBefore ≤ s.clock → (u.masked = true ∨ (s.stopDue c n = false ∧ s.timerDue c n = false)) →
    State.needsFetch u = true → AMap.find? (s.core c).icache (codeKey ((s.core c).bind u.bind).ctx u.pc) = some l →
    ((∀ m ∈ s.fetchGroup c n, (s.slot c m).pc.toNat % 2 ^ 24 < l.len) → u.pc.toNat % 2 ^ 24 < l.len →
      ∃ t, exec (.instructionFetch c n false) s = .next t ∧ s.SlotsOnly t c (n :: s.fetchGroup c n) ∧
        ∀ m ∈ n :: s.fetchGroup c n, t.slot c m = { s.slot c m with stay := some (u.pc &&& 0xFFFFFF80, l) }) ∧
    ((∀ m ∈ s.fetchGroup c n, m = n) → l.len ≤ u.pc.toNat % 2 ^ 24 →
      exec (.instructionFetch c n false) s =
        .next (s.takeTrap c n { cause := .fetch, acc := 8, val := BitVec.ofNat 64 (u.pc.toNat + 2 ^ 32) })))

/-- R155, R156: `join` makes the slot a member of a team of its bind, creating the team where there is none, and
writes whether it is one; `leave` ends a membership, and a team with its last member. -/
def Obligations.TeamMembership : Prop :=
  ∀ (s : State) (c n len : Nat) (g : Guard) (p : PredNo) (b : OpB), s.Runs c n len g (b.srcs false) →
    let u := s.slot c n
    let k := (u.b32 b).toNat
    let wrote (t : State) (v : Bool) : State := t.setSlot c n ((u.setPred p v).goto (pcAdd u.pc len))
    let withTeam (x : Team) : State := s.onCore c fun y => { y with teams := y.teams.put k x }
    let team := AMap.find? (s.core c).teams k
    (63 < k → exec (.join g p b) s = .next (wrote s false) ∧ exec (.leave g p b) s = .next (wrote s false)) ∧
    (k ≤ 63 → team = none →
      exec (.join g p b) s = .next (wrote (withTeam { bind := u.bind, members := [n], phase := none }) true) ∧
      exec (.leave g p b) s = .next (wrote s false)) ∧
    (∀ x, k ≤ 63 → team = some x → x.bind ≠ u.bind → exec (.join g p b) s = .next (wrote s false)) ∧
    (∀ x, k ≤ 63 → team = some x → x.bind = u.bind →
      exec (.join g p b) s = .next (
        if n ∈ x.members then wrote s true else wrote (withTeam { x with members := x.members ++ [n] }) true)) ∧
    (∀ x, k ≤ 63 → team = some x → n ∉ x.members → exec (.leave g p b) s = .next (wrote s false)) ∧
    (∀ x, k ≤ 63 → team = some x → n ∈ x.members → x.phase = none →
      exec (.leave g p b) s = .next (wrote (
        if (x.members.filter fun m => m != n) = [] then s.onCore c fun y => { y with teams := y.teams.del k }
        else withTeam { x with members := x.members.filter fun m => m != n }) true))

/-- R157 to R160: a lane that is no member goes on, its `tbar` with false; the first member to arrive at each waits in the
instruction; a member alone completes at once; and the second of two members completes the phase for both: `tbar`
tells whether the masks named members alone, `tred` gives both the combination in ascending slot number, `tbcast` the
value of the slot that each selects. Where it rests on the model's own choices, these are log entry 39. -/
def Obligations.Collectives : Prop :=
  (∀ (s : State) (c n len : Nat) (g : Guard) (p : PredNo) (op : TredOp) (d a e : Reg) (b : OpB),
    s.Runs c n len g (a.toNat :: e.toNat :: b.srcs false) →
    let u := s.slot c n
    let k := (u.b32 b).toNat
    (63 < k ∨ ∀ x, AMap.find? (s.core c).teams k = some x → n ∉ x.members) →
    exec (.tbar g p a b) s = .next (s.setSlot c n ((u.setPred p false).goto (pcAdd u.pc len))) ∧
    exec (.tbcast g d a b e) s = .next (s.setSlot c n (u.goto (pcAdd u.pc len))) ∧
    ((∀ r ∈ regsOf true a, u.poisoned r = false) →
      exec (.tred g op d a b) s = .next (s.setSlot c n (u.goto (pcAdd u.pc len))))) ∧
  (∀ (s : State) (c n len m : Nat) (g : Guard) (p : PredNo) (a : Reg) (b : OpB) (x : Team),
    s.Runs c n len g (a.toNat :: b.srcs false) →
    let u := s.slot c n
    let k := (u.b32 b).toNat
    let mask := u.reg a.toNat
    k ≤ 63 → AMap.find? (s.core c).teams k = some x → n ∈ x.members → x.phase = none → mask.getLsbD (n % 32) = true →
    m ∈ x.members → m ≠ n → (m / 32 = n / 32 → mask.getLsbD (m % 32) = true) →
    ∃ t q, exec (.tbar g p a b) s = .next t ∧ t.slot c n = { u with hold := .team k } ∧ t.mem = s.mem ∧
      AMap.find? (t.core c).teams k = some { x with phase := some q } ∧ q.throughout = x.members ∧
      q.masks = [(n / 32, mask)] ∧
      q.expected = x.members.filter fun j => !(j / 32 == n / 32 && !mask.getLsbD (j % 32))) ∧
  (∀ (s : State) (c n len m : Nat) (g : Guard) (op : TredOp) (d a e : Reg) (b : OpB) (x : Team),
    s.Runs c n len g (a.toNat :: (a.toNat + 1) :: e.toNat :: b.srcs false) →
    let u := s.slot c n
    let k := (u.b32 b).toNat
    k ≤ 63 → AMap.find? (s.core c).teams k = some x → n ∈ x.members → x.phase = none → m ∈ x.members → m ≠ n →
    let waits (i : Instr) (v : W64) (sel : Nat) : Prop := ∃ t q, exec i s = .next t ∧ t.slot c n = { u with hold := .team k } ∧
      t.mem = s.mem ∧ AMap.find? (t.core c).teams k = some { x with phase := some q } ∧ q.throughout = x.members ∧
      q.expected = x.members ∧ q.arrived = [{ slot := n, same := true, inst := i, value := v, sel := sel, len := len }]
    waits (.tred g op d a b) (if op.cnt = 2 then u.pair a.toNat else (u.reg a.toNat).setWidth 64) 0 ∧
    waits (.tbcast g d a b e) ((u.reg a.toNat).setWidth 64) ((u.reg e.toNat).toNat % 2048)) ∧
  (∀ (s : State) (c n len : Nat) (g : Guard) (p : PredNo) (op : TredOp) (d a e : Reg) (b : OpB) (x : Team),
    s.Runs c n len g (a.toNat :: (a.toNat + 1) :: e.toNat :: b.srcs false) →
    let u := s.slot c n
    let k := (u.b32 b).toNat
    k ≤ 63 → n < 2048 → AMap.find? (s.core c).teams k = some x → x.members = [n] → x.phase = none →
    let done (v : Slot) : Slot := { v.goto (pcAdd u.pc len) with hold := .free, notBefore := s.clock + 1 }
    ((u.reg a.toNat).getLsbD (n % 32) = true → ∃ t, exec (.tbar g p a b) s = .next t ∧ t.mem = s.mem ∧
      t.slot c n = done (u.setPred p (u.reg a.toNat == (1#32) <<< (n % 32))) ∧ AMap.find? (t.core c).teams k = some x) ∧
    ((u.reg a.toNat).getLsbD (n % 32) = false →
      exec (.tbar g p a b) s = .next (s.setSlot c n (u.goto (pcAdd u.pc len)))) ∧
    (∃ t, exec (.tred g op d a b) s = .next t ∧ t.mem = s.mem ∧ AMap.find? (t.core c).teams k = some x ∧
      t.slot c n = done (if op.cnt = 2 then u.setPair d.toNat (u.pair a.toNat) else u.setReg d.toNat (u.reg a.toNat))) ∧
    ∃ t, exec (.tbcast g d a b e) s = .next t ∧ t.mem = s.mem ∧ AMap.find? (t.core c).teams k = some x ∧
      t.slot c n = done (u.setReg d.toNat (u.reg a.toNat))) ∧
  (∀ (s : State) (c n m len lm bd : Nat) (g gm : Guard) (op : TredOp) (d a dm am : Reg) (b bm : OpB) (vm : W64),
    s.Runs c n len g (a.toNat :: (a.toNat + 1) :: b.srcs false) →
    let u := s.slot c n
    let w := s.slot c m
    let k := (u.b32 b).toNat
    let v : W64 := if op.cnt = 2 then u.pair a.toNat else (u.reg a.toNat).setWidth 64
    let total : W64 := if m < n then op.combine vm v else op.combine v vm
    let put (x : Slot) (r l : Nat) : Slot :=
      { (if op.cnt = 2 then x.setPair r total else x.setReg r (total.setWidth 32)).goto (pcAdd x.pc l) with
        hold := .free, notBefore := s.clock + 1 }
    k ≤ 63 → n < 2048 → m < 2048 → m ≠ n →
    AMap.find? (s.core c).teams k = some { bind := bd, members := [m, n], phase := some {
      key := phaseKey (.tred g op d a b), throughout := [m, n], expected := [m, n], masks := [(m / 32, -1)],
      arrived := [{ slot := m, same := true, inst := .tred gm op dm am bm, value := vm, sel := 0, len := lm }] } } →
    ∃ t, exec (.tred g op d a b) s = .next t ∧ t.mem = s.mem ∧ t.slot c n = put u d.toNat len ∧
      t.slot c m = put w dm.toNat lm ∧
      AMap.find? (t.core c).teams k = some { bind := bd, members := [m, n], phase := none }) ∧
  (∀ (s : State) (c n m len lm bd sel : Nat) (g gm : Guard) (d a e dm am em : Reg) (b bm : OpB) (vm : W64),
    s.Runs c n len g (a.toNat :: e.toNat :: b.srcs false) →
    let u := s.slot c n
    let w := s.slot c m
    let k := (u.b32 b).toNat
    -- the value of the participant that a slot selects, else its own
    let pick (j : Nat) (own : W32) : W32 := if j = m then vm.setWidth 32 else if j = n then u.reg a.toNat else own
    let put (x : Slot) (r l : Nat) (v : W32) : Slot :=
      { (x.setReg r v).goto (pcAdd x.pc l) with hold := .free, notBefore := s.clock + 1 }
    k ≤ 63 → m ≠ n →
    AMap.find? (s.core c).teams k = some { bind := bd, members := [m, n], phase := some {
      key := phaseKey (.tbcast g d a b e), throughout := [m, n], expected := [m, n], masks := [(m / 32, -1)],
      arrived := [{ slot := m, same := true, inst := .tbcast gm dm am bm em, value := vm, sel := sel, len := lm }] } } →
    ∃ t, exec (.tbcast g d a b e) s = .next t ∧ t.mem = s.mem ∧
      t.slot c n = put u d.toNat len (pick ((u.reg e.toNat).toNat % 2048) (u.reg a.toNat)) ∧
      t.slot c m = put w dm.toNat lm (pick sel (vm.setWidth 32)) ∧
      AMap.find? (t.core c).teams k = some { bind := bd, members := [m, n], phase := none }) ∧
  (∀ (s : State) (c n m len lm bd : Nat) (g gm : Guard) (p pm : PredNo) (a am : Reg) (b bm : OpB) (mm : W32),
    s.Runs c n len g (a.toNat :: b.srcs false) →
    let u := s.slot c n
    let w := s.slot c m
    let k := (u.b32 b).toNat
    let mask := u.reg a.toNat
    let whole : Bool := decide (∀ j, j < 32 → (mask.getLsbD j = true → 32 * (n / 32) + j ∈ [m, n]) ∧
      (mm.getLsbD j = true → 32 * (m / 32) + j ∈ [m, n]))
    let done (x : Slot) (q : PredNo) (l : Nat) : Slot :=
      { (x.setPred q whole).goto (pcAdd x.pc l) with hold := .free, notBefore := s.clock + 1 }
    k ≤ 63 → m / 32 ≠ n / 32 → mask.getLsbD (n % 32) = true →
    AMap.find? (s.core c).teams k = some { bind := bd, members := [m, n], phase := some {
      key := phaseKey (.tbar g p a b), throughout := [m, n], expected := [m, n], masks := [(m / 32, mm)],
      arrived := [{ slot := m, same := true, inst := .tbar gm pm am bm, value := 0, sel := 0, len := lm }] } } →
    ∃ t, exec (.tbar g p a b) s = .next t ∧ t.mem = s.mem ∧ t.slot c n = done u p len ∧ t.slot c m = done w pm lm)

/-- R163, R165 to R171: what each cross-lane instruction writes in the lanes of its width unit whose guard holds.
Where it rests on the model's own choices, these are log entries 13 and 61. -/
def Obligations.CrossLane : Prop :=
  let past (s : State) (u : Slot) : Slot := u.goto (pcAdd u.pc s.bundle.len)
  (∀ g a p, LaneWiseAt (.vote g (.any p) a) g [] fun s c _ u =>
    past s (u.setPred p ((s.active g).any fun m => (s.slot c m).pred a))) ∧
  (∀ g a p, LaneWiseAt (.vote g (.all p) a) g [] fun s c _ u =>
    past s (u.setPred p ((s.active g).all fun m => (s.slot c m).pred a))) ∧
  (∀ g a p, LaneWiseAt (.vote g (.eq p) a) g [] fun s c _ u =>
    past s (u.setPred p ((s.active g).all fun m => (s.active g).all fun k => (s.slot c m).pred a == (s.slot c k).pred a))) ∧
  (∀ g a d, ∃ f : State → Nat → W64,
    (∀ s n j, j < 64 → (f s n).getLsbD j =
      (s.active g).any fun m => unitLaneOf s.bundleWidth m == j && (s.slot s.bundle.core m).pred a) ∧
    LaneWiseAt (.vote g (.ball d) a) g [] fun s _ n u => past s (u.setMask s.bundleWidth d (f s n))) ∧
  (∀ g t d a, ∃ f : State → Nat → W64,
    (∀ s n j, j < 64 → n ∈ s.active g → (f s n).getLsbD j =
      (s.active g).any fun m => unitLaneOf s.bundleWidth m == j && (m == n ||
        let x := (s.slot s.bundle.core m).reg a.toNat
        let y := (s.slot s.bundle.core n).reg a.toNat
        match t with
        | .b32 => x == y
        | .fp32 => fp32.decode x.toNat != .nan && fp32.decode y.toNat != .nan && (fp32.decode x.toNat).eq (fp32.decode y.toNat))) ∧
    LaneWiseAt (.matchLanes g t d a) g [a.toNat] fun s _ n u => past s (u.setMask s.bundleWidth d (f s n))) ∧
  (∀ g d a, ∃ f : State → Nat → W64,
    (∀ s n j, j < 64 → (f s n).getLsbD j =
      (s.active g).any fun m => unitLaneOf s.bundleWidth m == j && decide (m < n) &&
        (s.slot s.bundle.core m).reg a.toNat == (s.slot s.bundle.core n).reg a.toNat) ∧
    LaneWiseAt (.confl g d a) g [a.toNat] fun s _ n u => past s (u.setMask s.bundleWidth d (f s n))) ∧
  (∀ g op d a, LaneWiseAt (.cred g op d a) g [a.toNat] fun s c _ u =>
    past s (u.setReg d.toNat (match (s.active g).map fun m => (s.slot c m).reg a.toNat with
      | [] => 0
      | x :: l => l.foldl op.combine x))) ∧
  (∀ g op excl d a, LaneWiseAt (.cscan g op excl d a) g [a.toNat] fun s c n u =>
    past s (u.setReg d.toNat (
      match ((s.active g).filter fun m => decide (m < n) || (!excl && m == n)).map fun m => (s.slot c m).reg a.toNat with
      | [] => op.identity
      | x :: l => l.foldl op.combine x))) ∧
  (∀ g p, LaneWiseAt (.elect g p) g [] fun s _ n u => past s (u.setPred p ((s.active g).head? == some n))) ∧
  (∀ (g : Guard) (mode : ShflMode) (d a : Reg) (b : OpB) (p : PredNo) (s : State), s.bundle.slots.Nodup →
    s.CleanFor g (a.toNat :: b.srcs false) → (∀ m, (s.slot s.bundle.core m).poisoned a.toNat = false) →
    let c := s.bundle.core
    let w := s.bundleWidth
    let size := if w = 1 then 16 else if w = 3 then 64 else 32
    ∃ t, exec (.shfl g mode d a b p) s = .next t ∧ s.SlotsOnly t c s.bundle.slots ∧ ∀ n ∈ s.bundle.slots,
      let u := s.slot c n
      let l := unitLaneOf w n
      let k := (u.b32 b).toNat
      let j : Int := match mode with
        | .idx => k
        | .up => (l : Int) - k
        | .down => l + k
        | .xor => (l ^^^ k : Nat)
      let inside : Bool := decide (0 ≤ j) && decide (j < size)
      t.slot c n = if u.guard g then past s (((u.setReg d.toNat
          ((s.slot c (if inside then n - l + j.toNat else n)).reg a.toNat)).setPred p inside))
        else past s u)

/-! Line registers, loads and stores, homes. -/

/-- R54 to R58, R61, R130 to R133: the loads and stores, in every form and size, through frame and scratch ways; `lde` writes
the decoded element, and `ste` stores the encoded one: under the raw tag bits are copied; an LNS code has its table's value, a
block-scaled element its block's scale; `ste` takes the block's scale or, where that is not valid, writes it as 127, and a
sparse position that is not stored reads 0 and is not written. Where it rests on the model's own choices, these are log entries
51 and 84. -/
def Obligations.LoadsAndStores : Prop :=
  ((∀ g sz d la b off, LoadsLine (.ld g sz d la b off) g sz.bytes d la b off.toNat) ∧
    (∀ d la b, LoadsLine (.ldBC d la b) .always 1 d la b 0) ∧ (∀ d la b, LoadsLine (.ldHC d la b) .always 2 d la b 0) ∧
    (∀ d la b, LoadsLine (.ldWC d la b) .always 4 d la b 0) ∧ (∀ d la b, LoadsLine (.ldDC d la b) .always 8 d la b 0) ∧
    (∀ g sz la b d off, StoresLine (.st g sz la b d off) g sz.bytes la b d off.toNat) ∧
    (∀ la b d, StoresLine (.stBC la b d) .always 1 la b d 0) ∧ (∀ la b d, StoresLine (.stHC la b d) .always 2 la b d 0) ∧
    (∀ la b d, StoresLine (.stWC la b d) .always 4 la b d 0) ∧ (∀ la b d, StoresLine (.stDC la b d) .always 8 la b d 0)) ∧
  ((∀ (s : State) (c m len k : Nat) (w : Way) (g : Guard) (ty : ElTy) (d b : Reg) (la : LineOp) (off : BitVec 7),
      s.Runs c m len g [b.toNat] → s.useWay c m la 2 = .ok k w → w.rd = true → w.kind ≠ .home → w.sum = false →
      let u := s.slot c m
      let img := s.lineImage c w
      let e := ((u.reg b.toNat).toNat + off.toNat) % elemCount w.fmt ty
      img.2.1 &&& elemTouch img.1 w.fmt ty e = 0 →
      exec (.lde g ty d la b off) s = .next { (s.setSlot c m ((u.setReg d.toNat (ldeWord img.1 0 w.fmt ty e).1).goto
        (pcAdd u.pc len))) with nextId := s.nextId + 1 }) ∧
    (∀ (s : State) (c m len k f : Nat) (w : Way) (x : Frame) (g : Guard) (ty : ElTy) (b d : Reg) (la : LineOp) (off : BitVec 7),
      s.Runs c m len g [b.toNat, d.toNat] → s.useWay c m la 3 = .ok k w → w.wr = true → w.sum = false → w.kind = .frame f →
      AMap.find? (s.core c).frames f = some x → x.kind ≠ .sum →
      let u := s.slot c m
      let st := steLine x.view x.valid w.fmt ty (((u.reg b.toNat).toNat + off.toNat) % elemCount w.fmt ty) (u.reg d.toNat)
      ∃ t, exec (.ste g ty la b d off) s = .next t ∧ t.mem = s.mem ∧ t.slot c m = u.goto (pcAdd u.pc len) ∧
        AMap.find? (t.core c).frames f = some { x with
          data := x.data.merge st.2 st.1, valid := x.valid ||| st.2, dirty := x.dirty ||| st.2, poison := x.poison &&& ~~~st.2 }) ∧
    (∀ (s : State) (c m len k : Nat) (w : Way) (g : Guard) (ty : ElTy) (b d : Reg) (la : LineOp) (off : BitVec 7),
      s.Runs c m len g [b.toNat, d.toNat] → s.useWay c m la 3 = .ok k w → w.wr = true → w.sum = false → w.kind = .scratch →
      let u := s.slot c m
      let old := (s.lineImage c w).1
      let st := steLine old (-1) w.fmt ty (((u.reg b.toNat).toNat + off.toNat) % elemCount w.fmt ty) (u.reg d.toNat)
      ∃ t, exec (.ste g ty la b d off) s = .next t ∧ t.mem = s.mem ∧ t.slot c m = u.goto (pcAdd u.pc len) ∧
        ∀ j, j < 128 → (t.lineImage c w).1.byte j = if st.2.extractLsb' (2 * j) 2 = 0 then old.byte j else st.1.byte j)) ∧
  -- the word that `lde` writes, and the line and the nibbles that `ste` writes
  (∀ (l : Line) (ty : ElTy) (i : Nat),
    let n := if ty = .fp32 ∨ ty = .i32 then 4 else 2
    (ldeWord l 0 0 ty i).1 = BitVec.ofNat 32 (l.read (n * i) n) ∧
    ∀ (valid : Nibbles) (v : W32), steLine l valid 0 ty i v = (l.write (n * i) n v.toNat, nibbleMask (n * i) n)) ∧
  (∀ (l : Line) (valid : Nibbles) (fmt : BitVec 4) (ty : ElTy) (i : Nat) (v : W32), 0 < fmt.toNat → fmt.toNat ≤ 8 →
    i < elementCount fmt.toNat →
    let word (x : Exact) : W32 := match ty with
      | .fp32 => BitVec.ofNat 32 (x.round fp32 .rne)
      | .fp16 => BitVec.ofNat 32 (x.round fp16 .rne)
      | .bf16 => BitVec.ofNat 32 (x.round bf16 .rne)
      | .i32 => BitVec.ofInt 32 (x.toInt .rne (-2 ^ 31) (2 ^ 31 - 1))
    let given : Exact := match ty with
      | .fp32 => fp32.decode v.toNat
      | .fp16 => fp16.decode (v.toNat % 65536)
      | .bf16 => bf16.decode (v.toNat % 65536)
      | .i32 => .val (decide (v.toInt < 0)) ⟨v.toInt, 0⟩
    let scaled : Prop := fmt.toNat ∈ [1, 2, 4, 5, 6]
    -- stored element n of the line is element i
    let stored (n : Nat) : Prop := if fmt = 2 then storedPos l n = some i else n = i
    let r := steLine l valid fmt ty i v
    (∀ n, stored n →
      let c := elementCode fmt.toNat l n
      let lns (big : Nat) (m : Nat) : Int := (if c / big % 2 = 1 then -1 else 1) * (if c % big = 0 then 0 else (m : Int))
      let code : Exact := match fmt.toNat with
        | 1 => .val (decide (c / 32 % 2 = 1)) ⟨lns 32 ([2048, 2435, 2896, 3444].getD (c % 4) 0), (c % 32 / 4 : Nat) - 15⟩
        | 2 => .val (decide (c / 32 % 2 = 1)) ⟨lns 32 ([2048, 2435, 2896, 3444].getD (c % 4) 0), (c % 32 / 4 : Nat) - 15⟩
        | 3 => .val (decide (c / 2048 % 2 = 1)) ⟨lns 2048 (t12 (c % 32)), (c % 2048 / 32 : Nat) - 47⟩
        | 4 => fp4.finite c
        | 5 => decodeE4 c
        | 6 => fp8e5.decode c
        | 7 => bf16.decode c
        | _ => fp16.decode c
      let e := (l.byte (n / 16)).toNat
      let known : Prop := valid.getLsbD (2 * (n / 16)) = true ∧ valid.getLsbD (2 * (n / 16) + 1) = true
      let used := if known then e else 127
      let place := elementBits fmt.toNat n
      (scaled → (ldeWord l 0 fmt ty i).1 = word (if e = 255 then .nan else code.scale2 ((e : Int) - 127))) ∧
      (¬ scaled → (ldeWord l 0 fmt ty i).1 = word code) ∧
      (scaled → (r.1.byte (n / 16)).toNat = used ∧ elementCode fmt.toNat r.1 n =
        if used = 255 then 0 else valueCode fmt.toNat (given.scale2 (127 - (used : Int)))) ∧
      (¬ scaled → elementCode fmt.toNat r.1 n = valueCode fmt.toNat given) ∧
      (∀ b, (b < place.1 ∨ place.1 + place.2 ≤ b) → ((¬ scaled ∨ known) ∨ b / 8 ≠ n / 16) → r.1.getLsbD b = l.getLsbD b) ∧
      ∀ k, r.2.getLsbD k = true ↔
        (place.1 ≤ 4 * k + 3 ∧ 4 * k < place.1 + place.2) ∨ (scaled ∧ ¬ known ∧ k / 2 = n / 16)) ∧
    ((∀ n, ¬ stored n) → (ldeWord l 0 fmt ty i).1 = word (.val false ⟨0, 0⟩) ∧ r = (l, 0)))

/-- R28, R131, R143: an access through a home way counts in H, steps past, and leaves a request for its home that
carries the lane, its offset, its data and the instruction: the X forms, and the C forms, whose offset is 0. To the host it
names the byte, for DCL has access sizes (R256), a `ste` the first byte of its element. That each lane has a request of its own,
that an `lde`, and an `ld` that wraps in its line, reads the line whole, and that a store that wraps goes in aligned runs, is the
model's reading, log entry 52. -/
def Obligations.HomeAccessRequests : Prop :=
  let sends (s : State) (c m len : Nat) (w : Way) (i : Instr) (returns : Bool) (off : Nat) (kind : ReqKind) : Prop :=
    let u := s.slot c m
    ∃ t r, exec i s = .next t ∧ t.mem = s.mem ∧ t.slot c m = (u.enter .h s.nextId returns).goto (pcAdd u.pc len) ∧ r ∈ t.reqs ∧
      r.kind = kind ∧ r.dest = w.dest ∧ r.pa = lineAddr w.pa + (if w.dest = .host then off else 0) ∧ r.core = c ∧
      r.lanes = [m] ∧ r.ops = [(m, .h, s.nextId)]
  -- a load of `n` bytes names its byte, or the line in which it wraps
  let loadAt (n o : Nat) : Nat := if o % 128 + n ≤ 128 then o % 128 else 0
  -- a store of `n` bytes that wraps in a line of the host: its runs, each with its own bytes
  let stores (s : State) (c m len : Nat) (w : Way) (i : Instr) (n o : Nat) (data : List W32) : Prop :=
    let u := s.slot c m
    let byte (l : List W32) (j : Nat) : Nat := (l.getD (j / 4) 0).toNat / 256 ^ (j % 4) % 256
    if w.dest = .host ∧ 128 < o % 128 + n then
      ∃ t, exec i s = .next t ∧ t.mem = s.mem ∧ t.slot c m = (u.enter .h s.nextId false).goto (pcAdd u.pc len) ∧
        ∀ p ∈ State.hostPieces (nibbleMask (o % 128) n), ∃ r ∈ t.reqs, ∃ k ws, r.kind = .write [(m, w.fmt, p.1, ws)] k ∧
          accessOf k = .bytes p.2 0 ∧ (∀ j, j < p.2 → byte ws j = byte data ((p.1 + j + 128 - o % 128) % 128)) ∧
          r.dest = .host ∧ r.pa = lineAddr w.pa + p.1 ∧ r.core = c ∧ r.lanes = [m] ∧ r.ops = [(m, .h, s.nextId)]
    else sends s c m len w i false (o % 128) (.write [(m, w.fmt, o, data)] i)
  (∀ (s : State) (c m len k : Nat) (w : Way) (g : Guard) (d b : Reg) (la : LineOp) (off : BitVec 7) (sz : Size) (ty : ElTy),
    s.Runs c m len g [b.toNat] → s.useWay c m la 2 = .ok k w → w.rd = true → (w.kind = .home ∨ w.sum = true) →
    let o := ((s.slot c m).reg b.toNat).toNat + off.toNat
    let sent (i : Instr) (at_ : Nat) : Prop := sends s c m len w i true at_ (.read [(m, w.fmt, o)] i w.sum)
    sent (.ld g sz d la b off) (loadAt sz.bytes o) ∧ sent (.lde g ty d la b off) 0) ∧
  (∀ (s : State) (c m len k : Nat) (w : Way) (d b : Reg) (la : LineOp),
    s.Runs c m len .always [b.toNat] → s.useWay c m la 2 = .ok k w → w.rd = true → (w.kind = .home ∨ w.sum = true) →
    ∀ x ∈ [(Instr.ldBC d la b, 1), (.ldHC d la b, 2), (.ldWC d la b, 4), (.ldDC d la b, 8)],
      let o := ((s.slot c m).reg b.toNat).toNat
      sends s c m len w x.1 true (loadAt x.2 o) (.read [(m, w.fmt, o)] x.1 w.sum)) ∧
  (∀ (s : State) (c m len k : Nat) (w : Way) (g : Guard) (d b : Reg) (la : LineOp) (off : BitVec 7) (sz : Size) (ty : ElTy),
    s.Runs c m len g (b.toNat :: regRun d 4) → s.useWay c m la 3 = .ok k w → w.wr = true → w.kind = .home → w.sum = false →
    let u := s.slot c m
    let o := (u.reg b.toNat).toNat + off.toNat
    let ste : Instr := .ste g ty la b d off
    stores s c m len w (.st g sz la b d off) sz.bytes o ((regRun d ((sz.bytes + 3) / 4)).map u.reg) ∧
    sends s c m len w ste false (hostElem w.fmt ty o).1 (.write [(m, w.fmt, o, [u.reg d.toNat])] ste)) ∧
  (∀ (fmt : BitVec 4) (ty : ElTy) (raw : Nat), fmt ≠ 2 →
    let i := raw % elemCount fmt ty
    let b : Nat × Nat := if fmt ≠ 0 then elementBits fmt.toNat i else if ty = .fp32 ∨ ty = .i32 then (32 * i, 32) else (16 * i, 16)
    hostElem fmt ty raw = (b.1 / 8, (b.1 + b.2 - 1) / 8 - b.1 / 8 + 1)) ∧
  (∀ (s : State) (c m len k : Nat) (w : Way) (d b : Reg) (la : LineOp),
    s.Runs c m len .always (b.toNat :: regRun d 2) → s.useWay c m la 3 = .ok k w → w.wr = true → w.kind = .home → w.sum = false →
    let u := s.slot c m
    let sent (i : Instr) (n : Nat) (data : List W32) : Prop := stores s c m len w i n (u.reg b.toNat).toNat data
    sent (.stBC la b d) 1 [u.reg d.toNat] ∧ sent (.stHC la b d) 2 [u.reg d.toNat] ∧ sent (.stWC la b d) 4 [u.reg d.toNat] ∧
    sent (.stDC la b d) 8 [u.reg d.toNat, u.reg (d.toNat + 1)])

/-- R35, R131, R279, R280, R300: a use of a closed register or empty way is LINE_CLOSED, of a stale way STACK_MOVED; a load
through a way without `r`, and a store through one without `w`, is a PERMISSION fault at the first byte of the access, a
store through a `sum` way a CLASS_FAULT, and all of these come before POISON of a register. Where it rests on the model's
own choices, these are log entries 46, 68. -/
def Obligations.AccessFaults : Prop :=
  (∀ (s : State) (c n acc : Nat) (la : LineOp),
    let r := (s.core c).lreg (n / 32) la.reg.toNat
    let k : Option Nat := match la.way with
      | some w => some w.toNat
      | none => (AMap.find? r.tags (n % 32)).map fun v => v.toNat
    s.useWay c n la acc = match k with
      | none => .trap { cause := .lineClosed, acc := acc, val := BitVec.ofNat 64 la.reg.toNat }
      | some j =>
        if (r.ways.get .empty j).kind = .empty then
          .trap { cause := .lineClosed, acc := acc, val := BitVec.ofNat 64 (la.reg.toNat + 16 * j) }
        else if (r.ways.get .empty j).kind = .stale then
          .trap { cause := .stackMoved, acc := acc, val := BitVec.ofNat 64 (la.reg.toNat + 16 * j) }
        else .ok j (r.ways.get .empty j)) ∧
  (∀ (s : State) (c m len : Nat) (g : Guard) (d b : Reg) (la : LineOp) (off : BitVec 7) (sz : Size) (e : Trap),
    s.Runs c m len g [] →
    (s.useWay c m la 2 = .trap e → exec (.ld g sz d la b off) s = .next { (s.takeTrap c m e) with nextId := s.nextId + 1 }) ∧
    (s.useWay c m la 3 = .trap e → exec (.st g sz la b d off) s = .next { (s.takeTrap c m e) with nextId := s.nextId + 1 })) ∧
  (∀ (s : State) (c m len k : Nat) (w : Way) (g : Guard) (d b : Reg) (la : LineOp) (off : BitVec 7) (sz : Size),
    s.Runs c m len g [] →
    let o := ((s.slot c m).reg b.toNat).toNat + off.toNat
    let trap (e : Trap) : Host.Outcome State Fault Refusal := .next { (s.takeTrap c m e) with nextId := s.nextId + 1 }
    let fault (cause : Cause) (acc : Nat) : Host.Outcome State Fault Refusal :=
      trap { cause := cause, acc := acc, val := BitVec.ofNat 64 (w.va + o % 128) }
    -- a poisoned register, behind the state of the way and its rights
    let poisoned : Host.Outcome State Fault Refusal := trap { cause := .poison, acc := 9, val := BitVec.ofNat 64 b.toNat }
    (s.useWay c m la 2 = .ok k w → (w.rd = false → exec (.ld g sz d la b off) s = fault .permission 2) ∧
      (w.rd = true → (s.slot c m).poisoned b.toNat = true → exec (.ld g sz d la b off) s = poisoned)) ∧
    (s.useWay c m la 3 = .ok k w → (w.wr = false → exec (.st g sz la b d off) s = fault .permission 3) ∧
      (w.wr = true → w.sum = true → exec (.st g sz la b d off) s = fault .classFault 3) ∧
      (w.wr = true → w.sum = false → (s.slot c m).poisoned b.toNat = true → exec (.st g sz la b d off) s = poisoned)))

/-- R137 to R140, R189: `atom`, `red` and `sig` at issue. Through a home way the access counts, steps past, and its
request stands in the load-store unit; in place, the slot stands at the instruction; the unit is busy for one cycle
per lane. At the end of its cycles the request leaves, or the lane executes: the word takes the operation's value,
`atom` returns the old one; a `sum` way's partial takes the lanes' operands one after the other. The operations are add
(mod 2^w, or FP32 rounded to nearest even), signed or natural min and max, and, or, xor, exch, and cas, which compares
patterns. Where it rests on the
model's own choices, these are log entries 8 and 57. -/
def Obligations.LoadStoreUnit : Prop :=
  (∀ (s : State) (c m len k : Nat) (w : Way) (i : Instr),
    ((∃ g op d la b e, i = .atom g op d la b e) ∨ (∃ g op la b d, i = .red g op la b d) ∨ ∃ g t la b d, i = .sig g t la b d) →
    let sp := State.unitSpec i
    let u := s.slot c m
    s.Runs c m len sp.g sp.srcs → s.useWay c m sp.la sp.acc = .ok k w → State.unitFault i w = none →
    let off := wordOff (u.reg sp.b.toNat) sp.bytes
    let args := State.unitArgs u i
    (w.kind = .home → ∃ t r, exec i s = .next t ∧ t.mem = s.mem ∧
      t.slot c m = (u.enter sp.cls s.nextId sp.returns).goto (pcAdd u.pc len) ∧ r ∈ t.reqs ∧ r.stage = .unit ∧
      r.kind = State.unitKind i sp.bytes [(off, [(m, args)])] ∧ r.dest = w.dest ∧
      r.pa = lineAddr w.pa + (if w.dest = .host then off else 0) ∧ r.ops = [(m, sp.cls, s.nextId)] ∧
      (t.core c).lsuBusy.get 0 s.bundle.quad = s.clock + 1) ∧
    (w.kind ≠ .home → s.wordBad c w off sp.bytes = none → ∃ t, exec i s = .next t ∧ t.mem = s.mem ∧ t.reqs = s.reqs ∧
      t.slot c m = { u with hold := .lsu s.nextId } ∧
      (t.core c).lsu = (s.core c).lsu ++ [{ id := s.nextId, quad := s.bundle.quad, till := s.clock + 1, inst := i, args := [(m, w, off, args)],
                                            reqs := [], pcLen := len }] ∧
      (t.core c).lsuBusy.get 0 s.bundle.quad = s.clock + 1)) ∧
  (∀ (s : State) (c q m off k len : Nat) (o : LsuOp) (w : Way) (a b : W64), s.unitDue c q = some o →
    s.issueDone c = true → s.coreDue c = false → o.reqs = [] → o.args = [(m, w, off, a, b)] → o.pcLen = len →
    (s.slot c m).hold = .lsu o.id → s.useWay c m (State.unitSpec o.inst).la (State.unitSpec o.inst).acc = .ok k w →
    (w.kind = .scratch ∨ ∃ f x, w.kind = .frame f ∧ AMap.find? (s.core c).frames f = some x) → off < 128 →
    s.wordBad c w off (State.unitSpec o.inst).bytes = none →
    let n := (State.unitSpec o.inst).bytes
    let u := s.slot c m
    let old : W64 := BitVec.ofNat 64 ((s.lineImage c w).1.read off n)
    let past (v : Slot) : Slot := { v.goto (pcAdd u.pc len) with hold := .free }
    (∀ g op d la e f, o.inst = .atom g op d la e f → ∃ t, exec (.combinedRequestLeaves c q) s = .next t ∧ t.mem = s.mem ∧
      (t.lineImage c w).1.read off n = (op.apply old a b).toNat % 256 ^ n ∧
      t.slot c m = past (if n = 8 then u.setPair d.toNat old else u.setReg d.toNat (old.setWidth 32))) ∧
    (∀ g op la e d, o.inst = .red g op la e d → ∃ t, exec (.combinedRequestLeaves c q) s = .next t ∧ t.mem = s.mem ∧
      (t.lineImage c w).1.read off n = (op.combine old a).toNat % 256 ^ n ∧ t.slot c m = past u)) ∧
  (∀ (s : State) (c q m j f off k kj : Nat) (x : Frame) (o : LsuOp) (w : Way) (g : Guard) (la : LineOp) (e d : Reg) (a b a2 b2 : W64),
    s.unitDue c q = some o → s.issueDone c = true → s.coreDue c = false → o.inst = .red g (.arith .add .fp32) la e d → o.reqs = [] →
    m ≠ j → o.args = [(m, w, off, a, b), (j, w, off, a2, b2)] → (s.slot c m).hold = .lsu o.id → (s.slot c j).hold = .lsu o.id →
    s.useWay c m la 5 = .ok k w → s.useWay c j la 5 = .ok kj w → w.sum = true → w.kind = .frame f →
    AMap.find? (s.core c).frames f = some x → off < 125 → s.wordBad c w off 4 = none →
    let add (p r : W64) : W64 := RedOp.combine (.arith .add .fp32) p r
    ∃ t, exec (.combinedRequestLeaves c q) s = .next t ∧ t.mem = s.mem ∧
      (t.lineImage c w).1.read off 4 = (add (add (BitVec.ofNat 64 ((s.lineImage c w).1.read off 4)) a) a2).toNat % 2 ^ 32) ∧
  (∀ (s : State) (c q id : Nat) (o : LsuOp) (r : Req), s.unitDue c q = some o → s.issueDone c = true → s.coreDue c = false →
    o.args = [] → o.reqs = [id] → s.req? id = some r → r.core < 192 →
    ∃ t, exec (.combinedRequestLeaves c q) s = .next t ∧ t.mem = s.mem ∧
      (t.core c).lsu = (s.core c).lsu.filter (fun x => x.id != o.id) ∧
      ∃ r1 ∈ t.reqs, r1.id = id ∧ r1.kind = r.kind ∧ r1.ops = r.ops ∧ r1.stage ≠ .unit) ∧
  -- the operations: x is the old word, y the operand, new the second one of `cas`
  (∀ x y new : W64,
    (∀ o, AtomOp.apply (.red o) x y new = o.combine x y) ∧ (∀ t, AtomOp.apply (.exch t) x y new = y) ∧
    (∀ t, AtomOp.apply (.cas t) x y new = if x = y then new else x) ∧
    (∀ t : IntTy,
      let w := if t = .i64 ∨ t = .n64 then 64 else 32
      let a := x.toNat % 2 ^ w
      let b := y.toNat % 2 ^ w
      let num (n : Nat) : Int := if (t = .i32 ∨ t = .i64) ∧ 2 ^ (w - 1) ≤ n then n - 2 ^ w else n
      (RedOp.combine (.arith .add (.int t)) x y).toNat = (a + b) % 2 ^ w ∧
      (RedOp.combine (.arith .min (.int t)) x y).toNat = (if num a ≤ num b then a else b) ∧
      (RedOp.combine (.arith .max (.int t)) x y).toNat = if num a ≤ num b then b else a) ∧
    (∀ (t : BtTy) (k : Nat),
      let inside : Bool := decide (k < if t = .b64 then 64 else 32)
      (RedOp.combine (.bits .and t) x y).getLsbD k = (inside && (x.getLsbD k && y.getLsbD k)) ∧
      (RedOp.combine (.bits .or t) x y).getLsbD k = (inside && (x.getLsbD k || y.getLsbD k)) ∧
      (RedOp.combine (.bits .xor t) x y).getLsbD k = (inside && (x.getLsbD k ^^ y.getLsbD k))) ∧
    let a := x.toNat % 2 ^ 32
    let b := y.toNat % 2 ^ 32
    RedOp.combine (.arith .add .fp32) x y = BitVec.ofNat 64 (((fp32.decode a).add .rne (fp32.decode b)).round fp32 .rne) ∧
    RedOp.combine (.arith .min .fp32) x y = BitVec.ofNat 64 (fminCode fp32 a b) ∧
    RedOp.combine (.arith .max .fp32) x y = BitVec.ofNat 64 (fmaxCode fp32 a b))

/-- R131, R132, R138, R140, R141, R189, R190, R219, R225, R229, R230, R357: a write to a line's nibbles at its home
changes these nibbles alone; and what a slice does with each kind of request that it may perform, on the die of its
source: the reply then carries the value read, the memory the value written; a `sigw` is met, waits, or is "not met". A fold
adds the records of a line's cores in ascending core number. Where it rests on the model's own choices, these are log entries
35 and 84. -/
def Obligations.HomeRequests : Prop :=
  (∀ (s : State) (id : Nat) (r : Req), s.Safe → s.req? id = some r → s.performable r = true →
      r.srcDie = (s.arbiter (stackOf r.pa)).owner →
      let here (result : List (Nat × Nat × W32 × Bool)) : Req := { r with stage := .here, result := result }
      (∀ f, r.kind = .fill f →
        exec (.fillRead id) s = .next (s.setReq (here (State.carry (s.homeLine r.pa) (s.homePoison r.pa))))) ∧
      (∀ mask poison data, r.kind = .writeBack mask poison data →
        ∃ t, exec (.writeBack id) s = .next t ∧ t.mem = (s.homeStore r.pa mask poison data).mem ∧ t.req? id = none ∧
          ∀ b, r.counted = some b → ((t.core r.core).bind b).counter = ((s.core r.core).bind b).counter - 1) ∧
      (∀ m raw inst fmt sum, r.kind = .read [(m, fmt, raw)] inst sum →
        exec (.homeRead id) s = .next (s.setReq (here ((accessLoad (accessOf inst)
          (if sum then s.foldedLine r.pa else s.homeLine r.pa) (s.homePoison r.pa) fmt raw).map fun e => (m, e.1, e.2.1, e.2.2))))) ∧
      (∀ m raw data inst fmt, r.kind = .write [(m, fmt, raw, data)] inst →
        let w := accessStore (accessOf inst) ((s.foldLine r.pa).homeLine r.pa) (-1) fmt raw data
        ∃ t, exec (.homeWrite id) s = .next t ∧ t.mem = ((s.foldLine r.pa).putLine r.pa w.2 0 w.1).mem ∧
          t.req? id = some (here r.result)) ∧
      (∀ off n op inst m a b, r.kind = .atom n op inst [(off, [(m, a, b)])] → (n = 4 ∨ n = 8) → off + n ≤ 128 →
        let x := (s.foldLine r.pa).homeWord (lineAddr r.pa + off) n
        if s.wordPoisoned (lineAddr r.pa + off) n then
          exec (.atomicRequest id) s = .next (s.setReq (here (returnRegs m n (atomDest inst) x true)))
        else ∃ t, exec (.atomicRequest id) s = .next t ∧
          Memory.read t.mem (lineAddr r.pa + off) n = (op.apply x a b).toNat % 256 ^ n ∧
          (∀ k, k < lineAddr r.pa + off ∨ lineAddr r.pa + off + n ≤ k → t.byteAt k = (s.foldLine r.pa).byteAt k) ∧
          t.req? id = some (here (returnRegs m n (atomDest inst) x false))) ∧
      (∀ off n op v, r.kind = .red n op [(off, v)] → (n = 4 ∨ n = 8) → off + n ≤ 128 →
        let x := (s.foldLine r.pa).homeWord (lineAddr r.pa + off) n
        ∃ t, exec (.reductionRequest id) s = .next t ∧ t.req? id = some (here r.result) ∧
          if s.wordPoisoned (lineAddr r.pa + off) n then t.mem = s.mem
          else Memory.read t.mem (lineAddr r.pa + off) n = (op.combine x v).toNat % 256 ^ n ∧
            ∀ k, k < lineAddr r.pa + off ∨ lineAddr r.pa + off + n ≤ k → t.byteAt k = (s.foldLine r.pa).byteAt k) ∧
      (∀ off n v, r.kind = .sig n [(off, v)] → (n = 4 ∨ n = 8) → off + n ≤ 128 →
        let x := (s.foldLine r.pa).homeWord (lineAddr r.pa + off) n
        ∃ t, exec (.sigRequest id) s = .next t ∧ t.req? id = some (here r.result) ∧
          if s.wordPoisoned (lineAddr r.pa + off) n then t.mem = s.mem
          else Memory.read t.mem (lineAddr r.pa + off) n = (x.toNat + v.toNat) % 2 ^ 64 % 256 ^ n ∧
            ∀ k, k < lineAddr r.pa + off ∨ lineAddr r.pa + off + n ≤ k → t.byteAt k = (s.foldLine r.pa).byteAt k) ∧
      (∀ off n m least, r.kind = .sigw off n m least →
        exec (.sigwRead id) s = .next (
          if s.wordPoisoned (lineAddr r.pa + off) n then s.setReq (here [(0, 0, 0, true)])
          else if least.toNat ≤ (s.homeWord (lineAddr r.pa + off) n).toNat then s.setReq { here r.result with ok := true }
          else if (s.reqs.countP fun q => q.stage == .waiter && State.sameSlice q r) < 8192 then
            { s with reqs := (s.reqs.filter fun q => q.id != id) ++ [{ r with stage := .waiter }] }
          else s.setReq { here [] with ok := false })) ∧
      (∀ data, r.kind = .sum data →
        ∃ t, exec (.sumDelivery id) s = .next t ∧ t.req? id = none ∧
          ((∀ q ∈ s.sums, q.line ≠ lineAddr r.pa ∨ q.core ≠ r.core) → (s.sums.length < 8192) → t.mem = s.mem ∧
            t.sums = s.sums ++ [{ line := lineAddr r.pa, core := r.core, data := data }]) ∧
          ((∃ q ∈ s.sums, q.line = lineAddr r.pa ∧ q.core = r.core) → t.mem = s.mem ∧
            t.sums = s.sums.map fun q =>
              if q.line = lineAddr r.pa ∧ q.core = r.core then { q with data := q.data.addWords 32 data } else q))) ∧
  (∀ (s : State) (pa : Nat) (mask poison : Nibbles) (data : Line) (a : Nat), s.Safe →
      let i := a - lineAddr pa
      (s.putLine pa mask poison data).byteAt a =
        (if lineAddr pa ≤ a ∧ i < 128 then
          BitVec.ofNat 8 ((if mask.getLsbD (2 * i) then (data.byte i).toNat % 16 else (s.byteAt a).toNat % 16) +
            16 * (if mask.getLsbD (2 * i + 1) then (data.byte i).toNat / 16 else (s.byteAt a).toNat / 16))
        else s.byteAt a) ∧
      ((s.sums.all fun r => r.line != lineAddr pa) = true →
        (s.homeStore pa mask poison data).mem = (s.putLine pa mask poison data).mem) ∧
      ((s.sums.all fun r => decide (r.core < 192)) = true →
        ((s.homeStore pa mask poison data).sums.all fun r => r.line != lineAddr pa) = true)) ∧
  -- a fold adds the line's records, a core's each, in ascending core number
  (∀ (s : State) (pa : Nat) (recs : List SumRec), (recs.Perm (s.sums.filter fun r => r.line == lineAddr pa)) →
      recs.Pairwise (fun a b => a.core < b.core) → (∀ r ∈ recs, r.core < 192) →
      (∀ i, i < 32 → (s.foldedLine pa).word i = recs.foldl (fun x r => BitVec.ofNat 32
        (((fp32.decode x.toNat).add .rne (fp32.decode (r.data.word i).toNat)).round fp32 .rne)) ((s.homeLine pa).word i)) ∧
      (s.Safe → (s.foldLine pa).homeLine pa = s.foldedLine pa) ∧
      (s.foldLine pa).sums = s.sums.filter fun r => r.line != lineAddr pa)

/-- R34, R118 to R123, R125, R128, R134, R217, R218: `open` and `sopen` with their register closed. A lane's tag and way
name its line with the mode's rights, its predicate is true, `%ostat` tells BOUND, and it steps past; a fifth line of
the lanes is left out, with a false predicate and DEFERRED; an open whose tokens the crew cannot ever have ends with
PEGWAIT; a lane that points outside its range parks with BOUNDS, one whose handle is invalid with HANDLE_INVALID, both
with a false predicate. A line of class `own`, `fixed` or `sum` takes a token, the floor's first, and a frame, which a
read mode fills; a frame that holds the line already is shared. The operation counts in O until the fill, for `sopen`
until the next cycle. `pfd` changes neither lines, frames, requests nor memory. Where it rests on the model's own
choices, these are log entries 10, 49, 55 and 56. -/
def Obligations.Opens : Prop :=
  let scale (sc : BitVec 2) : Nat := if sc = 0 then 1 else if sc = 1 then 4 else if sc = 2 then 16 else 128
  -- the register is closed, and nothing of the core stands in the way
  let clear (s : State) (c n : Nat) (l : BitVec 4) (need : Nat) : Prop :=
    (s.core c).lreg (n / 32) l.toNat = .closed ∧ (s.core c).waits = [] ∧ (s.core c).frames.length + need ≤ 2048 ∧
    need + ((s.core c).crew (n / 32)).framesBut l.toNat ≤ ((s.core c).limits (n / 32)).1 + ((s.core c).limits (n / 32)).2
  let idle (s : State) (c n : Nat) : Prop :=
    (s.slot c n).opsO = [] ∧ (s.slot c n).hold = .free ∧ (s.slot c n).retry = false ∧ s.fillAwaited c n s.nextId = false
  let opened (s : State) (u : Slot) (p : PredNo) (l : BitVec 4) (len : Nat) : Slot :=
    { (u.setPred p true).goto (pcAdd u.pc len) with
      ostat := BitVec.ofNat 32 (l.toNat * 4096), opsO := [{ id := s.nextId, done := false, returns := false, pred := none }] }
  let parks (s t : State) (c n : Nat) (p : PredNo) (l : BitVec 4) (cause : Nat) (v : Nat) : Prop :=
    t.mem = s.mem ∧ (t.slot c n).pc = (s.slot c n).pc ∧ (t.slot c n).preds = ((s.slot c n).setPred p false).preds ∧
      (t.slot c n).tcause = BitVec.ofNat 32 (0x1100 + cause) ∧ (t.slot c n).tval = BitVec.ofNat 64 v ∧
      (t.slot c n).openPark = some l ∧ (t.slot c n).count .o = 0 ∧ ∃ e, (t.slot c n).hold = .parked s.clock e
  (∀ (s : State) (c n len : Nat) (g : Guard) (l : BitVec 4) (p : PredNo) (a : Reg), s.Runs c n len g [a.toNat] →
    idle s c n → clear s c n l 0 →
    let u := s.slot c n
    let v := (u.reg a.toNat).toNat
    (v < 0x80000 → ∃ t, exec (.sopen g l p a) s = .next t ∧ t.mem = s.mem ∧ t.reqs = s.reqs ∧
      t.slot c n = opened s u p l len ∧ (t.core c).openDue = (s.core c).openDue ++ [(n, s.nextId, s.clock + 1)] ∧
      AMap.find? ((t.core c).lreg (n / 32) l.toNat).tags (n % 32) = some 0 ∧
      (t.core c).way (n / 32) l.toNat 0 = { kind := .scratch, rd := true, wr := true, fmt := 0, atom := true, va := lineAddr v,
                                            dest := .dev, pa := lineAddr v, sum := false, moved := false }) ∧
    (0x80000 ≤ v → u.masked = false → ∃ t, exec (.sopen g l p a) s = .next t ∧ parks s t c n p l 0x11 v)) ∧
  -- lanes of one crew with several lines
  (∀ (s : State) (g : Guard) (l : BitVec 4) (p : PredNo) (a : Reg),
    let c := s.bundle.core
    let sl := s.bundle.slots
    let line (n : Nat) : Nat := lineAddr ((s.slot c n).reg a.toNat).toNat
    sl ≠ [] → sl.Nodup → clear s c (sl.headD 0) l 0 →
    (∀ n ∈ sl, (s.slot c n).guard g = true ∧ (s.slot c n).poisoned a.toNat = false ∧ n / 32 = sl.headD 0 / 32 ∧ idle s c n ∧
      ((s.slot c n).reg a.toNat).toNat < 0x80000) →
    ∃ t, exec (.sopen g l p a) s = .next t ∧ t.mem = s.mem ∧ t.reqs = s.reqs ∧ ∀ n ∈ sl,
      let i := ((sl.map line).eraseDups).idxOf (line n)
      (t.slot c n).pc = pcAdd (s.slot c n).pc s.bundle.len ∧
      (t.slot c n).preds = ((s.slot c n).setPred p (decide (i < 4))).preds ∧
      (t.slot c n).ostat = BitVec.ofNat 32 (l.toNat * 4096 + if i < 4 then i * 256 else 1) ∧
      (i < 4 → AMap.find? ((t.core c).lreg (n / 32) l.toNat).tags (n % 32) = some (BitVec.ofNat 2 i) ∧
        ((t.core c).way (n / 32) l.toNat i).kind = .scratch ∧ ((t.core c).way (n / 32) l.toNat i).pa = line n)) ∧
  (∀ (s : State) (c n len : Nat) (g : Guard) (mode : OpenMode) (sc : BitVec 2) (l : BitVec 4) (p : PredNo) (h : BitVec 12)
    (a : Reg) (e : BitVec 256), s.Runs c n len g [a.toNat] → idle s c n → clear s c n l 0 →
    s.handle c (s.slot c n).bind h.toNat = (some e, s) →
    let u := s.slot c n
    let o := (u.reg a.toNat).toNat * scale sc
    let va := (hBase e + o) % 2 ^ 56
    let k := s.core c
    let exc := exec (.openLine g mode sc l p h a) s
    (handleOk e = false → u.masked = false → ∃ t, exc = .next t ∧ parks s t c n p l 0x10 h.toNat) ∧
    (handleOk e = true → hLen e ≤ o → u.masked = false → ∃ t, exc = .next t ∧ parks s t c n p l 0x11 o) ∧
    (∀ x, handleOk e = true → o < hLen e → s.checkLine c u.bind e (mode != .w) (mode != .r) (lineAddr va) = (.ok x, s) →
      let line := lineAddr x.way.pa
      (x.fkind = none → ∃ t due, exc = .next t ∧ t.mem = s.mem ∧ t.reqs = s.reqs ∧ t.slot c n = opened s u p l len ∧
        s.clock < due ∧ (t.core c).openDue = k.openDue ++ [(n, s.nextId, due)] ∧
        AMap.find? ((t.core c).lreg (n / 32) l.toNat).tags (n % 32) = some 0 ∧
        (t.core c).way (n / 32) l.toNat 0 = (if x.way.kind = .empty then .empty else x.way)) ∧
      (∀ kind, x.fkind = some kind → clear s c n l 1 → (k.crew (n / 32)).floorUsed < (k.limits (n / 32)).1 →
        ∃ t f, exc = .next t ∧ t.mem = s.mem ∧ t.slot c n = opened s u p l len ∧
          ((t.core c).crew (n / 32)).floorUsed = (k.crew (n / 32)).floorUsed + 1 ∧
          ((t.core c).crew (n / 32)).drawn = (k.crew (n / 32)).drawn ∧
          AMap.find? ((t.core c).lreg (n / 32) l.toNat).tags (n % 32) = some 0 ∧
          (t.core c).way (n / 32) l.toNat 0 = { x.way with kind := .frame f } ∧
          (k.frameOf x.way.dest line = none →
            if x.fetch then ∃ r ∈ t.reqs, r.kind = .fill f ∧ r.dest = x.way.dest ∧ r.pa = line ∧ r.core = c ∧
              r.ops = [(n, .o, s.nextId)] ∧ AMap.find? (t.core c).frames f = some {
                dest := x.way.dest, line := line, kind := kind, refs := 1, valid := if kind = .sum then -1 else 0, dirty := 0,
                poison := 0, data := 0, fill := some r.id, abandoned := false, ctx := (k.bind u.bind).ctx }
            else t.reqs = s.reqs ∧ AMap.find? (t.core c).frames f = some {
                dest := x.way.dest, line := line, kind := kind, refs := 1, valid := if kind = .sum then -1 else 0, dirty := 0,
                poison := 0, data := 0, fill := none, abandoned := false, ctx := (k.bind u.bind).ctx }) ∧
          ∀ y, k.frameOf x.way.dest line = some (f, y) → (x.fetch = false ∨ (y.fill = none ∧ y.valid ||| y.dirty = -1)) →
            AMap.find? k.frames f = some y →
            t.reqs = s.reqs ∧ AMap.find? (t.core c).frames f = some { y with refs := y.refs + 1 }) ∧
      (∀ kind, x.fkind = some kind →
        (k.limits (n / 32)).1 + (k.limits (n / 32)).2 < 1 + (k.crew (n / 32)).framesBut l.toNat →
        ∃ t, exc = .next t ∧ t.mem = s.mem ∧ t.reqs = s.reqs ∧ ((t.core c).way (n / 32) l.toNat 0).kind = .empty ∧
          t.slot c n = { (u.setPred p false).goto (pcAdd u.pc len) with ostat := BitVec.ofNat 32 (l.toNat * 4096 + 2) }))) ∧
  -- an open whose cycle has come completes
  (∀ (s : State) (c n op due : Nat), (s.core c).openDue = [(n, op, due)] → s.fillAwaited c n op = false → due ≤ s.clock →
    (s.slot c n).counts .o op = true →
    (s.openTimers c).slot c n = (s.slot c n).complete .o op ∧ ((s.openTimers c).core c).openDue = []) ∧
  (∀ (s : State) (c n len : Nat) (g : Guard) (h : BitVec 12) (a : Reg), s.Runs c n len g [a.toNat] →
    ∃ t, exec (.pfd g h a) s = .next t ∧ t.mem = s.mem ∧ t.reqs = s.reqs ∧ t.slot c n = (s.slot c n).goto (pcAdd (s.slot c n).pc len) ∧
      (t.core c).crews = (s.core c).crews ∧ (t.core c).frames = (s.core c).frames ∧ (t.core c).waits = (s.core c).waits) ∧
  (∀ g h a, ParksOnPoison (.pfd g h a) g [a.toNat]) ∧
  (∀ (g : Guard) (mode : OpenMode) (sc : BitVec 2) (l : BitVec 4) (p : PredNo) (h : BitVec 12) (a : Reg) (s : State),
    (∃ t, exec (.openLine g mode sc l p h a) s = .next t ∧ t.mem = s.mem) ∧
    (∃ t, exec (.sopen g l p a) s = .next t ∧ t.mem = s.mem) ∧ ∃ t, exec (.pfd g h a) s = .next t ∧ t.mem = s.mem)

/-- R40, R119, R120, R238, R250: what the check of a line finds, in its order: a translation fault, no use right or an
absent peer, the class and its owner, the mode; and the way that it binds otherwise, without atomics and signals where
the line holds entries of the handle table. Where it rests on the model's own choices, these are log entry 11. -/
def Obligations.LineChecks : Prop :=
  (∀ (s t : State) (c b : Nat) (e : BitVec 256) (rd wr : Bool) (va level : Nat), hSpace e ≠ 3 →
    (s.translate c b (s.spaceOf e) va = (.fault level, t) → s.checkLine c b e rd wr va = (.bad .translation level, t)) ∧
    (s.translate c b (s.spaceOf e) va = (.noUse, t) → s.checkLine c b e rd wr va = (.bad .permission 0, t))) ∧
  (∀ (s t : State) (c b : Nat) (e : BitVec 256) (rd wr : Bool) (va level : Nat) (leaf : BitVec 128), hSpace e = 0 →
    let k := (s.core c).bind b
    let pa := xlatAddr level leaf va
    let cls := pteClass leaf
    s.translate c b .dev va = (.ok level leaf, t) →
    s.checkLine c b e rd wr va = (
      if k.use.getLsbD (stackOf pa) = false then .bad .permission 0
      else if cls = 0 ∧ pteOwner leaf ≠ c then .bad .classFault 0
      else if (rd = true ∧ (hRd e = false ∨ pteRd leaf = false)) ∨ (wr = true ∧ (hWr e = false ∨ pteWr leaf = false)) ∨
          (wr = true ∧ cls = 1) ∨ (wr = true ∧ k.inTable pa = true) then .bad .permission 0
      else .ok {
        idx := 0
        fkind := if cls = 0 then some .own else if cls = 1 then some .fixed else if cls = 3 then some .sum else none
        fetch := rd && cls != 3
        way := { kind := .home, rd := rd, wr := wr, fmt := pteFmt leaf, atom := hAt e && pteAt leaf && !(k.inTable pa), va := va,
                 dest := .dev, pa := pa, sum := cls == 3, moved := false } }, t)) ∧
  (∀ (s t : State) (c b : Nat) (e : BitVec 256) (rd wr : Bool) (va level : Nat) (leaf : BitVec 128) (dest : Dest),
    (hSpace e = 1 ∧ hPeer e ≠ s.devno.toNat % 16 ∧ dest = .peer (hPeer e)) ∨ (hSpace e = 2 ∧ dest = .host) →
    let pa := xlatAddr level leaf va
    let cls := pteClass leaf
    let entry := s.peers.get 0 (hPeer e)
    s.translate c b dest va = (.ok level leaf, t) →
    s.checkLine c b e rd wr va = (
      if hSpace e = 1 ∧ (entry.getLsbD 0 = false ∨ entry.toNat / 2 ^ 32 = 0) then .bad .permission 0
      else if cls = 0 ∨ cls = 3 then .bad .classFault 0
      else if (rd = true ∧ (hRd e = false ∨ pteRd leaf = false)) ∨ (wr = true ∧ (hWr e = false ∨ pteWr leaf = false)) ∨
          (wr = true ∧ cls = 1) then .bad .permission 0
      else .ok {
        idx := 0
        fkind := if cls = 1 then some .fixed else none
        fetch := rd
        way := { kind := .home, rd := rd, wr := wr, fmt := pteFmt leaf, atom := hAt e && pteAt leaf, va := va, dest := dest,
                 pa := pa, sum := false, moved := false } }, t))

/-- R134, R135, R219: `recall` empties the ways it names, with their dirty nibbles or partial on their way home, and
`flush` sends them and keeps the ways; `flush` of a closed register, or of an empty way that it names, is LINE_CLOSED. That a
register with stale ways alone is closed, and that a stale way named in an open register is STACK_MOVED, is the model's reading,
log entry 81. Where it rests on the model's own choices, these are log entries 46, 81, 86. -/
def Obligations.RecallAndFlush : Prop :=
  (∀ (s : State) (c n len : Nat) (g : Guard) (la : LineOp), s.Runs c n len g [] → (s.core c).waits = [] →
    ∃ t, exec (.recallLine g la) s = .next t ∧ t.mem = s.mem ∧ t.slot c n = (s.slot c n).goto (pcAdd (s.slot c n).pc len) ∧
      ∀ w, w ∈ (match la.way with
        | some k => [k.toNat]
        | none => [0, 1, 2, 3]) → ((t.core c).way (n / 32) la.reg.toNat w).kind = .empty) ∧
  (∀ (s : State) (c n len f : Nat) (g : Guard) (reg : BitVec 4) (k : BitVec 2) (x : Frame), s.Runs c n len g [] →
    ((s.core c).way (n / 32) reg.toNat k.toNat).kind = .frame f → AMap.find? (s.core c).frames f = some x → x.kind ≠ .sum →
    (∃ t, exec (.flush g ⟨reg, some k⟩) s = .next t ∧ t.mem = s.mem ∧
      t.slot c n = (s.slot c n).goto (pcAdd (s.slot c n).pc len) ∧ AMap.find? (t.core c).frames f = some { x with dirty := 0 } ∧
      (t.core c).way (n / 32) reg.toNat k.toNat = (s.core c).way (n / 32) reg.toNat k.toNat ∧
      if x.dirty = 0 then t.reqs = s.reqs
      else ∃ r ∈ t.reqs, r.kind = .writeBack x.dirty (x.poison &&& x.dirty) x.data ∧ r.dest = x.dest ∧ r.pa = x.line) ∧
    (x.dirty ≠ 0 → (s.core c).waits = [] → ∃ t, exec (.recallLine g ⟨reg, some k⟩) s = .next t ∧
      ∃ r ∈ t.reqs, r.kind = .writeBack x.dirty (x.poison &&& x.dirty) x.data ∧ r.dest = x.dest ∧ r.pa = x.line)) ∧
  (∀ (s : State) (c n len f : Nat) (g : Guard) (reg : BitVec 4) (k : BitVec 2) (x : Frame), s.Runs c n len g [] →
    ((s.core c).way (n / 32) reg.toNat k.toNat).kind = .frame f → AMap.find? (s.core c).frames f = some x → x.kind = .sum →
    (∃ t, exec (.flush g ⟨reg, some k⟩) s = .next t ∧ AMap.find? (t.core c).frames f = some { x with data := 0, dirty := 0 } ∧
      ∃ r ∈ t.reqs, r.kind = .sum x.data ∧ r.dest = x.dest ∧ r.pa = x.line ∧ r.core = c) ∧
    ((s.core c).waits = [] → ∃ t, exec (.recallLine g ⟨reg, some k⟩) s = .next t ∧
      ∃ r ∈ t.reqs, r.kind = .sum x.data ∧ r.dest = x.dest ∧ r.pa = x.line ∧ r.core = c)) ∧
  -- a flush of a closed register, of an empty way, and of a stale way of an open register
  (∀ (s : State) (c n len : Nat) (g : Guard) (reg : BitVec 4) (named : Option (BitVec 2)), s.Runs c n len g [] →
    let kind (k : Nat) : WayKind := ((s.core c).way (n / 32) reg.toNat k).kind
    let traps (e : Cause) : Prop := exec (.flush g ⟨reg, named⟩) s = .next (s.takeTrap c n { cause := e, val := BitVec.ofNat 64 (reg.toNat +
      16 * (match named with
        | some k => k.toNat
        | none => 0)) })
    ((∀ k, k < 4 → kind k = .empty ∨ kind k = .stale) → traps .lineClosed) ∧
    ∀ k, named = some k → (kind k.toNat = .empty → traps .lineClosed) ∧
      ∀ j, j < 4 → kind j ≠ .empty → kind j ≠ .stale → kind k.toNat = .stale → traps .stackMoved)

/-- R122, R127, R128, R218, R222, R223, R242: an arriving fill makes every nibble valid and overwrites none that was valid
or dirty; an abandoned frame is freed; a met wait takes its tokens, the floor's first; one that can no longer be met ends
with PEGWAIT; the detector completes every waiting open; an open held for a walk is looked at again. Where it rests on the
model's own choices, these are log entries 40, 55 and 56. -/
def Obligations.FillsAndTokens : Prop :=
  (∀ (s : State) (c f : Nat) (r : Req) (x : Frame), s.fillHere c f = some r → AMap.find? (s.core c).frames f = some x →
    x.fill = some r.id → (s.core c).waits = [] → ((State.waysOfFrame (s.core c) f).any fun w => w.2.2.2.moved) = false →
    let d := State.carried r.result
    let take := ~~~(x.valid ||| x.dirty)
    (x.abandoned = false → s.closedNow c = false → ∃ t, exec (.fillArrives c f) s = .next t ∧ t.mem = s.mem ∧ t.req? r.id = none ∧
      AMap.find? (t.core c).frames f = some { x with
        data := x.data.merge take d.1, poison := (x.poison &&& ~~~take) ||| (d.2 &&& take), valid := -1, fill := none }) ∧
    (x.abandoned = true → s.closedNow c = false → ∃ t, exec (.abandonedFillArrives c f) s = .next t ∧ t.mem = s.mem ∧
      t.req? r.id = none ∧ AMap.find? (t.core c).frames f = none) ∧
    (s.closedNow c = true → exec (.fillArrives c f) s = .next s ∧ exec (.abandonedFillArrives c f) s = .next s)) ∧
  (∀ (s : State) (c : Nat) (w : OpenWait), s.tokenNext c = some w → s.issueDone c = true → s.coreDue c = false →
    s.neverMet c w = false → (∀ k, k < 4 → ((s.core c).way w.crew w.lreg.toNat k).kind = .empty) →
    (w.keep = false ∨ (w.lines.length ≤ 4 ∧ w.need = w.lines.countP fun l => l.fkind.isSome)) →
    ∃ t, exec (.tokenWaitMet c w.wid) s = .next t ∧ t.mem = s.mem ∧
      ((t.core c).crew w.crew).floorUsed = ((s.core c).crew w.crew).floorUsed +
        min w.need (((s.core c).limits w.crew).1 - ((s.core c).crew w.crew).floorUsed) ∧
      ((t.core c).crew w.crew).floorUsed + ((t.core c).crew w.crew).drawn =
        ((s.core c).crew w.crew).floorUsed + ((s.core c).crew w.crew).drawn + w.need ∧
      ∀ v ∈ (t.core c).waits, v.wid = w.wid → v.taken = true) ∧
  -- an open that waits and can no longer be met ends with PEGWAIT, and takes nothing
  (∀ (s : State) (c : Nat) (w : OpenWait), w.keep = false →
    (∀ k, k < 4 → ((s.core c).way w.crew w.lreg.toNat k).kind = .empty) →
    (s.neverMet c w = true ↔ ((s.core c).limits w.crew).1 + ((s.core c).limits w.crew).2 <
      w.need + ((s.core c).crew w.crew).framesBut w.lreg.toNat) ∧
    ∀ l : OpenLane, w.lanes = [l] → l.live = true → w.p ≠ 7 → s.tokenNext c = some w → s.issueDone c = true → s.coreDue c = false →
      s.neverMet c w = true → ∃ t, exec (.tokenWaitMet c w.wid) s = .next t ∧ t.mem = s.mem ∧
        (∀ v ∈ (t.core c).waits, v ∈ (s.core c).waits ∧ v.wid ≠ w.wid) ∧ (t.core c).fires = (s.core c).fires ∧
        ((t.core c).crew w.crew).floorUsed = ((s.core c).crew w.crew).floorUsed ∧
        ((t.core c).crew w.crew).drawn = ((s.core c).crew w.crew).drawn ∧ (t.slot c l.slot).pred w.p = false ∧
        (t.slot c l.slot).ostat = ostat w.lreg 0 2 ∧ (t.slot c l.slot).pc = pcAdd (s.slot c l.slot).pc w.pcLen) ∧
  (∀ (s : State) (c : Nat), s.detectorDue c = true → s.tokenNext c = none → s.issueDone c = true → s.coreDue c = false →
    ∃ t, exec (.detectorFire c) s = .next t ∧ t.mem = s.mem ∧ (t.core c).detect = 0 ∧
      (t.core c).fires.toNat = min 0xFFFF ((s.core c).fires.toNat + 1) ∧
      (∀ v ∈ (t.core c).waits, v ∈ (s.core c).waits ∧ v.forTokens = false)) ∧
  (∀ (s : State) (c wid : Nat) (w : OpenWait) (i : Instr), ((s.core c).waits.find? fun v => v.wid == wid) = some w →
    w.walk = some i → (s.closedNow c = true → exec (.walkRead c wid) s = .next s) ∧
      (s.closedNow c = false → ∃ t, exec (.walkRead c wid) s = .next t ∧ t.mem = s.mem ∧
        (wid < s.nextId → ∀ v ∈ (t.core c).waits, v.wid ≠ wid))) ∧
  -- an open of a register that holds lines takes its tokens after its recall has returned theirs
  (∀ (s : State) (c f : Nat) (w : OpenWait) (x : Frame), s.tokenNext c = some w → s.issueDone c = true → s.coreDue c = false →
    s.neverMet c w = false → w.keep = false → w.need = 1 → ((s.core c).way w.crew w.lreg.toNat 0).kind = .frame f →
    (∀ k, 1 ≤ k → k < 4 → ((s.core c).way w.crew w.lreg.toNat k).kind = .empty) → AMap.find? (s.core c).frames f = some x →
    ((s.core c).crew w.crew).floorUsed = ((s.core c).limits w.crew).1 → ((s.core c).crew w.crew).drawn = 0 →
    0 < ((s.core c).limits w.crew).1 →
    ∃ t, exec (.tokenWaitMet c w.wid) s = .next t ∧ t.mem = s.mem ∧
      ((t.core c).crew w.crew).floorUsed = ((s.core c).crew w.crew).floorUsed ∧ ((t.core c).crew w.crew).drawn = 0) ∧
  -- an open in retry mode keeps the way that holds its line already, and needs no token for it
  (∀ (s : State) (c k : Nat) (w : OpenWait) (l : OpenLine), w.keep = true → w.lines = [l] → k < 4 →
    let y := (s.core c).way w.crew w.lreg.toNat k
    (y.kind = .home ∨ ∃ f, y.kind = .frame f) → l.way.kind = .home → y.dest = l.way.dest → lineAddr y.pa = lineAddr l.way.pa →
    (∀ j, j < k → ((s.core c).way w.crew w.lreg.toNat j).kind = .empty) →
    let lanes : List OpenLane := w.lanes.map fun n => if n.way = some l.idx then { n with way := some k } else n
    (s.readyWays c w).1 = { w with lines := [], need := 0, lanes := lanes })

/-- R28, R190, R226, R228, R251, R256, R296, R300, R357: a reply writes its values, with their poison, completes its counts,
and is gone; a met `sigw` lets its lane go on, a poisoned or refused one parks it; a request "not met" is sent again after
256 cycles, and one held at its source once its core and its slice have an entry, the runs of a copy's line for the host
together. Where it rests on the model's own choices, these are log entries 25, 52 and 53. -/
def Obligations.Replies : Prop :=
  (∀ (s : State) (id m reg op : Nat) (v : W32) (bad : Bool) (r : Req) (lanes : List (Nat × BitVec 4 × Nat)) (i : Instr)
    (sum : Bool), s.req? id = some r → r.stage = .here → r.kind = .read lanes i sum → r.result = [(m, reg, v, bad)] →
    r.ops = [(m, .h, op)] → r.masked = [] → r.dropped = false →
    let u := s.slot r.core m
    (u.opsH.any fun o => o.id == op && !o.done) = true →
    ∃ t, exec (.reply id none) s = .next t ∧ t.mem = s.mem ∧ t.req? id = none ∧
      t.slot r.core m = ({ u with regs := u.regs.put reg v,
                                  poison := if bad then u.poison.put reg true else u.poison.del reg }).complete .h op) ∧
  (∀ (s : State) (id m off n va : Nat) (least : W64) (r : Req), s.req? id = some r → r.stage = .here → r.id = id →
    r.kind = .sigw off n m least → (s.slot r.core m).hold = .sigw id va →
    let u := s.slot r.core m
    (r.ok = true → ∃ t, exec (.reply id none) s = .next t ∧ t.mem = s.mem ∧ t.req? id = none ∧
      t.slot r.core m = { u.goto (pcAdd u.pc 12) with hold := .free }) ∧
    (r.ok = false → r.result ≠ [] → u.masked = false → ∃ t, exec (.reply id none) s = .next t ∧ t.mem = s.mem ∧
      t.req? id = none ∧ (t.slot r.core m).tcause = 0x5115 ∧ (t.slot r.core m).tval = BitVec.ofNat 64 va ∧
      (t.slot r.core m).pc = u.pc) ∧
    (r.ok = false → r.result = [] → ∃ t q, exec (.reply id none) s = .next t ∧ t.mem = s.mem ∧ q ∈ t.reqs ∧ q.id = s.nextId ∧
      q.kind = r.kind ∧ q.dest = r.dest ∧ q.pa = r.pa ∧ q.stage = .resend (s.clock + 256) ∧
      t.slot r.core m = { u with hold := .sigw s.nextId va })) ∧
  (∀ (s : State) (c n len k : Nat) (w : Way) (g : Guard) (ty : NatTy) (la : LineOp) (b d : Reg),
    s.Runs c n len g (b.toNat :: regsOf ty.wide d) → s.useWay c n la 5 = .ok k w → w.rd = true → w.kind = .home →
    w.dest ≠ .host →
    let u := s.slot c n
    let bytes := if ty.wide then 8 else 4
    let off := (u.reg b.toNat).toNat % 128 / bytes * bytes
    ∃ t r, exec (.sigw g ty la b d) s = .next t ∧ t.mem = s.mem ∧ t.slot c n = { u with hold := .sigw s.nextId (w.va + off) } ∧
      r ∈ t.reqs ∧ r.id = s.nextId ∧ r.dest = w.dest ∧ r.pa = lineAddr w.pa ∧
      r.kind = .sigw off bytes n (if ty.wide then u.pair d.toNat else (u.reg d.toNat).setWidth 64)) ∧
  (∀ (s : State) (id at_ : Nat) (r : Req), s.req? id = some r → r.stage = .resend at_ →
    (s.clock < at_ → exec (.sigwResend id) s = .next s) ∧
    (at_ ≤ s.clock → ∃ t, exec (.sigwResend id) s = .next t ∧ t.mem = s.mem ∧
      ∃ q ∈ t.reqs, q.id = r.id ∧ q.kind = r.kind ∧ ∀ k, q.stage ≠ .resend k)) ∧
  (∀ (s : State) (id : Nat) (r : Req), s.req? id = some r → r.stage = .source →
    (r.agent.toNat < 96 → State.atSlice r.kind = true → 1024 ≤ s.outstanding r.core → exec (.requestEntryFree id) s = .next s) ∧
    (r.dest = .dev → State.atSlice r.kind = true → 1024 ≤ s.sliceLoad r → exec (.requestEntryFree id) s = .next s) ∧
    (s.outstanding r.core < 1024 → s.sliceLoad r < 1024 → r.dest = .dev → s.route r.srcDie (stackOf r.pa) = r.srcDie → ∃ t, exec (.requestEntryFree id) s = .next t ∧ t.mem = s.mem ∧
      ∃ q ∈ t.reqs, q.id = r.id ∧ q.kind = r.kind ∧ q.stage ≠ .source) ∧
    -- the pieces of a line for the host leave together, or none does
    ∀ op j d m p, r.dest = .host → r.kind = .engWrite op j d m p → ∃ t, exec (.requestEntryFree id) s = .next t ∧ t.mem = s.mem ∧
      (t = s ∨ ∀ q ∈ t.reqs, q.core = r.core → (∃ d m p, q.kind = .engWrite op j d m p) → q.stage ≠ .source))

/-! Tiles, engines, matrix macros, seams. -/

/-- R175 to R177: `talloc` writes an entry with its alloc bit, the bind and the empty state; a tile in use, a format
beyond the list, reserved bits or a tile beyond scratch trap; it waits for an operation that names the tile, and takes
effect when the last of them is done; `tfree` frees once earlier operations are done; `tstat` reads. Where it rests on the
model's own choices, these are log entries 8, 58. -/
def Obligations.Tiles : Prop :=
  (∀ (s : State) (c n len : Nat) (g : Guard) (k : BitVec 6) (a : Reg), s.Runs c n len g (regsOf true a) →
    let u := s.slot c n
    let e := u.pair a.toNat
    let x := (s.core c).tile k.toNat
    -- an operation names the tile, and a `talloc` of it waits
    let named : Prop := ∃ o ∈ (s.core c).engine, k.toNat ∈ o.tiles
    let waits : Prop := ∃ o ∈ (s.core c).engine, k.toNat ∈ o.tiles ∧ State.isTalloc o = true
    let image (w : W64) : Prop := ∀ j, j < 64 → w.getLsbD j =
      if j < 54 then e.getLsbD j else if j < 57 then u.bind.testBit (j - 54) else if j = 57 then true
      else if j < 62 then e.getLsbD j else false
    (x.getLsbD 57 = true ∨ waits →
      exec (.talloc g k a) s = .next (s.takeTrap c n { cause := .tileInvalid, acc := 6, val := BitVec.ofNat 64 k.toNat })) ∧
    (x.getLsbD 57 = false → ¬ waits →
      (8 < (e.extractLsb' 58 4).toNat → exec (.talloc g k a) s = .next (s.takeTrap c n (illegalTrap .reserved))) ∧
      ((e.extractLsb' 58 4).toNat ≤ 8 → (e &&& tReserved ≠ 0 ∨ 0x80000 < tBase e + tSize e) →
        exec (.talloc g k a) s = .next (s.takeTrap c n { cause := .paramInvalid, acc := 6, val := e })) ∧
      ((e.extractLsb' 58 4).toNat ≤ 8 → e &&& tReserved = 0 → tBase e + tSize e ≤ 0x80000 →
        (¬ named → u.opsM = [] → ∃ t, exec (.talloc g k a) s = .next t ∧ t.mem = s.mem ∧ t.slot c n = u.goto (pcAdd u.pc len) ∧
          (∀ j, j ≠ k.toNat → (t.core c).tile j = (s.core c).tile j) ∧ image ((t.core c).tile k.toNat)) ∧
        (named → ∃ t o, exec (.talloc g k a) s = .next t ∧ t.mem = s.mem ∧ (t.core c).tiles = (s.core c).tiles ∧
          (t.core c).engine = (s.core c).engine ++ [o] ∧ o.id = s.nextId ∧ o.inst = .talloc g k a ∧ o.tiles = [k.toNat] ∧
          o.macros = 0 ∧ image (o.block.setWidth 64) ∧ t.slot c n = (u.enter .m s.nextId false).goto (pcAdd u.pc len))))) ∧
  (∀ (s : State) (c n len : Nat) (g : Guard) (k : BitVec 6), s.Runs c n len g [] →
    let u := s.slot c n
    let x := (s.core c).tile k.toNat
    ((s.core c).owns u.bind k.toNat = false →
      exec (.tfree g k) s = .next (s.takeTrap c n { cause := .tileInvalid, acc := 6, val := BitVec.ofNat 64 k.toNat })) ∧
    ((s.core c).owns u.bind k.toNat = true → (tState x = 1 ∨ tState x = 3) → exec (.tfree g k) s = .next s) ∧
    ((s.core c).owns u.bind k.toNat = true → tState x ≠ 1 → tState x ≠ 3 →
      ∃ t o, exec (.tfree g k) s = .next t ∧ t.mem = s.mem ∧ (t.core c).engine = (s.core c).engine ++ [o] ∧ o.id = s.nextId ∧
        o.inst = .tfree g k ∧ o.tiles = [k.toNat] ∧ t.slot c n = (u.enter .m s.nextId false).goto (pcAdd u.pc len)) ∧
    ∀ d : Reg, exec (.tstat g d k) s = .next (s.setSlot c n ((u.setPair d.toNat
      (if x.getLsbD 57 = true ∧ (x.extractLsb' 54 3).toNat = u.bind then x else 0)).goto (pcAdd u.pc len)))) ∧
  (∀ (s : State) (c id : Nat) (o : EngineOp) (g : Guard) (k : BitVec 6), s.engineOp c id = some o → o.inst = .tfree g k →
    (s.mayRun c o = false → exec (.tfreeEffect c id) s = .next s) ∧
    (s.mayRun c o = true → ∃ t, exec (.tfreeEffect c id) s = .next t ∧ t.mem = s.mem ∧ t.engineOp c id = none ∧
      ((∀ x ∈ (s.core c).engine, State.isTalloc x = false) → ((t.core c).tile k.toNat).getLsbD 57 = false) ∧
      ∀ (x : EngineOp) (h : Guard) (j : BitVec 6) (b : Reg), (s.core c).engine = [o, x] → o.id < x.id → x.inst = .talloc h j b →
        x.tiles = [j.toNat] → x.macros = 0 → ((s.core c).bind x.bind).unbound = false →
        (t.core c).engine = [] ∧ (t.core c).tile j.toNat = x.block.setWidth 64))

/-- R172, R182 to R184: an `mload`, `mma` or `copy` that passes its checks enters its counter, goes on without its
slot, and steps past; one on macros starts at once where nothing before it names a tile or macro of it (R173); a block that is
not aligned or not in scratch is PARAM_INVALID, and a macro that is fenced or not granted MACRO_FENCED. Where it rests on the
model's own choices, these are log entry 47. -/
def Obligations.EngineIssue : Prop :=
  -- the operation stands behind the others; which of them have started aside
  let added (s t : State) (c : Nat) (o : EngineOp) : Prop :=
    ((t.core c).engine.map fun x => { x with began := none }) =
      ((s.core c).engine ++ [o]).map fun x => { x with began := none }
  let starts (s t : State) (c : Nat) (o : EngineOp) : Prop :=
    o.began = (if s.mayRun c o then some (s.clock, false) else none) ∧
      ∀ x ∈ (t.core c).engine, x.macros ≠ 0 → x.began = none → t.mayRun c x = false
  (∀ (s : State) (c n len : Nat) (g : Guard) (a : Reg), s.Runs c n len g [a.toNat] →
    let u := s.slot c n
    let v := (u.reg a.toNat).toNat
    let bad (size : Nat) : Prop := v % size ≠ 0 ∨ 0x80000 < v + size
    let trap : Host.Outcome State Fault Refusal := .next (s.takeTrap c n { cause := .paramInvalid, acc := 6, val := BitVec.ofNat 64 v })
    (bad 64 → exec (.mload g a) s = trap ∧ exec (.mma g a) s = trap) ∧ (bad 128 → exec (.copy g a) s = trap)) ∧
  (∀ (s : State) (c n len : Nat) (g : Guard) (a : Reg) (k : MacroB), s.Runs c n len g [a.toNat] →
    let u := s.slot c n
    let v := (u.reg a.toNat).toNat
    let l : Line := BitVec.ofNat 1024 (s.scratchNum c v 64)
    let e := (s.core c).tile (loadTile l)
    let m := loadMacro l
    v % 64 = 0 → v + 64 ≤ 0x80000 → (∀ i, i < 64 → (s.core c).scratchPoison.get false (v + i) = false) →
    (l.byte 0).toNat < 64 → (l.byte 1).toNat < 16 → (l.byte 2).toNat < 2 → l >>> 24 = 0 →
    (s.core c).owns u.bind (loadTile l) = true → loadKind e = some k →
    (((s.core c).bind u.bind).macros.getLsbD m = false ∨ ((s.core c).macro m).fenced = true →
      exec (.mload g a) s = .next (s.takeTrap c n { cause := .macroFenced, acc := 6, val := BitVec.ofNat 64 (2 ^ m) })) ∧
    (((s.core c).bind u.bind).macros.getLsbD m = true → ((s.core c).macro m).fenced = false →
      (tState e ≠ 2 → exec (.mload g a) s = .next s) ∧
      (tState e = 2 → ∃ t o, exec (.mload g a) s = .next t ∧ t.mem = s.mem ∧ added s t c o ∧
        (t.core c).engine.getLast? = some o ∧ starts s t c o ∧
        o.id = s.nextId ∧ o.block = l ∧ o.tiles = [loadTile l] ∧ o.macros = 1#16 <<< m ∧ o.inst = .mload g a ∧
        ((t.core c).macro m).kind = k ∧ t.slot c n = (u.enter .m s.nextId false).goto (pcAdd u.pc len)))) ∧
  (∀ (s : State) (c n len : Nat) (g : Guard) (a : Reg), s.Runs c n len g [a.toNat] →
    let u := s.slot c n
    let v := (u.reg a.toNat).toNat
    let k := s.core c
    let l : Line := BitVec.ofNat 1024 (s.scratchNum c v 64)
    v % 64 = 0 → v + 64 ≤ 0x80000 → (∀ i, i < 64 → k.scratchPoison.get false (v + i) = false) →
    k.owns u.bind (mmaA l) = true → k.owns u.bind (mmaC l) = true →
    (mmaOk k l = false → exec (.mma g a) s = .next (s.takeTrap c n { cause := .paramInvalid, acc := 6, val := BitVec.ofNat 64 v })) ∧
    (mmaOk k l = true → (∀ j, j < 16 → (mmaMask l).getLsbD j = true → (k.bind u.bind).macros.getLsbD j = true ∧ (k.macro j).fenced = false) →
      (tState (k.tile (mmaA l)) ≠ 2 ∨ tState (k.tile (mmaC l)) ≠ 2 → exec (.mma g a) s = .next s) ∧
      (tState (k.tile (mmaA l)) = 2 → tState (k.tile (mmaC l)) = 2 →
        ∃ t o, exec (.mma g a) s = .next t ∧ t.mem = s.mem ∧ added s t c o ∧ (t.core c).engine.getLast? = some o ∧
          starts s t c o ∧ o.id = s.nextId ∧ o.block = l ∧
          o.tiles = [mmaA l, mmaC l] ∧ o.macros = mmaMask l ∧ o.inst = .mma g a ∧
          t.slot c n = (u.enter .m s.nextId false).goto (pcAdd u.pc len)))) ∧
  (∀ (s s1 : State) (c n len : Nat) (g : Guard) (a : Reg) (o : EngineOp), s.Runs c n len g [a.toNat] →
    let u := s.slot c n
    s.copyIssue c n (.copy g a) (u.reg a.toNat).toNat = (.go o, s1) → s1.cores = s.cores → s1.nextId = s.nextId →
    ∃ t o1, exec (.copy g a) s = .next t ∧ t.mem = s1.mem ∧ added s t c o1 ∧ o1.id = s.nextId ∧
      o1.src = o.src ∧ o1.dst = o.dst ∧ o1.runs = o.runs ∧ t.slot c n = (u.enter .c s.nextId false).goto (pcAdd u.pc len) ∧
      (copySk o.block = true → tState ((t.core c).tile (copySrc o.block)) = 3 ∨ copySrc o.block = copyDst o.block) ∧
      (copyDk o.block = true → tState ((t.core c).tile (copyDst o.block)) = 1))

/-- R58, R61 to R68, R144, R173, R180 to R182, R185 to R187, R230: an operation asks for its source lines and reads each at
its home, and writes its destination lines as one event each, once it may run; when all are written, and the cycles of an
`mload` or `mma` over, it completes its count and is gone. A line for the host goes in aligned runs of up to 16 bytes, which
is the model's reading, log entry 52. Fences are cleared at quiesce points. An element of C is the sum of two chains of pass
sums over products of table values, in their fixed order; a copy moves bytes, or decodes and encodes again where the tags
differ, at addresses that wrap at 2^56 (log entry 10). Where it rests on the model's own choices, these are log entries 10,
14, 15, 51, 52, 58, 73, 80, 85. -/
def Obligations.EngineProgress : Prop :=
  (∀ (s : State) (c id i : Nat) (o : EngineOp) (w : Way), s.engineOp c id = some o → o.src[i]? = some w →
    AMap.find? o.reads i = none → i ∉ o.asked → s.mayRun c o = true → s.backsDone c o = true →
    (w.kind = .scratch → exec (.engineLineRead c id i) s = .next (s.setOp c { o with reads := o.reads.put i (s.scratchLine c w.pa) })) ∧
    (w.kind ≠ .scratch → ∃ t, exec (.engineLineRead c id i) s = .next t ∧ t.mem = s.mem ∧
      t.engineOp c id = some { o with asked := o.asked ++ [i] } ∧
      ∃ r ∈ t.reqs, r.kind = .engRead id i ∧ r.core = c ∧ r.dest = w.dest ∧ r.pa = lineAddr w.pa)) ∧
  (∀ (s : State) (c id i : Nat) (o : EngineOp) (w : Way) (r : Req), s.engineOp c id = some o → o.src[i]? = some w → i ∈ o.asked →
    s.engineReq c (· == .engRead id i) = some r → s.performable r = true →
    exec (.engineLineRead c id i) s = .next (s.performed { r with
      result := State.carry (if w.sum then s.foldedLine w.pa else s.homeLine w.pa) (s.homePoison w.pa) })) ∧
  (∀ (s : State) (rid i : Nat) (o : EngineOp) (r : Req) (x : Option (List Byte)) (l : Line) (p : Nibbles), s.req? rid = some r →
    r.kind = .engRead o.id i → s.engineOp r.core o.id = some o → r.stage = .here → r.result = State.carry l p →
    ∃ t, exec (.reply rid x) s = .next t ∧ t.mem = s.mem ∧ t.engineOp r.core o.id = some { o with reads := o.reads.put i (l, p) }) ∧
  (∀ (s : State) (c id j : Nat) (o : EngineOp) (w : Way) (g : Guard) (a : Reg) (l : Line × Nibbles × Nibbles),
    s.engineOp c id = some o → o.dst[j]? = some w → j ∉ o.written → j + o.src.length ∉ o.asked → s.mayRun c o = true →
    s.backsDone c o = true → o.inst = .copy g a → State.copyLine o w = some l → w.kind ≠ .scratch →
    ∃ t, exec (.engineLineWrite c id j) s = .next t ∧ t.mem = s.mem ∧
      t.engineOp c id = some { o with asked := o.asked ++ [j + o.src.length] } ∧
      (w.dest ≠ .host → ∃ r ∈ t.reqs, r.kind = .engWrite id j l.1 l.2.1 l.2.2 ∧ r.core = c ∧ r.dest = w.dest ∧ r.pa = lineAddr w.pa) ∧
      (w.dest = .host → ∀ p ∈ State.hostPieces l.2.1, ∃ r ∈ t.reqs, r.kind = .engWrite id j l.1 (l.2.1 &&& nibbleMask p.1 p.2) l.2.2 ∧
        r.core = c ∧ r.dest = .host ∧ r.pa = lineAddr w.pa + p.1)) ∧
  (∀ m : Nibbles, (∀ p ∈ State.hostPieces m, p.2 ∈ [1, 2, 4, 8, 16] ∧ p.1 % p.2 = 0 ∧ p.1 + p.2 ≤ 128) ∧
    ∀ b, b < 128 → ((State.hostPieces m).countP fun p => decide (p.1 ≤ b) && decide (b < p.1 + p.2)) =
      if m &&& nibbleMask b 1 = 0 then 0 else 1) ∧
  (∀ (s : State) (c id j : Nat) (o : EngineOp) (w : Way) (r : Req) (l : Line) (mask poison : Nibbles),
    s.engineOp c id = some o → o.dst[j]? = some w → j + o.src.length ∈ o.asked →
    s.engineReq c (writesLine id j) = some r → r.kind = .engWrite id j l mask poison → s.performable r = true →
    ∃ t, exec (.engineLineWrite c id j) s = .next t ∧ t.mem = (s.homeStore r.pa mask poison l).mem ∧
      ∃ o1, t.engineOp c id = some o1 ∧ o1.written = o.written ++ [j]) ∧
  (∀ (s : State) (c id j : Nat) (o : EngineOp) (w : Way) (g : Guard) (a : Reg),
    s.engineOp c id = some o → o.dst[j]? = some w → j ∉ o.written → j + o.src.length ∉ o.asked → s.mayRun c o = true →
    o.inst = .mma g a → lineAddr w.pa = w.pa →
    let f : Bool := match o.began with
      | some x => x.2
      | none => false
    ∃ t, exec (.engineLineWrite c id j) s = .next t ∧ t.mem = s.mem ∧ (t.scratchLine c w.pa).1 = (s.mmaLine c o j f).1 ∧
      ∃ o1, t.engineOp c id = some o1 ∧ o1.written = o.written ++ [j] ∧ o1.began = o.began) ∧
  (∀ (s : State) (c id : Nat) (o : EngineOp) (g : Guard) (a : Reg), s.engineOp c id = some o → o.written.length = o.dst.length →
    (∀ x ∈ (s.core c).engine, State.isTalloc x = false) →
    ((s.slot c o.slot).counts .c o.opId = true → o.inst = .copy g a → ∃ t, exec (.copyComplete c id) s = .next t ∧ t.mem = s.mem ∧
      t.engineOp c id = none ∧ t.slot c o.slot = (s.slot c o.slot).complete .c o.opId) ∧
    ∀ (at_ : Nat) (f : Bool), o.began = some (at_, f) → o.inst = .mma g a →
      let till := at_ + (if tFmt ((s.core c).tile (mmaA o.block)) = 1 then 6 else 12) * mmaRows o.block + 40
      (s.clock < till → exec (.mmaComplete c id) s = .next s) ∧
      (till ≤ s.clock → (s.slot c o.slot).counts .m o.opId = true → ∃ t, exec (.mmaComplete c id) s = .next t ∧ t.mem = s.mem ∧
        t.engineOp c id = none ∧ t.slot c o.slot = (s.slot c o.slot).complete .m o.opId ∧
        (∀ j, j < 16 → ((t.core c).macro j).count = ((s.core c).macro j).count + (if o.macros.getLsbD j then 1 else 0)) ∧
        -- what waited for it starts
        ∀ x ∈ (t.core c).engine, x.macros ≠ 0 → x.began = none → t.mayRun c x = false)) ∧
  (∀ (s : State) (c id at_ : Nat) (f : Bool) (o : EngineOp) (g : Guard) (a : Reg), s.engineOp c id = some o → o.inst = .mload g a →
    o.began = some (at_, f) →
    let e := (s.core c).tile (loadTile o.block)
    (s.clock < at_ + 512 → exec (.mloadComplete c id) s = .next s) ∧
    (at_ + 512 ≤ s.clock → (s.slot c o.slot).counts .m o.opId = true → (∀ x ∈ (s.core c).engine, State.isTalloc x = false) →
      ∃ t, exec (.mloadComplete c id) s = .next t ∧ t.mem = s.mem ∧ t.engineOp c id = none ∧
        t.slot c o.slot = (s.slot c o.slot).complete .m o.opId ∧
        (f = false → ∀ i, i < tRows e * tLpr e →
          ((t.core c).macro (loadMacro o.block)).rows.get 0 i = (s.scratchLine c (tBase e + 128 * i)).1) ∧
        (f = true → ((t.core c).macro (loadMacro o.block)).rows = ((s.core c).macro (loadMacro o.block)).rows))) ∧
  (∀ (s : State) (c m : Nat) (good : Bool),
    let x := (s.core c).macro m
    (x.count < 64 ∨ s.clock < x.testAt → exec (.macroSelfTest c m good) s = .next s) ∧
    (64 ≤ x.count → x.testAt ≤ s.clock → ∃ t, exec (.macroSelfTest c m good) s = .next t ∧ t.mem = s.mem ∧
      (t.core c).macro m = { x with
        count := 0, fenced := x.fenced || !good
        fencedIn := if good then x.fencedIn else
          ((List.range 8).filter fun b => decide (((s.core c).bind b).state ≠ .free) && ((s.core c).bind b).macros.getLsbD m).map
            fun b => ((s.core c).bind b).ctx }) ∧
    (x.fenced = true → (s.core c).engine = [] → (∀ b, b < 8 → ((s.core c).bind b).state = .free) →
      ((∃ y ∈ x.fencedIn, s.quiet y = false) → exec (.macroFenceClear c m) s = .next s) ∧
      ((∀ y ∈ x.fencedIn, s.quiet y = true) → ∃ t, exec (.macroFenceClear c m) s = .next t ∧ t.mem = s.mem ∧
        (t.core c).macro m = { x with fenced := false, fencedIn := [] }))) ∧
  -- the arithmetic of `mma`
  (let add (x y : W32) : W32 := BitVec.ofNat 32 (((fp32.decode x.toNat).add .rne (fp32.decode y.toNat)).round fp32 .rne)
   let tree (b : Nat → W32) : W32 := add (add (add (b 0) (b 1)) (add (b 2) (b 3))) (add (add (b 4) (b 5)) (add (b 6) (b 7)))
   let nan : W32 := 0x7FC00000
   let total (p : Nat → Option Dy) : Dy := (List.range 16).foldl (fun x i => match p i with
     | none => x
     | some d => x.add d) ⟨0, 0⟩
   let f32 (d : Dy) : W32 := BitVec.ofNat 32 ((Exact.val false d).round fp32 .rne)
   (∀ a b : Nat, a < 64 → b < 64 → lns6Product a b = if a % 32 = 0 ∨ b % 32 = 0 then none else
     some ⟨(if a / 32 = b / 32 then 1 else -1) * (([2048, 2435, 2896, 3444].getD ((a % 32 + b % 32) % 4) 0 : Nat) : Int),
       ((a % 32 + b % 32) / 4 : Nat) - 19⟩) ∧
   (∀ a b : Nat, a < 4096 → b < 4096 → lns12Product a b = if a % 2048 = 0 ∨ b % 2048 = 0 then none else
     some ⟨(if a / 2048 = b / 2048 then 1 else -1) * (t12 ((a % 2048 + b % 2048) % 32) : Int),
       ((a % 2048 + b % 2048) / 32 : Nat) - 79⟩) ∧
   (∀ (a b : Line) (j : Nat), densePartial a b j = if (a.byte j).toNat = 255 ∨ (b.byte j).toNat = 255 then nan else
     let p := total fun i => lns6Product (elementCode 1 a (16 * j + i)) (elementCode 1 b (16 * j + i))
     f32 ⟨p.m, p.e + (a.byte j).toNat + (b.byte j).toNat - 254⟩) ∧
   (∀ (l : Line) (n : Nat), storedPos l n =
     ([(0, 1), (0, 2), (0, 3), (1, 2), (1, 3), (2, 3)][(l.extractLsb' (64 + 3 * (n / 2)) 3).toNat]?).map fun xy =>
       4 * (n / 2) + if n % 2 = 0 then xy.1 else xy.2) ∧
   (∀ (a0 a1 b : Line) (j : Nat),
     let ea (k : Nat) : Nat := if k < 8 then (a0.byte k).toNat else (a1.byte (k - 8)).toNat
     let code (p : Nat) : Nat := if p < 128 then elementCode 1 a0 p else elementCode 1 a1 (p - 128)
     sparsePartial a0 a1 b j = if (b.byte j).toNat = 255 ∨ ea (2 * j) = 255 ∨ ea (2 * j + 1) = 255 then nan else
       f32 (total fun i => (storedPos b (16 * j + i)).bind fun p =>
         (lns6Product (code p) (elementCode 2 b (16 * j + i))).map fun d => ⟨d.m, d.e + ea (p / 16) + (b.byte j).toNat - 254⟩)) ∧
   (∀ (a0 a1 b0 b1 : Line) (j : Nat),
     let code (x y : Line) (k : Nat) : Nat := if k < 64 then elementCode 3 x k else elementCode 3 y (k - 64)
     let p (i : Nat) : W32 := match lns12Product (code a0 a1 (16 * j + i)) (code b0 b1 (16 * j + i)) with
       | none => 0
       | some d => f32 d
     lns12Partial a0 a1 b0 b1 j = add (tree p) (tree fun i => p (8 + i))) ∧
   (∀ (s : State) (c : Nat) (o : EngineOp) (j : Nat) (fenced : Bool) (i : Nat), i < 32 →
     let l := o.block
     let a := (s.core c).tile (mmaA l)
     let segs := if tFmt a = 1 then 8 else 4
     let r := j / segs
     let n := 32 * (j % segs) + i
     let row (q : Nat) : Line := (s.scratchLine c (tBase a + ((mmaArow l + r % mmaRows l) * tLpr a + q) * 128)).1
     let b (p q : Nat) : Line := ((s.core c).macro ((mmaMacros l).getD (r / mmaRows l * mmaChain l + p) 0)).rows.get 0 q
     let pass (p : Nat) : W32 := tree fun k =>
       if tFmt a ≠ 1 then lns12Partial (row (2 * p)) (row (2 * p + 1)) (b p (2 * n)) (b p (2 * n + 1)) k
       else if mmaSp l then sparsePartial (row (2 * p)) (row (2 * p + 1)) (b p n) k else densePartial (row p) (b p n) k
     let acc : W32 := if mmaAcc l then (s.scratchLine c (o.dst.getD j .empty).pa).1.word i else 0
     let chain (x : W32) (odd : Nat) : W32 :=
       ((List.range (mmaPasses l)).filter fun p => p % 2 == odd).foldl (fun e p => add e (pass p)) x
     (s.mmaLine c o j fenced).1.word i = if fenced then nan else add (chain acc 0) (chain 0 1))) ∧
  -- what a copy of one run writes
  (∀ (o : EngineOp) (w : Way) (so d : Int) (ts td : Nat), o.runs = [(so, d, ts, td)] →
    let n := (dimOf o.block 0).1
    let s0 := ((o.srcBase : Int) + so).toNat
    let d0 := ((o.dstBase : Int) + d).toNat
    let held (va : Nat) (l : Line × Nibbles) : Prop := ∃ i q, o.src[i]? = some q ∧ q.va = va ∧
      (∀ k x, k < i → o.src[k]? = some x → x.va ≠ va) ∧ AMap.find? o.reads i = some l
    (∀ x : Nat → Line × Nibbles, ts = td →
      -- the place of a byte in the run: addresses wrap at 2^56
      let place (b : Nat) : Nat := (w.va + b + (2 ^ 56 - d0 % 2 ^ 56)) % 2 ^ 56
      let inside (b : Nat) : Prop := place b < n
      let a (b : Nat) : Nat := (s0 + place b) % 2 ^ 56
      (∀ b, b < 128 → inside b → held (lineAddr (a b)) (x b)) →
      ∃ l, State.copyLine o w = some l ∧ ∀ b, b < 128 → (l.2.1.getLsbD (2 * b) = true ↔ inside b) ∧
        (inside b → l.1.byte b = (x b).1.byte (a b % 128) ∧ (l.2.2 &&& nibbleMask b 1 ≠ 0 ↔ (x b).2 &&& nibbleMask (a b % 128) 1 ≠ 0))) ∧
    (∀ (x : Nat → Line) (k : Nat), ts ≠ td → s0 % 128 = 0 → 0 < elementCount ts → 0 < elementCount td → w.va = (d0 + 128 * k) % 2 ^ 56 →
      elementCount td * k < n → (∀ v, v < n → held ((s0 + 128 * (v / elementCount ts)) % 2 ^ 56) (x (v / elementCount ts), 0)) →
      State.copyLine o w = some (encodeLine td ((List.range (elementCount td)).map fun i =>
        let v := elementCount td * k + i
        if v < n then decodeElement ts (x (v / elementCount ts)) (v % elementCount ts) else .val false ⟨0, 0⟩), -1, 0))) ∧
  -- a line encoded from the values of its elements
  (∀ xs : List Exact,
    let x (i : Nat) : Exact := xs.getD i (.val false ⟨0, 0⟩)
    -- a block of values with scale byte e, and element n of a line with the value y
    let scale (vs : List Exact) (emax e : Nat) : Prop :=
      (.nan ∈ vs → e = 255) ∧
      (.nan ∉ vs → (∀ v ∈ vs, log2Floor v = none) → e = 127) ∧
      (.nan ∉ vs → ∀ v ∈ vs, ∀ k : Int, log2Floor v = some k → (∀ u ∈ vs, ∀ m : Int, log2Floor u = some m → m ≤ k) →
        (e : Int) = max 0 (min 254 (k - emax + 127)))
    let element (fmt : Nat) (l : Line) (n : Nat) (y : Exact) : Prop :=
      let e := (l.byte (n / 16)).toNat
      elementCode fmt l n = if e = 255 then 0 else valueCode fmt (y.scale2 (127 - (e : Int)))
    (∀ fmt, fmt ∈ [0, 3, 7, 8] → ∀ i, i < elementCount fmt → elementCode fmt (encodeLine fmt xs) i = valueCode fmt (x i)) ∧
    (∀ f, f ∈ [(1, 3), (4, 2), (5, 8), (6, 15)] → ∀ j, j < elementCount f.1 / 16 →
      scale ((List.range 16).map fun i => x (16 * j + i)) f.2 ((encodeLine f.1 xs).byte j).toNat ∧
      ∀ i, i < 16 → element f.1 (encodeLine f.1 xs) (16 * j + i) (x (16 * j + i))) ∧
    (∀ j, j < 8 →
      let l := encodeLine 2 xs
      let nan : Prop := ∃ i, i < 32 ∧ x (32 * j + i) = .nan
      (nan → (l.byte j).toNat = 255 ∧ ∀ g, g < 8 → sparseCode l (8 * j + g) = 0 ∧ elementCode 2 l (16 * j + 2 * g) = 0 ∧
        elementCode 2 l (16 * j + 2 * g + 1) = 0) ∧
      (¬ nan → ∃ at_ : Nat → Nat, (∀ i, i < 16 → storedPos l (16 * j + i) = some (at_ i)) ∧
        scale ((List.range 16).map fun i => x (at_ i)) 3 (l.byte j).toNat ∧
        (∀ i, i < 16 → element 2 l (16 * j + i) (x (at_ i))) ∧
        ∀ i p, i < 16 → p / 4 = 8 * j + i / 2 → (∀ k, k < 16 → at_ k ≠ p) →
          (x p).abs.lt (x (at_ i)).abs = true ∨ ((x (at_ i)).abs.lt (x p).abs = false ∧ at_ i < p))))

/-- R87, R90, R203, R205, R212, R213, R215, R216: a fault of the decode is known before any hold: `seamld` traps without
privilege and `xseam` without a binding; `seamld` refuses a request with its reason and index, the first that a limit gives
in the table's order, binds an image or unbinds an entry; `xseam` of an unbound number is SEAM_UNBOUND, and of a bound one
starts a run with cleared temporaries and the sources read. Where it rests on the model's own choices, these are log entries
16, 17, 74. -/
def Obligations.SeamInstructions : Prop :=
  -- the limits: reasons 0x01 to 0x0A
  (∀ (s : State) (c addr : Nat) (v : W32),
    let op := v.toNat / 2 ^ 29
    let cnt := v.toNat / 2 ^ 22 % 2 ^ 7
    let start := v.toNat / 2 ^ 9 % 2 ^ 13
    let b := (s.core c).bind (v.toNat / 2 ^ 6 % 8)
    let u (i : Nat) : Option Instr := decodeUop (BitVec.ofNat 64 (s.scratchNum c (addr + 8 * i) 8))
    -- word j is a loop of the words j + 1 to e, run at most k times
    let loopAt (j e k : Nat) : Prop := ∃ f a last n, u j = some (.uopLoop f a last n) ∧ last.toNat = e ∧ n.toNat = k
    let inBody (i e k : Nat) : Prop := ∃ j, j < cnt ∧ loopAt j e k ∧ j < i ∧ i ≤ e
    let badLoop (i : Nat) : Prop := ∃ e k, loopAt i e k ∧ ¬ (i < e ∧ e + 1 < cnt ∧ 1 ≤ k ∧ k ≤ 16 ∧
      ∀ j, i < j → j ≤ e → u j ≠ some .uopEnd ∧ (∀ d m, ¬ loopAt j d m) ∧ ∀ m q x y z, u j ≠ some (.uopShfl m q x y z))
    let badBranch (i : Nat) : Prop := ∃ z a t, u i = some (.uopBrf z a t) ∧ ¬ (i < t.toNat ∧ t.toNat < cnt ∧
      (∀ e k, inBody i e k → t.toNat ≤ e + 1) ∧ ((∀ e k, ¬ inBody i e k) → ∀ e k, ¬ inBody t.toNat e k))
    -- a sum in which a word of a body counts as often as its loop may run
    let charge (f : Option Instr → Nat) (n : Nat) : Prop := ∃ times : Nat → Nat,
      (∀ i e k, inBody i e k → times i = k) ∧ (∀ i, (∀ e k, ¬ inBody i e k) → times i = 1) ∧
      n = ((List.range cnt).map fun i => f (u i) * times i).sum
    let cost (x : Option Instr) : Nat := match x with
      | some (.uopFadd _ _ _ _ _) => 2
      | some (.uopFmul _ _ _ _ _) => 2
      | some (.uopFma _ _ _ _ _ _) => 2
      | some (.uopCvt _ _ _ _ _) => 2
      | some (.uopPack _ _ _ _ _ _) => 2
      | some (.uopShfl _ _ _ _ _) => 2
      | some (.uopLld _ _ _ _) => 4
      | _ => 1
    let load (x : Option Instr) : Nat := match x with
      | some (.uopLld _ _ _ _) => 1
      | _ => 0
    let store (x : Option Instr) : Nat := match x with
      | some (.uopLst _ _ _ _) => 1
      | _ => 0
    let bad : List Prop := [
      1 < op ∨ (op = 0 ∧ (cnt = 0 ∨ 64 < cnt)) ∨ (op = 1 ∧ (cnt ≠ 0 ∨ start ≠ 0)),
      b.state = .free,
      addr % 8 ≠ 0 ∨ 0x80000 < addr + 8 * cnt,
      ∀ r, AMap.find? (s.core c).regions b.ctx = some r → start < 1024 * r ∨ 1024 * r + 1024 < start + cnt,
      ∃ n i j, n < 64 ∧ ((s.core c).seamEntry b.ctx n).getLsbD 31 = true ∧ i < cnt ∧
        j < (((s.core c).seamEntry b.ctx n).extractLsb' 0 7).toNat ∧
        start + i = (((s.core c).seamEntry b.ctx n).extractLsb' 7 13).toNat + j,
      ∃ i, i < cnt ∧ u i = none,
      u (cnt - 1) ≠ some .uopEnd ∨ ∃ i, i + 1 < cnt ∧ u i = some .uopEnd,
      ∃ i, i < cnt ∧ (badLoop i ∨ badBranch i),
      ∃ n, charge cost n ∧ 512 < n,
      ∃ n, (charge load n ∧ 4 < n) ∨ (charge store n ∧ 2 < n)]
    let refuses (why : Nat) : Prop := ∃ i, s.seamFault c addr v = some (why, i)
    -- OP 1 makes the first two checks only
    (∀ w, w < 10 → (op = 1 → w < 2) → bad.getD w False → (∀ k, k < w → ¬ bad.getD k False) → refuses (w + 1)) ∧
    ((∀ w, w < 10 → (op = 1 → w < 2) → ¬ bad.getD w False) → s.seamFault c addr v = none) ∧
    (∀ i, s.seamFault c addr v = some (6, i) → u i = none ∧ ∀ j, j < i → u j ≠ none) ∧
    ∀ i, s.seamFault c addr v = some (8, i) → (badLoop i ∨ badBranch i) ∧ ∀ j, j < i → ¬ (badLoop j ∨ badBranch j)) ∧
  (∀ (s : State) (c n len : Nat) (g : Guard) (a b : Reg), s.Alone c n len → (s.bindOf c n).priv = false →
    exec (.seamld g a b) s = .next (s.takeTrap c n (illegalTrap .privilege)) ∧
    (s.registerBad c n (.seamld g a b) = false → s.decodeFault c n (.seamld g a b) = some .privilege)) ∧
  (∀ (s : State) (c n len : Nat) (g : Guard) (a b : Reg), s.Runs c n len g [a.toNat, b.toNat] → (s.bindOf c n).priv = true →
    let u := s.slot c n
    let v := u.reg b.toNat
    let addr := (u.reg a.toNat).toNat
    let ctx := ((s.core c).bind (sldBind v)).ctx
    (∀ why i, s.seamFault c addr v = some (why, i) → exec (.seamld g a b) s =
      .next (s.takeTrap c n { cause := .seamResource, val := BitVec.ofNat 64 (why + 256 * i) })) ∧
    (s.seamFault c addr v = none → sldOp v = 1 → ∃ t, exec (.seamld g a b) s = .next t ∧ t.mem = s.mem ∧
      seamBound ((t.core c).seamEntry ctx (sldSeam v)) = false ∧ t.slot c n = u.goto (pcAdd u.pc len)) ∧
    (s.seamFault c addr v = none → sldOp v = 0 → (s.core c).runsIn ctx (sldStart v) (sldCount v) = true →
      exec (.seamld g a b) s = .next s) ∧
    (s.seamFault c addr v = none → sldOp v = 0 → (s.core c).runsIn ctx (sldStart v) (sldCount v) = false →
      ∃ t, exec (.seamld g a b) s = .next t ∧ t.mem = s.mem ∧ t.slot c n = u.goto (pcAdd u.pc len) ∧
        (t.core c).seamEntry ctx (sldSeam v) = BitVec.ofNat 32 (2 ^ 31 + sldStart v * 2 ^ 7 + sldCount v) ∧
        ∀ i, i < sldCount v → (t.core c).cword (sldStart v + i) = BitVec.ofNat 64 (s.scratchNum c (addr + 8 * i) 8))) ∧
  (∀ (s : State) (c n len : Nat) (g : Guard) (k : BitVec 6) (d a b e : Reg) (p : PredNo) (imm : W32),
    let u := s.slot c n
    let x := (s.core c).seamEntry (s.bindOf c n).ctx k.toNat
    (s.Alone c n len → x.getLsbD 31 = false → exec (.xseam g k d a b e p imm) s = .next (s.takeTrap c n (illegalTrap .seamUnbound)) ∧
      (s.registerBad c n (.xseam g k d a b e p imm) = false →
        s.decodeFault c n (.xseam g k d a b e p imm) = some .seamUnbound)) ∧
    (s.Runs c n len g [a.toNat, b.toNat, e.toNat, d.toNat, d.toNat + 1] → x.getLsbD 31 = true →
      ∃ t r, exec (.xseam g k d a b e p imm) s = .next t ∧ t.mem = s.mem ∧ t.slot c n = { u with hold := .seam, seam := some r } ∧
        r.idx = 0 ∧ r.start = (x.extractLsb' 7 13).toNat ∧ r.q = List.replicate 8 0 ∧ r.buf = [] ∧ r.lo = none ∧ r.hi = none ∧
        r.pr = none ∧ r.loop = none ∧ r.d = d ∧ r.p = p ∧
        r.srcs = [u.reg a.toNat, u.reg b.toNat, u.reg e.toNat, u.reg d.toNat, u.reg (d.toNat + 1), imm] ∧
        r.words = (List.range (x.extractLsb' 0 7).toNat).map fun i => (s.core c).cword (r.start + i)))

/-- R207, R208: the micro-ops that write a temporary, with the results of the X forms of their names. -/
def Obligations.MicroOpArithmetic : Prop :=
  let f32 (x : Exact) (rm : RM) : W32 := BitVec.ofNat 32 (x.round fp32 rm)
  let ex (x : W32) : Exact := fp32.decode x.toNat
  (∀ q a b k, SeamWrites (.uopAdd q a b k) q fun r => r.sel a k + r.sel b k) ∧
  (∀ q a b k, SeamWrites (.uopSub q a b k) q fun r => r.sel a k - r.sel b k) ∧
  (∀ q a b k, SeamWrites (.uopMul q a b k) q fun r => r.sel a k * r.sel b k) ∧
  (∀ q a b c k, SeamWrites (.uopMad q a b c k) q fun r => r.sel a k * r.sel b k + r.sel c k) ∧
  (∀ q a b k, SeamWrites (.uopAnd q a b k) q fun r => r.sel a k &&& r.sel b k) ∧
  (∀ q a b k, SeamWrites (.uopOr q a b k) q fun r => r.sel a k ||| r.sel b k) ∧
  (∀ q a b k, SeamWrites (.uopXor q a b k) q fun r => r.sel a k ^^^ r.sel b k) ∧
  (∀ q a b k, SeamWrites (.uopShl q a b k) q fun r => if (r.sel b k).toNat < 32 then r.sel a k <<< (r.sel b k).toNat else 0) ∧
  (∀ q a b k, SeamWrites (.uopShr false q a b k) q fun r => if (r.sel b k).toNat < 32 then r.sel a k >>> (r.sel b k).toNat else 0) ∧
  (∀ q a b k, SeamWrites (.uopShr true q a b k) q fun r => (r.sel a k).sshiftRight (min (r.sel b k).toNat 31)) ∧
  (∀ q a b c k, SeamWrites (.uopSel q a b c k) q fun r => if r.sel c k ≠ 0 then r.sel a k else r.sel b k) ∧
  (∀ t q a b k, SeamWrites (.uopCmp t q a b k) q fun r =>
    let x := r.sel a k
    let y := r.sel b k
    let z : Bool := match t with
      | .eq => decide (x = y)
      | .ne => decide (x ≠ y)
      | .ltI => decide (x.toInt < y.toInt)
      | .leI => decide (x.toInt ≤ y.toInt)
      | .ltN => decide (x.toNat < y.toNat)
      | .leN => decide (x.toNat ≤ y.toNat)
      | .ltF => (ex x).lt (ex y)
      | .leF => ex x != .nan && ex y != .nan && ((ex x).lt (ex y) || (ex x).eq (ex y))
    if z then 1 else 0) ∧
  (∀ rm q a b k, SeamWrites (.uopFadd rm q a b k) q fun r => f32 ((ex (r.sel a k)).add rm (ex (r.sel b k))) rm) ∧
  (∀ rm q a b k, SeamWrites (.uopFmul rm q a b k) q fun r => f32 ((ex (r.sel a k)).mul (ex (r.sel b k))) rm) ∧
  (∀ rm q a b c k, SeamWrites (.uopFma rm q a b c k) q fun r =>
    f32 (((ex (r.sel a k)).mul (ex (r.sel b k))).add rm (ex (r.sel c k))) rm) ∧
  (∀ q a b k, SeamWrites (.uopFmin q a b k) q fun r => BitVec.ofNat 32 (fminCode fp32 (r.sel a k).toNat (r.sel b k).toNat)) ∧
  (∀ q a b k, SeamWrites (.uopFmax q a b k) q fun r => BitVec.ofNat 32 (fmaxCode fp32 (r.sel a k).toNat (r.sel b k).toNat)) ∧
  (∀ t q a b k, SeamWrites (.uopLmul t q a b k) q fun r => lmulWord t (r.sel a k) (r.sel b k)) ∧
  (∀ t el q a k, SeamWrites (.uopLtab t el q a k) q fun r =>
    ldecWord t (BitVec.ofNat 32 ((lnsElems t (r.sel a k)).getD el.toNat 0))) ∧
  (∀ rm q a b k, SeamWrites (.uopCvt (.i32fp32 rm) q a b k) q fun r =>
    BitVec.ofInt 32 ((ex (r.sel a k)).toInt rm (-2 ^ 31) (2 ^ 31 - 1))) ∧
  (∀ rm q a b k, SeamWrites (.uopCvt (.fp32i32 rm) q a b k) q fun r => f32 (Exact.ofInt (r.sel a k).toInt) rm) ∧
  (∀ f q a b k, SeamWrites (.uopCvt f q a b k) q fun r => ucvt f (r.sel a k) (r.sel b k)) ∧
  (∀ rm q a b k, SeamWrites (.uopPack .bf16 rm q a b k) q fun r =>
    BitVec.ofNat 32 ((ex (r.sel a k)).round bf16 rm + 65536 * (ex (r.sel b k)).round bf16 rm)) ∧
  (∀ f rm q a b k, SeamWrites (.uopPack f rm q a b k) q fun r => upack f rm (r.sel a k) (r.sel b k)) ∧
  (∀ (r : SeamRun) (v : Sel) (k : W32), r.sel v k =
    if v.toNat < 8 then r.q.getD v.toNat 0 else if v.toNat < 14 then r.srcs.getD (v.toNat - 8) 0 else if v.toNat = 14 then k else 0)

/-- R204, R209 to R213: line micro-ops, `shfl`, branches, loops, writes of results, the commit at `end`, and the
poisoned word that abandons a seam with no other effect. That a `shfl` which reads a poisoned register of a lane that runs no
seam parks its own lane is the model's reading of R300, log entry 76. Where it rests on the model's own choices, these are log
entries 18, 62, 76. -/
def Obligations.MicroOpFlow : Prop :=
  (∀ (s : State) (c n len : Nat) (r : SeamRun), s.Alone c n len → (s.slot c n).seam = some r →
    (s.core c).cstorePoison.get false (r.start + r.idx) = false →
    let u := s.slot c n
    -- the field K of a micro-op without a K operand of its own
    let lineWord (off : BitVec 7) (la : LineOp) : W32 := BitVec.ofNat 32 (256 * off.toNat + la.reg.toNat + match la.way with
      | some w => 64 + 16 * w.toNat
      | none => 0)
    let goes (i : Instr) (x : SeamRun) : Prop := ∃ t, exec i s = .next t ∧ t.mem = s.mem ∧ t.slot c n = { u with seam := some x }
    (∀ z a (to_ : BitVec 6), r.loop = none →
      goes (.uopBrf z a to_) { r with idx := if (r.sel a (BitVec.ofNat 32 to_.toNat) = 0) = (z = true) then to_.toNat else r.idx + 1 }) ∧
    (∀ b a (last : BitVec 6) (cnt : BitVec 5), r.loop = none →
      let times := if b then min (r.sel a (BitVec.ofNat 32 (256 * last.toNat + cnt.toNat))).toNat cnt.toNat else cnt.toNat
      goes (.uopLoop b a last cnt) (if times = 0 then { r with idx := last.toNat + 1 }
        else { r with idx := r.idx + 1, loop := some (r.idx + 1, last.toNat, times) })) ∧
    (∀ a k, goes (.uopWr .vd a k) (SeamRun.after { r with lo := some (r.sel a k) })) ∧
    (∀ a k, goes (.uopWr .vdh a k) (SeamRun.after { r with hi := some (r.sel a k) })) ∧
    (∀ a k, goes (.uopWr .pd a k) (SeamRun.after { r with pr := some (decide (r.sel a k ≠ 0)) })) ∧
    (∀ (q : QReg) a (off : BitVec 7) (la : LineOp) (k : Nat) (w : Way),
      let o := ((r.sel a (lineWord off la)).toNat + off.toNat) % 128
      s.useWay c n la 7 = .ok k w → w.rd = true → w.kind ≠ .home → w.sum = false → r.buf = [] →
      (s.lineImage c w).2.1 &&& nibbleMask o 4 = 0 →
      goes (.uopLld q a off la) (SeamRun.after { r with q := r.q.set q.toNat (BitVec.ofNat 32 ((s.lineImage c w).1.read o 4)) })) ∧
    (∀ a b (off : BitVec 7) (la : LineOp) (k : Nat) (w : Way),
      let o := ((r.sel a (lineWord off la)).toNat + off.toNat) % 128
      s.useWay c n la 7 = .ok k w → w.wr = true → w.kind ≠ .home → w.sum = false →
      goes (.uopLst a b off la) (SeamRun.after { r with buf := r.buf ++ [{ la := la, way := k, off := o, data := r.sel b (lineWord off la) }] })) ∧
    (∀ (q : QReg) a b k, (s.bindOf c n).width ≠ 1 → 32 ≤ (r.sel b k).toNat →
      goes (.uopShfl .idx q a b k) { r with q := r.q.set q.toNat (r.sel a k), idx := r.idx + 1 }) ∧
    (∀ (m : Nat) (x : SeamRun) (q : QReg) a b k, (s.bindOf c n).width ≠ 1 → m / 32 = n / 32 → (r.sel b k).toNat = m % 32 →
      (s.slot c m).seam = some x → x.group = r.group → x.idx = r.idx → (s.core c).seamVals = [] →
      goes (.uopShfl .idx q a b k) { r with q := r.q.set q.toNat (x.sel a k), idx := r.idx + 1 }) ∧
    -- a lane that runs no seam supplies its stored register; a poisoned one parks the lane that reads it
    (∀ (m g : Nat) (q : QReg) a b k, (s.bindOf c n).width ≠ 1 → m / 32 = n / 32 → (r.sel b k).toNat = m % 32 →
      (s.slot c m).seam = none → (∀ v ∈ (s.core c).seamVals, ¬ (v.1 = r.group ∧ v.2.1 = m)) → 8 ≤ a.toNat → a.toNat < 13 →
      [r.a.toNat, r.b.toNat, r.c.toNat, r.d.toNat, r.d.toNat + 1][a.toNat - 8]? = some g →
      if (s.slot c m).poisoned g then
        let gone := s.onCore c fun x => { x with seamVals := x.seamVals.filter fun v => !(v.1 == r.group && v.2.1 == n) }
        exec (.uopShfl .idx q a b k) s = .next ((gone.endSeam c n r).takeTrap c n { cause := .poison, acc := 9, val := BitVec.ofNat 64 g })
      else goes (.uopShfl .idx q a b k) { r with q := r.q.set q.toNat ((s.slot c m).reg g), idx := r.idx + 1 }) ∧
    -- a value is kept for a word that the lane passes, but not where it ends early
    (∀ z a (to_ : BitVec 6) (i : Nat) (q : QReg) (x b : Sel) (k : W32) (w : W64) (mode : ShflMode), r.loop = none →
      to_.toNat = i + 1 → r.idx < i → r.words[i]? = some w → decodeUop w = some (.uopShfl mode q x b k) →
      (r.sel a (BitVec.ofNat 32 to_.toNat) = 0) = (z = true) →
      ∃ t, exec (.uopBrf z a to_) s = .next t ∧ (if i + 2 = r.words.length then (t.core c).seamVals = (s.core c).seamVals
        else (r.group, n, i, r.sel x k) ∈ (t.core c).seamVals)) ∧
    (r.buf = [] → ∃ t, exec .uopEnd s = .next t ∧ t.mem = s.mem ∧
      let v1 := match r.lo with
        | some v => u.setReg r.d.toNat v
        | none => u
      let v2 := match r.hi with
        | some v => v1.setReg (r.d.toNat + 1) v
        | none => v1
      let v3 := match r.pr with
        | some v => v2.setPred r.p v
        | none => v2
      t.slot c n = { v3.goto (pcAdd u.pc 12) with seam := none, hold := .free }) ∧
    (∀ (b : SeamStore) (k : Nat) (w : Way), r.buf = [b] → b.off < 128 → s.useWay c n b.la 7 = .ok k w → w.wr = true →
      (w.kind = .scratch ∨ ∃ f x, w.kind = .frame f ∧ AMap.find? (s.core c).frames f = some x) → w.sum = false →
      ∃ t, exec .uopEnd s = .next t ∧ t.mem = s.mem ∧ (t.lineImage c w).1.read b.off 4 = b.data.toNat ∧
        (t.slot c n).seam = none ∧ (t.slot c n).pc = pcAdd u.pc 12)) ∧
  (∀ (s : State) (c n len : Nat) (r : SeamRun), s.Alone c n len → (s.slot c n).seam = some r → (s.slot c n).masked = false →
    (s.core c).cstorePoison.get false (r.start + r.idx) = true →
    ∃ t, exec .uopEnd s = .next t ∧ t.mem = s.mem ∧ (t.slot c n).seam = none ∧ (t.slot c n).regs = (s.slot c n).regs ∧
      (t.slot c n).pc = (s.slot c n).pc ∧ (t.slot c n).tcause = 0x115 ∧ (t.slot c n).tval = BitVec.ofNat 64 (r.start + r.idx))

/-! The machine as a whole: reset, bring-up, the window, commands, scheduling, links, hand-over. -/

/-- R224, R239, R247, R249, R318, R319: what a power-on reset leaves: PHASE 0x00, the registers of the window at the
values that their rules give, every stack at its reset owner, every module training at x64, no core bound, `%clock` 0;
and the state is safe. Where it rests on the model's own choices, these are log entries 4, 5, 36. -/
def Obligations.ResetValues : Prop :=
  let s := State.reset
  s.Safe ∧ s.phase = 0x00 ∧ s.failst = 0 ∧ s.rreason = 0 ∧ s.clock = 0 ∧
  s.register 0x8 = 0 ∧ s.register 0x20 = 0 ∧ s.register 0x28 = 0 ∧ s.register 0x40 = 1500 ∧ s.register 0x48 = 0x6E5F ∧
  s.register 0x58 = 0 ∧ s.register 0x60 = 0x271003E80064 ∧ s.register 0x30000 = 0 ∧
  (∀ p, p < 16 → s.register (0x30008 + 8 * p) = 0) ∧
  (∀ k, k < 8 → s.register (0x20000 + 8 * k) = if k < 4 then 0 else 1) ∧
  (∀ m, m < 24 → s.register (0x21000 + 8 * m) = 0) ∧
  ∀ c, c < 192 → s.register (0x10000 + 8 * c) = 0x8000000 ∧ (s.core c).slots = [] ∧ (s.core c).binds = [] ∧ (s.core c).frames = [] ∧
    ∀ n, (s.slot c n).occupied = false

/-- R5, R319: memory keeps its canonical form and PHASE stays one that is listed, whatever a step does. -/
def Obligations.StepKeepsSafe : Prop := ∀ s t : State, s.Safe → step s = .next t → t.Safe

/-- R131, R132, R225, R269, R323: no thread instruction and no micro-op changes memory at the homes, another core, or
what the device and its management hold: that is for the device's own steps. -/
def Obligations.ThreadsLeaveMemory : Prop :=
  ∀ (i : Instr) (s t : State), i.isDeviceStep = false → exec i s = .next t →
    t.mem = s.mem ∧ t.memPoison = s.memPoison ∧ t.sums = s.sums ∧ t.phase = s.phase ∧ t.tick = s.tick ∧ t.arbiters = s.arbiters ∧
    t.routes = s.routes ∧ t.devno = s.devno ∧ t.peers = s.peers ∧ t.contexts = s.contexts ∧ t.queues = s.queues ∧
    t.launches = s.launches ∧ t.commands = s.commands ∧ t.messages = s.messages ∧ t.prod = s.prod ∧ t.msgbase = s.msgbase ∧
    ∀ d, d ≠ s.bundle.core → t.core d = s.core d

/-- R256, R257, R317, R318, R323, R326: the writes of the register window, each with its clamp; a write of an offset that
the table of R317 does not list as writable is dropped, and answered; after a fatal error only RESET is taken; a read
answers with the register's bytes. An access acts once: behind what its channel has under way, while the window has
room; one that the window knows only has its reply sent again. Where it rests on the model's own choices, these are log
entry 64. -/
def Obligations.RegisterWindow : Prop :=
  -- the access is new, and nothing stands in its way
  let open_ (s : State) (chan seq : Nat) : Prop := (s.link 16).discarding = false ∧ s.outerKnown chan seq = false ∧
    s.outerRoom chan = true ∧ s.outerPending chan = false
  let writes : List (RegWrite → Instr) := [.msgbaseWrite, .msgidxConsWrite, .plimWrite, .tlimWrite, .dlineWrite, .cmdpaWrite]
  (∀ (s : State) (chan seq off : Nat), open_ s chan seq → ∃ t, exec (.hostRegisterRead chan seq off) s = .next t ∧
    t.outerWindow = s.outerWindow ++
      [(chan, BitVec.ofNat 16 seq, 0, (List.range 8).map fun i => (s.register off).extractLsb' (8 * i) 8)] ∧
    t.mem = s.mem ∧ t.cores = s.cores ∧ ∀ o, o < 0x21000 → t.register o = s.register o) ∧
  (∀ (s : State) (chan seq off : Nat) (v : W64), off ∉ [0x10, 0x18, 0x20, 0x28, 0x40, 0x48, 0x60] → open_ s chan seq →
    exec (.hostRegisterWrite off ⟨chan, seq, v⟩) s = .next (s.noteOuter chan seq 0 [])) ∧
  (∀ (s : State) (chan seq : Nat) (v : W64), s.phase ≠ 0xF2 → open_ s chan seq →
    let n := v.toNat % 32
    let gives (i : RegWrite → Instr) (u : State) : Prop := exec (i ⟨chan, seq, v⟩) s = .next (u.noteOuter chan seq 0 [])
    gives .msgbaseWrite { s with msgbase := BitVec.ofNat 64 (v.toNat / 4096 * 4096 + if 4 ≤ n ∧ n ≤ 16 then n else 0) } ∧
    gives .msgidxConsWrite { s with cons := BitVec.ofNat 32 (v.toNat / 2 ^ 32) } ∧
    gives .plimWrite { s with plim := BitVec.ofNat 16 (max 300 (min 1500 (v.toNat % 2 ^ 16))) } ∧
    gives .tlimWrite { s with soft := BitVec.ofNat 8 (max 60 (min 105 (v.toNat % 2 ^ 8))) } ∧
    (∃ d : W64, gives .dlineWrite { s with dline := d } ∧ d.extractLsb' 48 16 = 0 ∧
      ∀ k, k < 3 → d.extractLsb' (16 * k) 16 = if v.extractLsb' (16 * k) 16 = 0 then 1 else v.extractLsb' (16 * k) 16) ∧
    (s.commands.length < 64 → gives .cmdpaWrite { s with commands := s.commands ++
      [{ pa := v.toNat, done := false, code := 0, tag := 0, result := 0, awaits := none }] }) ∧
    (64 ≤ s.commands.length → gives .cmdpaWrite { s with cdrop := BitVec.ofNat 8 (min 255 (s.cdrop.toNat + 1)) })) ∧
  (∀ (s : State) (chan seq : Nat) (v : W64), s.phase = 0xF2 → open_ s chan seq →
    ∀ i ∈ writes, exec (i ⟨chan, seq, v⟩) s = .next (s.noteOuter chan seq 0 [])) ∧
  (∀ (s : State) (chan seq : Nat) (v : W64), (s.link 16).discarding = false →
    ∀ i ∈ writes, (s.outerKnown chan seq = true → exec (i ⟨chan, seq, v⟩) s = .next (s.answerAgain chan seq)) ∧
      (s.outerKnown chan seq = false → (s.outerRoom chan = false ∨ s.outerPending chan = true) → exec (i ⟨chan, seq, v⟩) s = .next s)) ∧
  (∀ (s : State) (chan seq : Nat) (v : W64), open_ s chan seq → if v.toNat = 0x52534554 then
      ∃ t, exec (.deviceReset ⟨chan, seq, v⟩) s = .next t ∧ t.phase = 0 ∧ t.rreason = 1 ∧ t.mem = s.mem ∧ t.cores = [] ∧ t.reqs = [] ∧
        t.commands = [] ∧ t.contexts = [] ∧ t.msgbase = 0 ∧ t.plim = 1500 ∧ t.outerWindow = []
    else exec (.deviceReset ⟨chan, seq, v⟩) s = .next (s.noteOuter chan seq 0 [])) ∧
  ∀ (s : State) (power energy t0 t1 : Nat), ∃ t, exec (.powerThermalReading power energy t0 t1) s = .next t ∧
    t.register 0x50 = BitVec.ofNat 64 (t1 % 256 * 256 + t0 % 256) ∧ t.register 0x58 = s.register 0x58 + BitVec.ofNat 64 energy ∧
    t.overPower = decide (s.plim.toNat < power) ∧ t.hot.getLsbD 0 = decide (s.soft.toNat < t0) ∧
    t.hot.getLsbD 1 = decide (s.soft.toNat < t1) ∧ t.mem = s.mem ∧ t.cores = s.cores

/-- R32, R237, R247, R319, R320, R326: the phases of bring-up: the boot ROM's verdict on the images, each of which runs when
both signatures verify and its version is at least the fused one, with their digests recorded; the zeroing of memory (but
for the dump after a RESET), the training of the modules with the width of each, and the start of Knanos, which may move
stacks before any bind, and from which `%clock` counts; and the thermal trip, once a die's readings have stood at CRIT or
above for 1 ms, whatever the phase. Where it rests on the model's own choices, these are log entries 2, 33. -/
def Obligations.BringUp : Prop :=
  let runs (k : Nat) : Prop := Config.imageRsa k = true ∧ Config.imageSlh k = true ∧ Config.fusedVersion ≤ Config.imageVersion k
  (∀ s : State, s.phase = 0x00 → exec .powerOn s = .next { s with phase := 0x01 }) ∧
  (∀ s : State, s.phase = 0x01 → ∃ m, (∀ k, 1 ≤ k → k ≤ 12 → AMap.find? m k = some (Config.imageDigest k)) ∧
    AMap.find? m 13 = some Config.fusedDigest ∧
    ((∀ k, 1 ≤ k → k ≤ 12 → runs k) → exec .powerOn s = .next { s with phase := 0x02, phaseAt := s.time, measured := m }) ∧
    ∀ k, 1 ≤ k → k ≤ 12 → ¬ runs k → (∀ j, 1 ≤ j → j < k → runs j) →
      exec .powerOn s = .next { s with phase := 0xF0, failst := BitVec.ofNat 8 k, measured := m }) ∧
  (∀ s : State, s.phase = 0x02 → s.Safe →
    (∃ t, exec (.stackTraining none) s = .next t ∧ t.phase = 0x03 ∧ t.cores = s.cores ∧
      ∀ a, t.byteAt a = if s.rreason = 1 ∧ 0x0000000BF0000000 ≤ a ∧ a < 0x0000000C00000000 then s.byteAt a else 0) ∧
    ∀ k, k < 8 → exec (.stackTraining (some k)) s = .next { s with phase := 0xF1, failst := BitVec.ofNat 8 k }) ∧
  (∀ (s : State) (low high : List Nat), s.phase = 0x03 → s.modules = [] → s.reqs = [] →
    let down (m : Nat) : Bool := low.contains m && high.contains m
    ∃ t, exec (.d2dTraining low high) s = .next t ∧ t.mem = s.mem ∧
      (∀ m, m < 24 → (t.module m).state = (if down m then .down else .active) ∧
        (t.module m).width = if down m then 3 else if high.contains m then 1 else if low.contains m then 2 else 0) ∧
      t.phase = if (List.range 24).any fun m => down m && down ((m + 12) % 24) then 0xF3 else 0x04) ∧
  (∀ s : State, s.phase = 0x04 →
    ∀ moved : BitVec 8, (∃ t, exec (.knanosStart (some moved)) s = .next t ∧ t.phase = 0x05 ∧ t.clock = 0 ∧ t.mem = s.mem ∧
      ∀ k, k < 8 → (t.arbiter k).owner = (if (k < 4) = (moved.getLsbD k = false) then 0 else 1) ∧
        ∀ die, die < 2 → t.route die k = (t.arbiter k).owner) ∧
    exec (.knanosStart none) s = .next { s with phase := 0xF0, failst := 0xFF }) ∧
  (∀ (s : State) (power energy t0 t1 : Nat), ∃ t, exec (.powerThermalReading power energy t0 t1) s = .next t ∧
    t.trip0 = (if t0 < 110 then none else if s.trip0 = none then some s.time else s.trip0) ∧
    t.trip1 = (if t1 < 110 then none else if s.trip1 = none then some s.time else s.trip1)) ∧
  ∀ (s : State) (die at_ : Nat),
    ((if die = 0 then s.trip0 else s.trip1) = none → exec (.thermalTrip die) s = .next s) ∧
    ((if die = 0 then s.trip0 else s.trip1) = some at_ → s.time < at_ + 1800000 → exec (.thermalTrip die) s = .next s) ∧
    ((if die = 0 then s.trip0 else s.trip1) = some at_ → at_ + 1800000 ≤ s.time → ∃ t, exec (.thermalTrip die) s = .next t ∧
      t.phase = 0 ∧ t.rreason = 2 ∧ t.mem = s.mem ∧ t.cores = [])

/-- R204, R255, R299, R301, R302: an uncorrectable error poisons what it struck, or drops a code line; a fatal error
stops every bind, enters PHASE 0xF2, empties the command queue, takes away what writes of the outside were still to be
performed, writes the dump (the count of fatal errors, the clock, the
reason word, the status of every arbiter and module) and nothing else in memory, and tells the host when the ring has
room; a module that goes down while its alternate is down raises one in that same step; a recovered DCL link goes on at
x16 or x8. Where it rests on the model's own choices, these are log entries 8 (no
fatal error outside PHASE 0x05), 27. -/
def Obligations.Errors : Prop :=
  let fails (i : Instr) (s : State) (reason : Nat) : Prop := ∃ t, exec i s = .next t ∧ t.phase = 0xF2 ∧ t.commands = [] ∧
    (∀ c b x, AMap.find? (t.core c).binds b = some x → x.stop = true) ∧
    (∀ r ∈ t.reqs, ∀ chan seq op, r.kind = .outer chan seq op → State.outerWrites op = true → State.unperformed r.stage = false) ∧
    (s.Safe → ∀ a, a < 0x0000000BF0000000 ∨ 0x0000000C00000000 ≤ a → t.byteAt a = s.byteAt a) ∧
    (s.Safe →
      let at_ (a : Nat) : Nat := Memory.read t.mem (0x0000000BF0000000 + a) 8
      at_ 0 = (s.fatals + 1).toNat ∧ at_ 8 = s.clock % 2 ^ 64 ∧ at_ 16 = reason ∧
      (∀ k, k < 8 → at_ (0x1000 + 64 * k) = (s.arbiter k).status.toNat) ∧
      ∀ m, m < 24 → at_ (0x2000 + 64 * m) = ((s.module m).status m).toNat) ∧
    -- the fatal message: discarded with no ring or a full one; while the window of its source is full it waits
    (s.msgbase.toNat % 32 = 0 ∨ 2 ^ (s.msgbase.toNat % 32) ≤ (s.prod - s.cons).toNat → t.prod = s.prod ∧ t.messages = []) ∧
    (s.msgbase.toNat % 32 ≠ 0 → (s.prod - s.cons).toNat < 2 ^ (s.msgbase.toNat % 32) →
      (s.messagesOut < 1024 → s.Posts t (-1) (BitVec.ofNat 64 reason) ∧ t.messages = []) ∧
      (1024 ≤ s.messagesOut → t.prod = s.prod ∧ t.messages = [{ w0 := -1, w1 := BitVec.ofNat 64 reason, lrec := none }]))
  (∀ (s : State) (die part : Nat), s.phase = 0x05 →
    let word (kind d p : Nat) : Nat := kind + 256 * (d % 256) + 65536 * (p % 256)
    fails (.fatalError 1 die part) s (word 1 die part) ∧ fails (.fatalError 2 die part) s (word 2 die part) ∧
    fails .dclLinkLoss s (word 4 0 0) ∧ fails (.managementCoreTimeout die) s (word 5 die 0)) ∧
  -- a module goes down while its alternate is down
  (∀ (s : State) (m : Nat), s.phase = 0x05 → m < 24 → (s.module m).state = .retraining → (s.module ((m + 12) % 24)).state = .down →
    ∃ t, exec (.moduleRetrainComplete m false false) s = .next t ∧ t.phase = 0xF2 ∧ t.commands = [] ∧ (t.module m).state = .down ∧
      (∀ c b x, AMap.find? (t.core c).binds b = some x → x.stop = true) ∧
      (s.Safe → (∀ a, a < 0x0000000BF0000000 ∨ 0x0000000C00000000 ≤ a → t.byteAt a = s.byteAt a) ∧
        Memory.read t.mem 0x0000000BF0000010 8 = 3 + 65536 * m) ∧
      (s.msgbase.toNat % 32 ≠ 0 → (s.prod - s.cons).toNat < 2 ^ (s.msgbase.toNat % 32) → s.messagesOut < 1024 →
        (∀ r ∈ s.reqs, r.via ≠ some m) → s.Posts t (-1) (BitVec.ofNat 64 (3 + 65536 * m)))) ∧
  (∀ (s : State) (kind die part : Nat), s.phase ≠ 0x05 ∨ (kind ≠ 1 ∧ kind ≠ 2) → exec (.fatalError kind die part) s = .next s) ∧
  (∀ (s : State) (die : Nat), s.phase ≠ 0x05 →
    exec .dclLinkLoss s = .next s ∧ exec (.managementCoreTimeout die) s = .next s) ∧
  (∀ (s : State) (x8 : Bool), exec (.dclRecovery x8) s = .next { s with dclWide := !x8 }) ∧
  (∀ (s : State) (c n r : Nat), c < 192 → n < 2048 → r < 256 → ∃ t, exec (.uncorrectableError (.register c n r)) s = .next t ∧
    t.mem = s.mem ∧ (t.slot c n).poisoned r = true ∧ (t.slot c n).regs = (s.slot c n).regs ∧
    ∀ q, q ≠ r → (t.slot c n).poisoned q = (s.slot c n).poisoned q) ∧
  (∀ (s : State) (c f w : Nat) (x : Frame), w < 16 → AMap.find? (s.core c).frames f = some x →
    ∃ t, exec (.uncorrectableError (.frame c f w)) s = .next t ∧ t.mem = s.mem ∧
      AMap.find? (t.core c).frames f = some { x with poison := x.poison ||| nibbleMask (8 * w) 8 }) ∧
  (∀ (s : State) (c w : Nat), c < 192 → 8 * w < 0x80000 → ∃ t, exec (.uncorrectableError (.scratch c w)) s = .next t ∧
    t.mem = s.mem ∧ (t.core c).scratch = (s.core c).scratch ∧ ∀ i, i < 8 → (t.core c).scratchPoison.get false (8 * w + i) = true) ∧
  (∀ (s : State) (a : Nat), backed (16 * a) = true → ∃ t, exec (.uncorrectableError (.home a)) s = .next t ∧ t.mem = s.mem ∧
    ∀ i, i < 16 → t.memPoison.get 0 (16 * a + i) = 3) ∧
  (∀ (s : State) (c key : Nat), ∃ t, exec (.uncorrectableError (.icache c key)) s = .next t ∧ t.mem = s.mem ∧
    AMap.find? (t.core c).icache key = none) ∧
  ∀ (s : State) (c w : Nat), c < 192 → w < 8192 → ∃ t, exec (.uncorrectableError (.controlStore c w)) s = .next t ∧
    t.mem = s.mem ∧ (t.core c).cstorePoison.get false w = true

/-- R193, R247, R249, R258, R293, R296, R306, R310, R314, R322 to R325, R358: each management command ends with result
1 where its parameters break R358, 2 where the state refuses it, else with its effect and result 0; an unknown CODE
ends with 3; the reply and the messages go to the ring. That module up gives x64 to a module both of whose halves train is the
model's choice, log entry 77: R247 says only which half failing gives which width. Where it rests on the model's own choices,
these are log entries 22, 29, 30, 37, 38, 77. -/
def Obligations.Commands : Prop :=
  let zeros (l : Line) (last : Nat) : Prop := ∀ i, i < 128 → (4 ≤ i ∧ i < 8) ∨ last ≤ i → l.byte i = 0
  let refuses (i : Instr) (s : State) (l : Line) (result : Nat) : Prop :=
    ∃ t, exec i s = .next t ∧ s.EndsCommand t l result 0 ∧ t.mem = s.mem ∧ t.queues = s.queues ∧ t.contexts = s.contexts
  (∀ (s : State) (l : Line), s.commandDue 0x01 = some l →
    let q : Queue := { ctx := l.read 8 8, ring := l.read 16 8, s := l.read 24 8, tail := l.read 32 8, head := l.read 40 8,
                       seen := 0, next := 0, done := 0, own := false, polled := s.clock }
    let good : Prop := zeros l 48 ∧ q.ctx < 256 ∧ State.paOk q.ring 128 = true ∧ 4 ≤ q.s ∧ q.s ≤ 16 ∧ State.paOk q.tail 8 = true ∧
      State.paOk q.head 8 = true
    let free : Prop := (s.context q.ctx).registered = true ∧ s.queues.length < 1024
    (good → free → ∃ t, exec .registerLaunchQueue s = .next t ∧ s.EndsCommand t l 0 0 ∧ t.mem = s.mem ∧ t.queues = s.queues ++ [q]) ∧
    (¬ good → refuses .registerLaunchQueue s l 1) ∧ (good → ¬ free → refuses .registerLaunchQueue s l 2)) ∧
  (∀ (s : State) (l : Line), s.commandDue 0x02 = some l → s.Safe →
    let ctx := l.read 8 8
    let handler := l.read 40 8
    let good : Prop := zeros l 48 ∧ l.read 26 6 = 0 ∧ ctx < 256 ∧ State.paOk (l.read 16 8) (2 ^ 14) = true ∧
      State.paOk (l.read 32 8) (2 ^ 16) = true ∧ State.rangeOk (l.read 32 8) (2 ^ 21) = true ∧ handler < 2 ^ 32 ∧ handler % 4 = 0
    (¬ good → refuses .registerContext s l 1) ∧
    (good → (s.hasBind ctx = true ∨ s.rightsOk ctx (l.byte 24) (l.byte 25) = false) → refuses .registerContext s l 2) ∧
    (good → s.hasBind ctx = false → s.rightsOk ctx (l.byte 24) (l.byte 25) = true → (s.context ctx).registered = false →
      ∃ t, exec .registerContext s = .next t ∧ s.EndsCommand t l 0 0 ∧ (t.context ctx).registered = true ∧
        (t.context ctx).root = l.read 16 8 ∧ (t.context ctx).use = l.byte 24 ∧ (t.context ctx).give = l.byte 25 ∧
        (t.context ctx).area = l.read 32 8 ∧ rootImpn (t.codeRoot ctx) = 0 ∧ rootEpoch (t.codeRoot ctx) = 0 ∧
        Memory.read t.mem (rootImpt (t.codeRoot ctx)) 8 = (if handler = 0 then 0 else 2 ^ 63 + handler) ∧
        t.freeObjects ctx = (List.range 256).filter fun i => !(s.fetches ctx i))) ∧
  (∀ (s : State) (l : Line), s.commandDue 0x03 = some l →
    let lrec := l.read 8 8
    let good : Prop := zeros l 16 ∧ State.paOk lrec 128 = true
    (¬ good → refuses .preEmpt s l 1) ∧ (good → s.launch? lrec = none → refuses .preEmpt s l 2) ∧
    ∀ x, good → s.launch? lrec = some x → x.state = .running → ∃ t, exec .preEmpt s = .next t ∧ s.EndsCommand t l 0 0 ∧ t.mem = s.mem ∧
      (∀ b ∈ s.launchBinds lrec, ((t.core b.1).bind b.2).stop = true) ∧
      { x with state := .stopping, deadline := some (s.clock + s.deadlineOf (recPrio x.record)) } ∈ t.launches) ∧
  (∀ (s : State) (l : Line), s.commandDue 0x04 = some l →
    let good : Prop := zeros l 16 ∧ l.read 8 8 < 256
    (¬ good → refuses .squallResetCommand s l 1) ∧
    (good → (s.context (l.read 8 8)).registered = false → refuses .squallResetCommand s l 2) ∧
    (good → (s.context (l.read 8 8)).registered = true → ∃ t, exec .squallResetCommand s = .next t ∧ s.EndsCommand t l 0 0 ∧
      t.mem = s.mem ∧ (t.squallOn (l.read 8 8)).isSome = true)) ∧
  (∀ (s : State) (l : Line) (images : List (Nat × List W64)), s.commandDue 0x05 = some l → s.Safe →
    let ctx := l.read 8 8
    let base := l.read 16 8
    let len := l.read 24 4
    let good : Prop := zeros l 28 ∧ ctx < 256 ∧ base % 128 = 0 ∧ base < 2 ^ 56 ∧ len % 4 = 0 ∧ 4 ≤ len ∧ len ≤ 0xFFFFFC
    (¬ good → refuses (.installObject images) s l 1) ∧
    (good → ((s.context ctx).registered = false ∨ s.freeObjects ctx = []) → refuses (.installObject images) s l 2) ∧
    (good → (s.context ctx).registered = true → s.freeObjects ctx ≠ [] → rootObjt (s.codeRoot ctx) = State.objectTable ctx →
      ∃ t i, exec (.installObject images) s = .next t ∧ i ∈ s.freeObjects ctx ∧ s.EndsCommand t l 0 i ∧
        objState (t.ctxObject ctx i) = 1 ∧ objLen (t.ctxObject ctx i) = len ∧ objBase (t.ctxObject ctx i) = base ∧
        ∀ x ∈ images, { ctx := ctx, obj := i, n := x.1, words := x.2 : SeamImage } ∈ t.images)) ∧
  (∀ (s : State) (l : Line), s.commandDue 0x06 = some l →
    let ctx := l.read 8 8
    let table := l.read 16 8
    let entry := Memory.read s.mem table 8
    let epoch := min 0xFFFF (rootEpoch (s.codeRoot ctx) + 1)
    let good : Prop := zeros l 26 ∧ ctx < 256 ∧ State.paOk table 128 = true ∧ l.read 24 2 ≤ 4095
    let free : Prop := (s.context ctx).registered = true ∧ 2 ^ 63 ≤ entry ∧ entry < 2 ^ 63 + 2 ^ 32
    (¬ good → refuses .importSwitch s l 1) ∧ (good → ¬ free → refuses .importSwitch s l 2) ∧
    (good → free → ∃ t, exec .importSwitch s = .next t ∧ s.EndsCommand t l 0 epoch ∧ (t.context ctx).switching = true ∧
      (s.Safe → rootImpn (t.codeRoot ctx) = l.read 24 2 ∧ rootEpoch (t.codeRoot ctx) = epoch ∧
        ∀ j, j < 8 * (l.read 24 2 + 1) → t.byteAt (rootImpt (t.codeRoot ctx) + j) = s.byteAt (table + j)))) ∧
  (∀ (s : State) (l : Line), s.commandDue 0x08 = some l →
    let e := l.read 24 8
    let good : Prop := zeros l 32 ∧ l.read 8 8 ≤ 15 ∧ l.read 16 8 ≤ 15 ∧ e / 2 ^ 4 % 2 ^ 8 = 0 ∧ e / 2 ^ 20 % 2 ^ 12 = 0
    (¬ good → refuses .writeDomainTable s l 1) ∧ (good → s.usesPeer = true → refuses .writeDomainTable s l 2) ∧
    (good → s.usesPeer = false → ∃ t, exec .writeDomainTable s = .next t ∧ s.EndsCommand t l 0 0 ∧ t.mem = s.mem ∧
      t.devno.toNat = l.read 8 8 ∧ t.register (0x30008 + 8 * l.read 16 8) = BitVec.ofNat 64 e)) ∧
  (∀ (s : State) (l : Line) (lowOk highOk : Bool), s.commandDue 0x09 = some l →
    let m := l.read 8 8
    let good : Prop := zeros l 16 ∧ m < 24
    (¬ good → refuses (.moduleUp lowOk highOk) s l 1) ∧ (good → s.allQuiet = false → refuses (.moduleUp lowOk highOk) s l 2) ∧
    (good → s.allQuiet = true → (s.module m).state = .down → (s.module m).forced = false → (s.module m).d0.buffer = [] →
      (s.module m).d1.buffer = [] → (lowOk = true ∨ highOk = true ∨ (s.module ((m + 12) % 24)).state ≠ .down) →
      ∃ t, exec (.moduleUp lowOk highOk) s = .next t ∧ s.EndsCommand t l 0 0 ∧ t.mem = s.mem ∧
        (t.module m).state = (if lowOk || highOk then .active else .down) ∧
        (t.module m).width = if lowOk && highOk then 0 else if lowOk then 1 else if highOk then 2 else 3)) ∧
  (∀ (s : State) (l : Line), s.commandBlock = some l → l.read 0 2 ∉ [0x01, 0x02, 0x03, 0x04, 0x05, 0x06, 0x08, 0x09, 0x0A] →
    refuses .commandUnknown s l 3) ∧
  (∀ (s : State) (c : Command) (rest : List Command), s.commands = c :: rest → c.done = true → s.phase = 0x05 →
    s.effectDone c = true →
    ((s.msgbase.toNat % 32 = 0 ∨ (s.ringRoom = true ∧ s.messagesOut < 1024)) →
      ∃ t, exec .commandReply s = .next t ∧ t.mem = s.mem ∧ t.commands = rest ∧
        s.Posts t (BitVec.ofNat 64 (1 + 256 * c.code.toNat + 65536 * c.tag.toNat)) c.result) ∧
    (s.msgbase.toNat % 32 ≠ 0 → (s.ringRoom = false ∨ 1024 ≤ s.messagesOut) → exec .commandReply s = .next s)) ∧
  ∀ (s : State) (m : Message) (rest : List Message), s.messages = m :: rest → (s.phase = 0x05 ∨ s.phase = 0xF2) →
    ((s.msgbase.toNat % 32 = 0 ∨ (s.ringRoom = true ∧ s.messagesOut < 1024)) →
      ∃ t, exec .messageWrite s = .next t ∧ t.mem = s.mem ∧ t.messages = rest ∧ s.Posts t m.w0 m.w1) ∧
    (s.msgbase.toNat % 32 ≠ 0 → (s.ringRoom = false ∨ 1024 ≤ s.messagesOut) → exec .messageWrite s = .next s)

/-- R321, R324: the SPDM requests of command 0x0A, their responses written where the command says, and the response's
length as the reply's value. The byte layouts are the standard's, which the spec names and does not repeat (log entry
28). Where it rests on the model's own choices, these are log entry 28. -/
def Obligations.SpdmResponses : Prop :=
  let answers (i : Instr) (s : State) (l : Line) (a : List Byte) : Prop := ∃ t, exec i s = .next t ∧ s.EndsCommand t l 0 a.length ∧
    ∀ k, k < a.length → t.byteAt (l.read 32 8 + k) = a.getD k 0
  ∀ (s : State) (l : Line) (r : List Byte), s.spdmDue = some (l, r) → s.Safe →
    let version := (r.getD 0 0).toNat
    let code := (r.getD 1 0).toNat
    let p1 := (r.getD 2 0).toNat
    let p2 := (r.getD 3 0).toNat
    let mismatch : List Byte := [0x12, 0x7F, 0x41, 0x00]
    let unsupported : List Byte := [0x12, 0x7F, 0x07, BitVec.ofNat 8 code]
    (code = 0x84 → version = 0x10 → answers .getVersion s l [0x10, 0x04, 0x00, 0x00, 0x00, 0x01, 0x00, 0x12]) ∧
    (code = 0xE1 → version = 0x12 → ∃ ct, answers .getCapabilities s l [0x12, 0x61, 0x00, 0x00, 0x00, ct, 0x00, 0x00, 0x16, 0x00,
      0x00, 0x00, 0x00, 0x10, 0x00, 0x00, 0x00, 0x10, 0x00, 0x00]) ∧
    (code = 0xE3 → version = 0x12 → answers .negotiateAlgorithms s l (
      if State.reqNum r 8 4 / 8 % 2 = 1 ∧ State.reqNum r 12 4 / 2 % 2 = 1 then State.algorithmsAnswer else unsupported)) ∧
    (code = 0x81 → version = 0x12 → answers .getDigests s l ([0x12, 0x01, 0x00, 0x01] ++ State.leBytes 48 Config.certDigest.toNat)) ∧
    (code = 0x82 → version = 0x12 → answers .getCertificate s l (
      if p1 = 0 then State.certificateAnswer (State.reqNum r 4 2) (State.reqNum r 6 2) else unsupported)) ∧
    (code = 0x83 → version = 0x12 →
      let body := State.challengeBody s (decide (p2 ≠ 0)) (Config.nonce s.spdm)
      answers .challenge s l (if p1 = 0 then body ++ State.signature (s.spdmA ++ s.spdmB ++ r ++ body) else unsupported)) ∧
    (code = 0xE0 → version = 0x12 →
      let body := State.measurementsBody s p2 (Config.nonce s.spdm)
      answers .getMeasurements s l (
        if p2 = 0 ∨ (13 < p2 ∧ p2 ≠ 0xFF) ∨ (p1 % 2 = 1 ∧ (r.getD 36 0).toNat % 16 ≠ 0) then unsupported
        else if p1 % 2 = 1 then body ++ State.signature (s.spdmA ++ s.spdmL ++ r ++ body) else body)) ∧
    (version ≠ 0x12 → (code = 0xE1 → answers .getCapabilities s l mismatch) ∧ (code = 0xE3 → answers .negotiateAlgorithms s l mismatch) ∧
      (code = 0x81 → answers .getDigests s l mismatch) ∧ (code = 0x82 → answers .getCertificate s l mismatch) ∧
      (code = 0x83 → answers .challenge s l mismatch) ∧ (code = 0xE0 → answers .getMeasurements s l mismatch)) ∧
    (code ∉ [0x84, 0xE1, 0xE3, 0x81, 0x82, 0x83, 0xE0] →
      answers .spdmUnsupportedRequest s l (if version = 0x12 then unsupported else mismatch))

/-- R235, R236, R259, R260, R264 to R270: Knanos reads TAIL, a record and its wait word, refuses a record by the first
reason in table order, applies its moves at a quiesce point (a page's data on its new stack, its new ADDR, CLASS and OWNER,
and no cached translation of it left), and binds a launch to a core: the bind record, zeroed registers, closed line
registers, the code root adopted, and STATUS 1; a record held behind another of its queue becomes ready when that one
starts. That a placement hint of 8 to 254 moves nothing, and that CLASS is read as two bits, is the model's choice, log
entry 79: R265 gives 0 to 7 and 0xFF alone. Where it rests on the model's own choices, these are log entries 15, 23, 24, 44,
45, 54, 79, 82, 90, 98. -/
def Obligations.LaunchesAndBinds : Prop :=
  (∀ (s : State) (q : Nat) (x : Queue), s.queueAt q = some x → s.phase = 0x05 → s.busy x.tail = false →
    let seen : List Queue := s.queues.set q { x with seen := max x.seen (Memory.read s.mem x.tail 8), polled := s.clock }
    ((∀ l ∈ s.launches, l.queue ≠ q ∨ l.state ≠ .waiting) →
      ∃ t, exec (.launchQueuePoll q) s = .next t ∧ t.mem = s.mem ∧ t.queues = seen ∧ t.launches = s.launches) ∧
    ∀ (l : Launch) (pa : Nat) (leaf : BitVec 128), s.launches = [l] → l.queue = q → l.state = .waiting →
      let r := l.record
      s.readPlace l.ctx (r.read 72 8) = .at_ pa leaf → s.busy pa = false →
      ∃ t, exec (.launchQueuePoll q) s = .next t ∧ t.mem = s.mem ∧ t.queues = seen ∧
        t.launches = [if r.read 80 8 ≤ Memory.read s.mem pa 8 then { l with state := .ready, since := s.nextId } else l]) ∧
  (∀ (s : State) (q : Nat) (x : Queue), s.queueAt q = some x → s.phase = 0x05 → x.next < x.seen →
    let lrec := x.ring + 128 * (x.next % 2 ^ x.s)
    let r := s.homeLine lrec
    s.busy lrec = false → s.readPlace x.ctx (r.read 72 8) ≠ .held → s.atomPlace x.ctx (r.read 88 8) ≠ .held →
    (∃ t y, exec (.launchRecordRead q) s = .next t ∧ t.mem = s.mem ∧ t.launches = s.launches ++ [y] ∧ y.lrec = lrec ∧ y.queue = q ∧
      y.num = x.next ∧ y.ctx = x.ctx ∧ y.started = false ∧ t.queues = s.queues.set q { x with next := x.next + 1 } ∧
      y.record = r ∧ y.hinted = false ∧
      y.state = match s.recordFault x r with
        | some why => .refused why
        | none => if r.read 72 8 ≠ 0 then .waiting
            else if ∃ z ∈ s.launches, z.queue = q ∧ z.num < x.next ∧ z.started = false ∧ LState.isOver z.state = false then .behind
            else .ready) ∧
    let within (off n lo hi : Nat) : Prop := lo ≤ r.read off n ∧ r.read off n ≤ hi
    let code (off : Nat) : Prop := s.loaded x.ctx (BitVec.ofNat 32 (r.read off 4)) = true
    let bad : List Prop := [
      r.read 0 4 % 2 = 0 ∨ 11 < r.read 0 4 / 2 ^ 8 % 16 ∨ (r.read 0 4 / 2 ^ 14 % 2 = 1 ∧ x.own = false),
      r.read 0 4 / 2 ^ 16 ≠ 0 ∨ r.read 0 4 / 2 % 8 ≠ 0 ∨ ¬ within 30 1 1 3 ∨ r.read 31 1 ≠ 0 ∨ r.read 44 4 ≠ 0 ∨ r.read 60 4 ≠ 0 ∨
        r.read 116 4 ≠ 0 ∨ r.read 122 6 ≠ 0 ∨ r.read 32 8 / 2 ^ 52 ≠ 0,
      r.read 16 4 = 0 ∨ 2 ^ 32 < r.read 12 4 + r.read 16 4 ∨ ¬ within 20 2 4 64 ∨ ¬ within 22 2 0 2048 ∨ ¬ within 24 2 0 2048 ∨
        ¬ within 26 2 0 4096 ∨ r.read 26 2 % 8 ≠ 0 ∨ ¬ within 28 2 0 16 ∨ ¬ within 40 2 1 4096 ∨ ¬ within 42 2 0 1024,
      r.read 7 1 ≠ r.read 11 1 ∨ ¬ code 4 ∨ ¬ code 8,
      (r.read 26 2 ≠ 0 ∧ (r.read 64 8 = 0 ∨ r.read 64 8 % 2 ^ 16 ≠ 0)) ∨ r.read 112 4 ≠ 0,
      (r.read 72 8 ≠ 0 ∧ s.readPlace x.ctx (r.read 72 8) = .absent) ∨
        (r.read 88 8 ≠ 0 ∧ s.atomPlace x.ctx (r.read 88 8) = .absent)]
    (∀ w, w < 6 → bad.getD w False → (∀ v, v < w → ¬ bad.getD v False) → s.recordFault x r = some (w + 1)) ∧
    ((∀ w, w < 6 → ¬ bad.getD w False) → s.recordFault x r = none)) ∧
  -- a record's moves, at the quiesce point at which it starts
  (∀ (s : State) (lrec : Nat) (l : Launch), s.launch? lrec = some l →
    (s.quiet l.ctx = false ∨ s.mayStart l = false ∨ s.bindable l.record l.ctx = false ∨ s.nextBound l = false →
      exec (.quiesceMoves lrec) s = .next s)) ∧
  (∀ (s : State) (lrec : Nat) (l : Launch), s.launch? lrec = some l → l.state = .ready → l.hinted = false →
    l.record.read 42 2 ≠ 0 → s.quiet l.ctx = true → (∀ k, k < 8 → (s.arbiter k).step = 0) → s.mayStart l = true →
    s.bindable l.record l.ctx = true → s.nextBound l = true →
    (∃ t, exec (.quiesceMoves lrec) s = .next t ∧ t.launch? lrec = some { l with hinted := true }) ∧
    -- one hint, of a page that the context maps
    ∀ (pa : Nat) (pl : BitVec 128) (a level : Nat) (e : BitVec 128), l.record.read 42 2 = 1 →
      s.ctxPlace l.ctx (l.record.read 104 8) = .at_ pa pl →
      let h := Memory.read s.mem pa 16
      let va := h % 2 ^ 56
      let base := pteAddr e
      let stack := h / 2 ^ 80 % 256
      let moves : Prop := stack < 8 ∧ stackOf base ≠ stack
      s.leafAt .dev va 4 1 (s.context l.ctx).root = some (a, level, e) → h / 2 ^ 72 % 256 ≤ 191 → s.Safe → s.sums = [] → a % 16 = 0 →
      ∃ t place, exec (.quiesceMoves lrec) s = .next t ∧
        (moves → stackOf place = stack ∧ place % 2 ^ pageBits level = 0 ∧ ∀ i, i < 2 ^ pageBits level →
          (place + i < a ∨ a + 16 ≤ place + i) → t.byteAt (place + i) = s.byteAt (base + i)) ∧
        (¬ moves → place = base) ∧
        (∀ j, j < 128 → (Memory.read t.mem a 16).testBit j =
          if 14 ≤ j ∧ j < 52 then place.testBit j
          else if h.testBit 88 = true ∧ 88 ≤ j ∧ j < 90 then h.testBit (j - 24)
          else if h.testBit 88 = true ∧ 96 ≤ j ∧ j < 104 then h.testBit (j - 24)
          else e.getLsbD j) ∧
        ∀ die, ∀ x ∈ t.l2 die, ¬ (x.asid = (s.context l.ctx).asid ∧ x.page = va / 2 ^ pageBits x.level)) ∧
  (∀ (s : State) (lrec c e : Nat) (crews : List Nat) (m : BitVec 64) (macros : BitVec 16) (l : Launch),
    s.launch? lrec = some l → (∀ k, k < 64 → m.getLsbD k = crews.contains k) → s.mayBind l = true →
    let r := l.record
    let prio (x : Launch) : Nat := x.record.read 0 4 / 2 ^ 8 % 16
    s.bindFits r l.ctx c e m macros = true → 32 * crewCount m ≤ s.slotRoom l → s.busy lrec = false →
    (∀ x ∈ s.launches, (x.queue = l.queue ∧ x.num = l.num) ∨ s.mayStart x = false ∨
      s.bindable x.record x.ctx = false ∨ ¬ (prio x < prio l ∨ (prio x = prio l ∧ x.since < l.since))) →
    ∃ t, exec (.knanosBind lrec c e crews macros) s = .next t ∧
      (let b := (t.core c).bind e
       b.state = .binding ∧ b.crews = m ∧ b.macros = macros ∧ b.ctx = l.ctx ∧ b.lrec = lrec ∧ b.entry.toNat = r.read 4 4 ∧
       b.refill.toNat = r.read 8 4 ∧ b.floor = r.read 20 2 ∧ b.pool = r.read 22 2 ∧ b.regs = r.read 0 4 / 2 ^ 4 % 16 ∧
       b.prio = r.read 0 4 / 2 ^ 8 % 16 ∧ b.stop = false ∧ b.exh = false ∧ ∀ n ∈ b.slotList, t.slot c n = { Slot.reset with bind := e }) ∧
      (∀ k, k < 64 → m.getLsbD k = true → (t.core c).crew k = Crew.reset) ∧ (t.core c).roots.get 0 l.ctx = s.codeRoot l.ctx ∧
      (s.quiet l.ctx = true → ∀ die, ∀ x ∈ t.l2 die, x.asid ≠ (s.context l.ctx).asid) ∧
      -- the record that was held behind this one becomes ready
      (∀ x, s.launches = [l, x] → x.queue = l.queue → l.num < x.num → x.started = false → x.state = .behind →
        ∃ y ∈ t.launches, y.queue = x.queue ∧ y.num = x.num ∧ y.record = x.record ∧ y.state = .ready ∧ s.nextId < y.since) ∧
      (l.state = .running → t.mem = s.mem) ∧
      (l.state ≠ .running → s.Safe → lrec % 128 = 0 → Memory.read t.mem (lrec + 120) 8 = 1)) ∧
  (∀ (s : State) (lrec c e : Nat) (crews : List Nat) (m : BitVec 64) (macros : BitVec 16) (l : Launch),
    s.launch? lrec = some l → (∀ k, k < 64 → m.getLsbD k = crews.contains k) →
    (s.mayBind l = false ∨ s.bindFits l.record l.ctx c e m macros = false ∨ s.slotRoom l < 32 * crewCount m ∨ s.busy lrec = true ∨
      s.nextBound l = false) →
    exec (.knanosBind lrec c e crews macros) s = .next s) ∧
  ∀ (s : State) (c e : Nat), ((s.core c).bind e).state = .binding → ∃ t, exec (.bindSetupDone c e) s = .next t ∧ t.mem = s.mem ∧
    (t.core c).bind e = { (s.core c).bind e with state := if ((s.core c).bind e).stop then .draining else .running }

/-- R134, R176, R269 to R273, R275, R293, R295: a claim asks for items and is performed as one event on CURSOR, its reply
fills the lowest vacant slots with the items in order; a running bind whose items are exhausted drains once its slots are
vacant; a draining bind whose slots are vacant gives up its lines (every way of its line registers closes, and the
write-backs count in its launch counter), its tiles and its teams, and, its counter at 0, becomes free, unless a squall
reset of its context has been asked for; Knanos sets STOP for power, heat and urgency, a passed deadline asks for a squall
reset, and a stopped launch is complete or saved with STATUS 4. Where it rests on the model's own choices, these are log
entries 20, 44. -/
def Obligations.ClaimsAndUnbinding : Prop :=
  (∀ (s : State) (c e : Nat), State.claimant (s.core c) = some e → (s.core c).claimAt ≠ s.clock + 1 →
    (∀ q ∈ s.squalls, q.ctx ≠ ((s.core c).bind e).ctx) → s.coreDue c = false →
    let n := State.claimSize (s.core c) e
    ∃ t r, exec (.claim c) s = .next t ∧ t.mem = s.mem ∧ ((t.core c).bind e).claim = some n ∧ (t.core c).claimAt = s.clock + 1 ∧
      r ∈ t.reqs ∧ r.core = c ∧ r.kind = .claim e n ∧ r.dest = .dev ∧ r.pa = ((s.core c).bind e).lrec + 112) ∧
  (∀ (s : State) (c e n : Nat) (r : Req), s.claimReq c e = some r → s.performable r = true → ((s.core c).bind e).claim = some n →
    let lrec := ((s.core c).bind e).lrec
    let old := (s.homeLine lrec).read 112 4
    let got := min n ((s.homeLine lrec).read 16 4 - old)
    s.Safe → lrec % 128 = 0 → ∃ t, exec (.claimPerform c e) s = .next t ∧ ((t.core c).bind e).claimed = some (old, got, n) ∧
      Memory.read t.mem (lrec + 112) 4 = old + got) ∧
  (∀ (s : State) (c e old got n : Nat) (r : Req), s.claimReq c e = some r → r.stage = .here → s.issueDone c = true → s.coreDue c = false →
    ((s.core c).bind e).claimed = some (old, got, n) →
    let b := (s.core c).bind e
    let item0 := (s.homeLine b.lrec).read 12 4
    ∃ t, exec (.claimReply c e) s = .next t ∧ t.mem = s.mem ∧ ((t.core c).bind e).claim = none ∧
      ((t.core c).bind e).exh = (b.exh || decide (got < n)) ∧ (∀ q ∈ t.reqs, q.id ≠ r.id) ∧
      -- with its items exhausted and every slot vacant it drains
      (got = 0 → 0 < n → ((t.core c).bind e).state =
        if b.state = .running ∧ ∀ m ∈ b.slotList, (s.slot c m).occupied = false then .draining else b.state) ∧
      ∀ i m, (((s.core c).vacant e).take got)[i]? = some m →
        (t.slot c m).occupied = true ∧ (t.slot c m).item = BitVec.ofNat 32 (item0 + old + i) ∧
        (t.slot c m).reg 0 = BitVec.ofNat 32 (item0 + old + i) ∧ (t.slot c m).preds = 0 ∧ (t.slot c m).masked = false ∧
        (t.slot c m).pc = if (s.slot c m).used then b.refill else b.entry) ∧
  (∀ (s : State) (c e : Nat),
    let b := (s.core c).bind e
    b.state = .draining → b.unbound = false → b.claim = none → (∀ m ∈ b.slotList, (s.slot c m).occupied = false) → s.mayGiveUp c b.ctx = true →
    let new (r : Req) : Bool := decide (s.nextId ≤ r.id) && State.neverHeld r.kind && r.core == c
    ∃ t, exec (.unbind c e) s = .next t ∧ t.mem = s.mem ∧ ((t.core c).bind e).unbound = true ∧ ((t.core c).bind e).state = .draining ∧
      ((s.core c).waits = [] →
        (∀ k n w, k < 64 → n < 16 → w < 4 → b.crews.getLsbD k = true → (t.core c).way k n w = .empty) ∧
        (∀ r ∈ t.reqs, new r = true → r.counted = some e) ∧
        ((t.core c).bind e).counter = b.counter + BitVec.ofNat 32 (t.reqs.countP new) ∧
        (∀ k, k < 64 → (s.core c).owns e k = true → (∀ o ∈ (s.core c).engine, k ∉ o.tiles) →
          ((t.core c).tile k).getLsbD 57 = false) ∧
        ∀ x ∈ (t.core c).teams, x.2.bind ≠ e)) ∧
  (∀ (s : State) (c e : Nat), ((s.core c).bind e).state ≠ .draining → exec (.unbind c e) s = .next s) ∧
  -- the exit of the last occupied slot
  (∀ (s : State) (c n len : Nat) (g : Guard), s.Runs c n len g [] → (s.slot c n).opsO = [] →
    (∀ o ∈ (s.slot c n).opsH, o.returns = true → o.done = true) → (s.core c).halts = [] → (s.core c).teamsOf n = [] →
    let e := (s.slot c n).bind
    let b := (s.core c).bind e
    ∃ t, exec (.exit g) s = .next t ∧ t.mem = s.mem ∧ ((t.core c).bind e).state =
      if b.state = .running ∧ b.exh = true ∧ ∀ m ∈ b.slotList, m ≠ n → (s.slot c m).occupied = false then .draining else b.state) ∧
  (∀ (s : State) (c e : Nat) (q : Squall), q ∈ s.squalls → q.ctx = ((s.core c).bind e).ctx →
    exec (.unbind c e) s = .next s ∧ exec (.launchCounterZero c e) s = .next s) ∧
  (∀ (s : State) (c e : Nat),
    let b := (s.core c).bind e
    (b.unbound = true → b.counter = 0 → s.mayGiveUp c b.ctx = true → ∃ t, exec (.launchCounterZero c e) s = .next t ∧ t.mem = s.mem ∧
      (t.core c).bind e = Bind.free ∧ ∀ k, k < 64 → b.crews.getLsbD k = true → AMap.find? (t.core c).crews k = none) ∧
    (b.counter ≠ 0 → exec (.launchCounterZero c e) s = .next s)) ∧
  (∀ (s : State) (lrec : Nat) (l : Launch), s.launch? lrec = some l →
    (l.state = .running → (s.overPower = true ∨ s.hot ≠ 0 ∨ s.crowdedOut l = true) → ∃ t, exec (.preEmption lrec) s = .next t ∧
      t.mem = s.mem ∧ (∀ b ∈ s.launchBinds lrec, ((t.core b.1).bind b.2).stop = true) ∧
      { l with state := .stopping, deadline := some (s.clock + s.deadlineOf (recPrio l.record)) } ∈ t.launches) ∧
    (l.state = .running → s.overPower = false → s.hot = 0 → s.crowdedOut l = false → exec (.preEmption lrec) s = .next s) ∧
    (s.deadlinePassed l = true → ∃ t, exec (.deadlineExpiry lrec) s = .next t ∧ t.mem = s.mem ∧ (t.squallOn l.ctx).isSome = true) ∧
    (l.state = .stopping → s.allFree lrec = true → s.busy lrec = false →
      let cursor := (s.homeLine lrec).read 112 4
      (l.record.read 16 4 ≤ cursor → ∃ t, exec (.preEmptionSave lrec) s = .next t ∧ t.mem = s.mem ∧
        { l with state := .status, final := 2, deadline := none } ∈ t.launches) ∧
      (cursor < l.record.read 16 4 → s.Safe → lrec % 128 = 0 → ∃ t, exec (.preEmptionSave lrec) s = .next t ∧
        Memory.read t.mem (lrec + 120) 8 = 4 ∧ { l with state := .saved, since := s.nextId, deadline := none } ∈ t.launches))) ∧
  ∀ (s : State) (prio : Nat), s.deadlineOf prio = 600 *
    (s.dline.extractLsb' (if prio ≤ 3 then 0 else if prio ≤ 7 then 16 else 32) 16).toNat

/-- R258, R264, R276, R256, R296 to R298, R305, R314, R315, R357: the end of a launch: its final STATUS and HEAD, the
completion word, the message; the squall reset of a context, whose steps follow one another in order, each after the
accesses and hand-overs that it waits for, which leaves no bind and no item of it on any core and keeps those of the others,
and no half-written line at the host, and its reset record, SEQ last; a core adopts a switched root, and an object that only
the old table named, and no record not yet started, becomes free. Where it rests on the model's own choices, these are log
entries 21, 31, 32, 34, 41, 43, 52. -/
def Obligations.LaunchEndsAndSqualls : Prop :=
  (∀ (s : State) (lrec v : Nat) (l : Launch) (q : Queue), s.launch? lrec = some l → s.busy lrec = false → s.Safe → lrec % 128 = 0 →
    ((l.state = .running ∧ s.unstarted l = 0 ∧ s.allFree lrec = true ∧ v = 2) ∨ (∃ why, l.state = .refused why ∧ v = 3 + 256 * why) ∨
      (l.state = .status ∧ v = l.final.toNat)) → v < 2 ^ 64 → s.queueAt l.queue = some q → q.head % 8 = 0 →
    (q.head + 8 ≤ lrec + 120 ∨ lrec + 128 ≤ q.head) →
    ∃ t, exec (.launchCompletion lrec) s = .next t ∧ Memory.read t.mem (lrec + 120) 8 = v ∧
      { l with state := .word, final := BitVec.ofNat 64 v } ∈ t.launches ∧
      (s.launches = [l] → q.done = l.num → l.num + 1 < 2 ^ 64 → Memory.read t.mem q.head 8 = l.num + 1)) ∧
  (∀ (s : State) (lrec : Nat) (l : Launch), s.launchIn? lrec .word = some l →
    let cva := l.record.read 88 8
    (cva = 0 → ∃ t, exec (.completionWordAdd lrec) s = .next t ∧ t.mem = s.mem ∧ { l with state := .message } ∈ t.launches) ∧
    ∀ (pa : Nat) (leaf : BitVec 128), cva ≠ 0 → s.atomPlace l.ctx cva = .at_ pa leaf →
      let a := pa - pa % 8
      s.busy a = false →
      ∃ t, exec (.completionWordAdd lrec) s = .next t ∧ { l with state := .message } ∈ t.launches ∧
        (s.wordPoisoned a 8 = true → t.mem = s.mem) ∧
        (s.wordPoisoned a 8 = false → s.Safe →
          Memory.read t.mem a 8 = (((s.foldLine a).homeWord a 8).toNat + l.record.read 96 8) % 2 ^ 64)) ∧
  (∀ (s : State) (lrec : Nat) (l : Launch), s.launchIn? lrec .message = some l →
    ∃ t, exec (.completionMessage lrec) s = .next t ∧ t.mem = s.mem ∧
      if l.record.read 0 4 / 2 ^ 15 % 2 = 1 then
        t.messages = s.messages ++ [{ w0 := BitVec.ofNat 64 lrec, w1 := l.final, lrec := some lrec }] ∧
          { l with state := .sending } ∈ t.launches
      else t.messages = s.messages) ∧
  (∀ (s : State) (ctx : Nat) (q : Squall), s.squallOn ctx = some q → s.phase = 0x05 →
    (∀ b ∈ s.ctxBinds ctx, s.closedNow b.1 = false) →
    let goes (g : State → Prop) : Prop := ∃ t, exec (.squallReset ctx) s = .next t ∧ t.mem = s.mem ∧ g t
    let others (t : State) : Prop := (∀ c e, s.bindInCtx ctx c e = false → (t.core c).bind e = (s.core c).bind e) ∧
      ∀ c n, s.inCtx ctx c n = false → (t.slot c n).occupied = (s.slot c n).occupied ∧ (t.slot c n).regs = (s.slot c n).regs ∧
        (t.slot c n).item = (s.slot c n).item
    let waiting : Prop := ∃ id ∈ q.waits, ∃ r, s.req? id = some r ∧ State.unperformed r.stage = true
    let giving : Prop := ∃ id ∈ q.gives, s.req? id ≠ none
    -- steps 1 to 3, and what step 4 drops; write-backs stay, and are waited for
    (q.stage = .asked → goes fun t => others t ∧
      (∃ p, t.squallOn ctx = some p ∧ p.stage = .performing ∧ p.clock = s.clock ∧ p.cause = q.cause ∧
        p.launches = ((s.ctxLaunches ctx).map fun l => (l.lrec, (s.homeLine l.lrec).read 112 4, s.lostItems ctx l.lrec)) ∧
        ∀ r ∈ s.reqs, State.neverHeld r.kind = true → r ∈ t.reqs ∧
          (s.reqInCtx ctx r = true → State.unperformed r.stage = true → r.id ∈ p.waits)) ∧
      -- of a copy's line for the host, what has left is written whole, and what has not is not written at all
      (∀ r ∈ s.reqs, ∀ op j d m y, r.dest = .host → r.kind = .engWrite op j d m y → s.reqInCtx ctx r = true →
        (r.stage ≠ .source → { r with dropped := true } ∈ t.reqs) ∧
        (r.stage = .source → r ∉ t.reqs)) ∧
      (∀ c e, s.bindInCtx ctx c e = true →
        let b := (s.core c).bind e
        (t.core c).bind e = { b with
          stop := true, claim := none, claimed := none, state := if b.state = .running then .draining else b.state }) ∧
      (∀ c n, s.inCtx ctx c n = true → (t.slot c n).occupied = false ∧ (t.slot c n).regs = (s.slot c n).regs ∧
        (t.slot c n).pc = (s.slot c n).pc ∧ (t.slot c n).tcmp = (s.slot c n).tcmp) ∧
      ∀ c, (∀ x ∈ (t.core c).teams, s.bindInCtx ctx c x.2.bind = false) ∧ ∀ o ∈ (t.core c).engine, s.bindInCtx ctx c o.bind = false) ∧
    -- step 4, and step 5 behind it
    (q.stage = .performing → waiting → exec (.squallReset ctx) s = .next s) ∧
    (q.stage = .performing → ¬ waiting → (∀ c, (s.core c).waits = []) → goes fun t => others t ∧
      t.squallOn ctx = some { q with stage := .giving } ∧
      ∀ c e k, e < 8 → k < 64 → s.bindInCtx ctx c e = true → ((s.core c).bind e).crews.getLsbD k = true →
        (t.core c).crew k = Crew.reset) ∧
    -- step 6, and step 7 behind it
    (q.stage = .giving → giving → exec (.squallReset ctx) s = .next s) ∧
    (q.stage = .giving → ¬ giving → (∀ c, (s.core c).waits = []) → goes fun t => others t ∧
      t.squallOn ctx = some { q with stage := .cleared } ∧
      ∀ c e, e < 8 → s.bindInCtx ctx c e = true → (t.core c).bind e = Bind.free)) ∧
  (∀ (s : State) (ctx : Nat) (q : Squall), s.squallOn ctx = some q → q.stage = .cleared → s.phase = 0x05 → s.Safe →
    let x := s.context ctx
    x.area % 128 = 0 → s.busy x.area = false → x.resets + 1 < 2 ^ 64 →
    ∃ t, exec (.resetRecordWrite ctx) s = .next t ∧ t.squallOn ctx = none ∧ (t.context ctx).resets = x.resets + 1 ∧
      Memory.read t.mem x.area 8 = x.resets + 1 ∧ Memory.read t.mem (x.area + 8) 8 = q.clock % 2 ^ 64 ∧
      Memory.read t.mem (x.area + 16) 2 = q.cause % 2 ^ 16 ∧
      ∀ l ∈ s.launches, l.state = .resetting → l.ctx = ctx → { l with state := .status, final := 5 } ∈ t.launches) ∧
  (∀ (s : State) (c ctx : Nat),
    let x := s.context ctx
    x.switching = true →
    (c ∈ x.adopt → ∃ t, exec (.importAdopt c ctx) s = .next t ∧ t.mem = s.mem ∧ (t.core c).roots.get 0 ctx = s.codeRoot ctx ∧
      (t.context ctx).adopt = x.adopt.filter (fun d => d != c)) ∧
    (x.adopt = [] →
      let named (i : Nat) : Prop := i ∈ s.namedObjects (rootImpt (s.codeRoot ctx)) (rootImpn (s.codeRoot ctx))
      let retires (i : Nat) : Prop := ∃ o ∈ s.retiring, o.1 = ctx ∧ o.2.1 = i
      ∃ t, exec (.importSwitchComplete ctx) s = .next t ∧ (t.context ctx).switching = false ∧
        (∀ g ∈ t.retiring, g ∈ s.retiring ∨ (g.1 = ctx ∧ g.2.2 = s.nextId ∧ ¬ named g.2.1 ∧
          (g.2.1 ∉ s.awaitedObjects ctx ∨ retires g.2.1))) ∧
        -- one that retires already, and that the old table named, waits for the launches up to this switch
        ∀ i, retires i → i ∈ s.namedObjects x.oldTable.1 x.oldTable.2 → ¬ named i →
          ∀ g ∈ t.retiring, g.1 = ctx → g.2.1 = i → g.2.2 = s.nextId)) ∧
  ∀ (s : State) (ctx i : Nat) (r : Nat × Nat × Nat), (s.retiring.find? fun r => r.1 == ctx && r.2.1 == i) = some r →
    (∀ l ∈ s.launches, l.ctx = ctx → l.started = true → l.stamp < r.2.2 → LState.ended l.state = true) →
    ∃ t, exec (.objectFree ctx i) s = .next t ∧ (∀ g ∈ t.retiring, ¬ (g.1 = ctx ∧ g.2.1 = i)) ∧
      (s.Safe → Memory.read t.mem (rootObjt (s.codeRoot ctx) + 16 * i) 1 % 4 = 0) ∧
      ∀ c key, key / 2 ^ 24 = ctx * 256 + i → AMap.find? (t.core c).icache key = none

/-- R245 to R248, R251 to R257, R326, R340: a flit that arrives in order is taken and one that fails its CRC is not, the
second time with a training, while a protocol error that its replay repeats takes the module down, and its requests without
a reply go again on module (m + 12) mod 24, in SEQ order; a request that the receiving die's window knows is answered again,
a line read whose reply is lost performed again; an agent's errand is noted there too, and its reply says where it read
poisoned bytes; retry, acknowledgement and the end of a training; done-windows and their acknowledgement; the links to
outside; and accesses from a peer, within its entry's rights, and from the host, which become requests that are performed at
their homes, though their port goes down meanwhile, and answered with a status. A peer's access to an address that no stack
backs is the one fault of the model. That a module in WIDTH 3 whose halves both train is x64 again is the model's choice,
log entry 77, and so is what the time of 1 ms without a peer's reply is counted from, log entry 25. Where it rests on the
model's own choices, these are log entries 19, 25, 26, 52, 53, 64, 77, 78, 88, 89. -/
def Obligations.LinksAndOutside : Prop :=
  (∀ (s : State) (m d : Nat) (crcOk formOk : Bool) (f : Flit) (rest : List Flit), m < 24 → d < 2 → (s.module m).state = .active →
    let q := (s.module m).dir d
    let i : Instr := .flitReceive m d crcOk formOk
    q.wire = f :: rest → q.ackDue s.tick = false →
    let gets (g : Module → Prop) : Prop := ∃ t, exec i s = .next t ∧ t.mem = s.mem ∧ g (t.module m)
    let brings (g : State → Prop) : Prop := ∃ t, exec i s = .next t ∧ t.mem = s.mem ∧ g t
    (f.seq ≠ q.expect → gets fun x => x.dir d = { q with wire := rest } ∧ x.state = .active) ∧
    (f.seq = q.expect → crcOk = true → formOk = true → f.body = [] → gets fun x => x.state = .active ∧
      x.dir d = { q with wire := rest, expect := q.expect + 1, unacked := q.unacked + 1, discarding := false, badForm := false,
                         oldest := if q.unacked = 0 then s.tick else q.oldest }) ∧
    (∀ id head n r j, f.seq = q.expect → crcOk = true → formOk = true → State.headerOk head = true →
      f.body = [(.reply id head, n, true)] → s.req? id = some r → r.stage = .back j →
      brings fun t => t.req? id = some { r with stage := .here }) ∧
    (∀ agent die seq n, f.seq = q.expect → crcOk = true → formOk = true → f.body = [(.ack agent die seq, n, true)] →
      ((∀ r ∈ s.reqs, State.decided r = false) → brings fun t => ∀ w, w ∈ t.windows ↔ w ∈ s.windows ∧
        ¬ (w.die = 1 - d ∧ w.agent = agent ∧ w.srcDie = d ∧ (seq - w.seq).toNat < 2 ^ 15 ∧
          -- but for one whose reply is on its way
          ∀ r ∈ s.reqs, r.agent = w.agent → r.srcDie = w.srcDie → r.seq = w.seq → ∀ k, r.stage ≠ .back k)) ∧
      -- the reply of a waiter that waited for a window entry crosses
      ∀ r, s.reqs = [r] → State.decided r = true → s.windows = [] → s.errands = [] →
        brings fun t => ∃ y, t.req? r.id = some y ∧
          if r.srcDie = (s.arbiter (stackOf r.pa)).owner then y.stage = .here else ∃ j, y.stage = .back j) ∧
    -- an errand of an agent, new at the die: its window notes it, and the reply leaves
    (∀ e n k, f.seq = q.expect → crcOk = true → formOk = true → f.body = [(.errand e, n, true)] → e.reply = some k →
      State.headerOk (State.errandHeader d e) = true →
      (∀ w ∈ s.windows, ¬ (w.die = 1 - d ∧ w.agent = e.agent ∧ w.srcDie = d ∧ w.seq = e.seq)) →
      brings fun t => (∃ w, t.windows = s.windows ++ [w] ∧ w.die = 1 - d ∧ w.agent = e.agent ∧ w.srcDie = d ∧ w.seq = e.seq) ∧
        let j := s.linkFor (State.agentModule e.agent.toNat)
        -- STATUS 1 where it read poisoned bytes
        let bad := s.homePoisoned e.pa (if e.kind = 0x01 then 128 else if e.kind = 0x0B then 16 else if e.kind = 0x03 then 2 ^ e.op.toNat else 0)
        ((t.module j).dir (1 - d)).queue = ((s.module j).dir (1 - d)).queue ++
          [(.errand { e with kind := 0x80, pa := if bad then 1 else 0, data := k, reply := none }, 1 + k)]) ∧
    -- a request, new at the die or known there
    (∀ id head n r, f.seq = q.expect → crcOk = true → formOk = true → State.headerOk head = true →
      f.body = [(.req id head, n, true)] → s.req? id = some r → r.dest = .dev → State.atSlice r.kind = true →
      (s.arbiter (stackOf r.pa)).step = 0 → s.route (1 - d) (stackOf r.pa) = 1 - d →
      let known (w : Window) : Prop := w.die = 1 - d ∧ w.agent = r.agent ∧ w.srcDie = r.srcDie ∧ w.seq = r.seq
      (∀ j, (∀ w ∈ s.windows, ¬ known w) → r.stage = .out j →
        brings fun t => t.req? id = some { r with stage := .port, arrives := s.tick + 1 }) ∧
      ∀ w j, s.windows = [w] → known w → r.stage = .back j →
        -- a line read is performed again once its reply is lost, whatever the slice's entries (log entry 53)
        (w.line = true → s.replyTravels id = false →
          brings fun t => t.req? id = some { r with stage := .port, arrives := s.tick + 1 }) ∧
        ((w.line = false ∨ ∃ k h m2, (Msg.reply id h, m2) ∈ ((s.module k).dir (1 - d)).queue) → brings fun t => t.reqs = s.reqs ∧
          let k := s.linkFor (State.agentModule w.agent.toNat)
          ((t.module k).dir (1 - d)).queue = ((s.module k).dir (1 - d)).queue ++ [(.reply w.id w.head, w.slots)])) ∧
    -- failures
    (f.seq = q.expect → (crcOk && formOk) = false → f.replay = false → gets fun x => x.state = .active ∧
      x.crcErr.toNat = min 0xFFFF ((s.module m).crcErr.toNat + 1) ∧
      x.dir d = { q with wire := rest, discarding := true, badForm := crcOk }) ∧
    (f.seq = q.expect → crcOk = false → f.replay = true → gets fun x => x.state = .retraining) ∧
    (f.seq = q.expect → crcOk = true → formOk = false → f.replay = true → q.badForm = false → gets fun x => x.state = .retraining) ∧
    (f.seq = q.expect → crcOk = true → formOk = false → f.replay = true → q.badForm = true →
      (s.phase ≠ 0x05 ∨ (s.module ((m + 12) % 24)).state ≠ .down) → gets fun x => x.state = .down)) ∧
  (∀ (s : State) (m d : Nat), m < 24 → d < 2 → (s.module m).state = .active →
    let x := s.module m
    let q := x.dir d
    (q.discarding = true → (∀ f ∈ q.wire, f.seq ≠ q.expect) → x.rises = [] → ∃ t, exec (.retryRequest m d) s = .next t ∧ t.mem = s.mem ∧
      (t.module m).replays.toNat = min 0xFFFF (x.replays.toNat + 1) ∧ (t.module m).dir d = { q with
        wire := q.wire ++ (q.buffer.filter fun f => decide (q.expect ≤ f.seq)).map fun f => { f with replay := true } }) ∧
    (0 < q.unacked → (16 ≤ q.unacked ∨ q.oldest + 128 ≤ s.tick) → ∃ t, exec (.ackTimeout m d) s = .next t ∧ t.mem = s.mem ∧
      (t.module m).dir d = { q with acks := q.acks ++ [q.expect], unacked := 0, oldest := 0 }) ∧
    ∀ n rest, q.acks = n :: rest → q.ackArrives = { q with acks := rest, buffer := q.buffer.filter fun f => decide (n ≤ f.seq) }) ∧
  (∀ (s : State) (m : Nat) (lowOk highOk : Bool), m < 24 →
    let x := s.module m
    let alt := (m + 12) % 24
    x.state = .retraining → x.rises = [] → (lowOk = true ∨ highOk = true ∨ (s.module alt).state ≠ .down) →
    (∃ t, exec (.moduleRetrainComplete m lowOk highOk) s = .next t ∧ t.mem = s.mem ∧
      (t.module m).retrains.toNat = min 0xFF (x.retrains.toNat + 1) ∧
      (t.module m).state = (if lowOk || highOk then .active else .down) ∧
      (t.module m).width = if lowOk && highOk then (if x.forced then 1 else if x.width = 3 then 0 else x.width)
        else if lowOk then 1 else if highOk then 2 else 3) ∧
    -- no half is left: the module is down, and what has no reply is sent again on the alternate
    (lowOk = false → highOk = false → State.carriedOver x.d0 = [] → State.carriedOver x.d1 = [] →
      let open_ (r : Req) : Bool := decide (r.via = some m) && decide (r.stage ≠ .here)
      let asked (a : AgentReq) : Bool := decide (a.via = m) && decide (a.stage ≠ .held)
      let moved (g : Stage) : Stage := match g with
        | .out _ => .out alt
        | .back _ => .back alt
        | g => g
      let age (agent : BitVec 7) (die : Nat) (seq : BitVec 16) : Nat := (seq - s.seqs.get 0 (agent.toNat + 128 * die)).toNat
      ∃ t, ∃ l : List (Nat × Nat × Msg × Nat), exec (.moduleRetrainComplete m lowOk highOk) s = .next t ∧ t.told = s.told ++ [(3, m)] ∧
        t.reqs = (s.reqs.map fun r => if open_ r then { r with via := some alt, stage := moved r.stage } else r) ∧
        t.errands = (s.errands.map fun a => if asked a then { a with via := alt } else a) ∧
        -- every request and errand without a reply, once each, in SEQ order
        l.Perm (((s.reqs.filter open_).map fun r => (age r.agent r.srcDie r.seq, r.srcDie, State.reqMsg r.srcDie r, State.reqSlots r.kind)) ++
          (s.errands.filter asked).map fun a => (age a.errand.agent a.die a.errand.seq, a.die, .errand a.errand, 1 + a.errand.data)) ∧
        l.Pairwise (fun a b => a.1 ≤ b.1) ∧
        ∀ die, die < 2 → ((t.module alt).dir die).queue = ((s.module alt).dir die).queue ++
          (l.filter fun q => decide (min q.2.1 1 = die)).map fun q => q.2.2)) ∧
  -- a module's status word
  (∀ (s : State) (m : Nat), m < 24 →
    let x := s.module m
    let v := s.register (0x21000 + 8 * m)
    let field (lo n : Nat) : Nat := v.toNat / 2 ^ lo % 2 ^ n
    field 0 2 = (match x.state with
      | .training => 0
      | .active => 1
      | .retraining => 2
      | .down => 3) ∧
    field 2 2 = x.width.toNat ∧ field 8 8 = x.retrains.toNat ∧ field 16 8 = (if x.state = .down then (m + 12) % 24 else 0) ∧
    field 32 16 = x.crcErr.toNat ∧ field 48 16 = x.replays.toNat) ∧
  -- the links to outside: what comes in
  (∀ (s : State) (l : Nat) (crcOk formOk : Bool), l ≤ 16 →
    let x := s.link l
    let repeats : Prop := x.discarding = false ∧ crcOk = true ∧ formOk = false ∧ x.badForm = true
    (x.down = true → ∀ dir, exec (.flitReceive (24 + l) dir crcOk formOk) s = .next s) ∧
    (x.down = false → ¬ repeats → ∃ t, exec (.flitReceive (24 + l) 1 crcOk formOk) s = .next t ∧ t.mem = s.mem ∧
      t.link l = if x.discarding then x
        else if crcOk && formOk then { x with expect := x.expect + 1, badForm := false }
        else { x with discarding := true, badForm := crcOk }) ∧
    (x.down = false → repeats → ∃ t, exec (.flitReceive (24 + l) 1 crcOk formOk) s = .next t ∧
      (l ≠ 16 → t.mem = s.mem ∧ (t.link l).down = true ∧ t.told = s.told ++ [(9, l)]) ∧ (l = 16 → s.phase = 0x05 → t.phase = 0xF2)) ∧
    ∃ t, exec (.retryRequest (24 + l) 1) s = .next t ∧ t.mem = s.mem ∧ t.link l = { x with discarding := false }) ∧
  -- what goes out
  (∀ (s : State) (l : Nat), l ≤ 16 →
    let x := s.link l
    let q := x.out
    (q.discarding = true → (∀ f ∈ q.wire, f.seq ≠ q.expect) → ∃ t, exec (.retryRequest (24 + l) 0) s = .next t ∧ t.mem = s.mem ∧
      t.link l = { x with out := { q with
        wire := q.wire ++ (q.buffer.filter fun f => decide (q.expect ≤ f.seq)).map fun f => { f with replay := true } } }) ∧
    (0 < q.unacked → (16 ≤ q.unacked ∨ q.oldest + 128 ≤ s.tick) → ∃ t, exec (.ackTimeout (24 + l) 0) s = .next t ∧ t.mem = s.mem ∧
      t.link l = { x with out := { q with acks := q.acks ++ [q.expect], unacked := 0, oldest := 0 } }) ∧
    ∀ (f : Flit) (rest : List Flit), q.wire = f :: rest → f.seq = q.expect → q.ackDue s.tick = false → x.down = false →
      (∀ (id n : Nat) (head : BitVec 128) (r : Req), f.body = [(.req id head, n, true)] → s.req? id = some r → r.stage = .link l →
        State.headerOkOut l head = true →
        ∃ t, exec (.flitReceive (24 + l) 0 true true) s = .next t ∧ t.mem = s.mem ∧ t.req? id = some { r with stage := .away l }) ∧
      (∀ crcOk formOk, (crcOk && formOk) = false → f.replay = false → ∃ t, exec (.flitReceive (24 + l) 0 crcOk formOk) s = .next t ∧
        t.mem = s.mem ∧ t.link l = { x with out := { q with wire := rest, discarding := true, badForm := crcOk } }) ∧
      (f.replay = true → q.badForm = true → ∃ t, exec (.flitReceive (24 + l) 0 true false) s = .next t ∧
        (l ≠ 16 → t.mem = s.mem ∧ (t.link l).down = true) ∧ (l = 16 → s.phase = 0x05 → t.phase = 0xF2))) ∧
  -- window acknowledges
  (∀ (s : State) (agent seq : Nat), ∃ t, exec (.windowAcknowledge 2 agent seq) s = .next t ∧ t.mem = s.mem ∧
    ∀ w, w ∈ t.outerWindow ↔ w ∈ s.outerWindow ∧ ¬ (w.1 = agent ∧ (BitVec.ofNat 16 seq - w.2.1).toNat < 2 ^ 15)) ∧
  (∀ (s : State) (die agent seq : Nat), die < 2 →
    let waits (r : Req) : Prop := r.agent.toNat = agent ∧ r.srcDie = 1 - die ∧ r.via ≠ none ∧
      (BitVec.ofNat 16 seq - r.seq).toNat < 2 ^ 15 ∧ r.stage ≠ .here ∧ r.stage ≠ .waiter
    let asks (a : AgentReq) : Prop := a.errand.agent.toNat = agent ∧ a.die = 1 - die ∧ a.stage ≠ .held ∧
      (BitVec.ofNat 16 seq - a.errand.seq).toNat < 2 ^ 15
    let m := s.linkFor (State.agentModule agent)
    ((∃ r ∈ s.reqs, waits r) ∨ (∃ a ∈ s.errands, asks a) → exec (.windowAcknowledge die agent seq) s = .next s) ∧
    ((∀ r ∈ s.reqs, ¬ waits r) → (∀ a ∈ s.errands, ¬ asks a) →
      ∃ t, exec (.windowAcknowledge die agent seq) s = .next t ∧ t.mem = s.mem ∧ t.windows = s.windows ∧
      ((t.module m).dir (1 - die)).queue = ((s.module m).dir (1 - die)).queue ++
        [(.ack (BitVec.ofNat 7 agent) (1 - die) (BitVec.ofNat 16 seq), 1)])) ∧
  (∀ (s : State) (l agent die seq : Nat) (w : Receipt), l ≤ 16 → agent < 128 → w ∈ s.receipts →
    let mine (x : Receipt) : Prop := x.link = l ∧ x.agent.toNat = agent ∧ x.srcDie = die
    let waits (r : Req) : Prop := r.dest ≠ .dev ∧ r.agent.toNat = agent ∧ r.srcDie = die ∧ (∀ off n m least, r.kind ≠ .sigw off n m least) ∧
      (BitVec.ofNat 16 seq - r.seq).toNat < 2 ^ 15 ∧ ∃ k, r.stage = .out k ∨ r.stage = .link k ∨ r.stage = .away k
    mine w → w.seq = BitVec.ofNat 16 seq →
    ((∃ r ∈ s.reqs, waits r) → exec (.windowAcknowledge (3 + l) (agent + 128 * die) seq) s = .next s) ∧
    ((∀ r ∈ s.reqs, ¬ waits r) → ∃ t, exec (.windowAcknowledge (3 + l) (agent + 128 * die) seq) s = .next t ∧ t.mem = s.mem ∧
      (∀ x, x ∈ t.receipts ↔ x ∈ s.receipts ∧ ¬ (mine x ∧ (BitVec.ofNat 16 seq - x.seq).toNat < 2 ^ 15)) ∧
      (t.link l).out.queue = (s.link l).out.queue ++ [(.ack (BitVec.ofNat 7 agent) die (BitVec.ofNat 16 seq), 1)])) ∧
  (∀ (s : State) (id l : Nat) (r : Req) (x : Option (List Byte)), s.req? id = some r → r.stage = .away l → l ≤ 16 →
    (s.link l).discarding = false → (s.link l).down = false → (∀ q ∈ s.reqs, State.before q r = false) →
    ∃ t, exec (.reply id x) s = .next t ∧
      t.receipts = s.receipts ++ [{ dest := r.dest, link := l, agent := r.agent, srcDie := r.srcDie, seq := r.seq }]) ∧
  (∀ (s : State) (id p j f : Nat) (r : Req), s.req? id = some r → r.dest = .peer p → r.kind = .fill f →
    (r.stage = .out j ∨ r.stage = .link j ∨ r.stage = .away j) →
    (s.clock < r.sent + 600000 → exec (.peerTimeout id) s = .next s) ∧
    (r.sent + 600000 ≤ s.clock → ∃ t q, exec (.peerTimeout id) s = .next t ∧ t.mem = s.mem ∧ t.req? id = some q ∧ q.stage = .here ∧
      State.carried q.result = (0, -1))) ∧
  -- requests of peers
  (∀ (s : State) (peer seq pa : Nat) (src : PeerSource) (op : OuterOp),
    let chan := 1024 + 4096 * src.port + 256 * peer + 128 * src.die + src.agent
    let e := s.peers.get 0 peer
    let i : Instr := .peerRequest peer src seq pa op
    let writes : Bool := match op with
      | .read _ => false
      | .readLine => false
      | .sigw _ _ => false
      | _ => true
    let here : Prop := peer < 16 ∧ src.port < 16 ∧ src.die < 2 ∧ src.agent < 128 ∧ (s.link src.port).discarding = false ∧
      (s.link src.port).down = false ∧ ¬ (s.phase = 0xF2 ∧ writes = true)
    -- one that waits on this device is performed, whatever has become of the link by which it came
    (∀ r o, s.outerReq chan seq = some r → s.performable r = true → r.kind = .outer chan (BitVec.ofNat 16 seq) o →
      exec i s = .next (s.outerPerform r o)) ∧
    let comes : Prop := here ∧ ∀ r, s.outerReq chan seq = some r → s.performable r = false
    (¬ here → (∀ r, s.outerReq chan seq = some r → s.performable r = false) → exec i s = .next s) ∧
    (comes → State.peerAllows e pa op = true → backed pa = false → exec i s = .fault .unbackedPeerAddress) ∧
    (comes → State.peerAllows e pa op = true → backed pa = true →
      (s.outerKnown chan seq = true → op ≠ .readLine → exec i s = .next (s.answerAgain chan seq)) ∧
      (s.outerKnown chan seq = false →
        s.outerReq chan seq = none → s.outerRoom chan = true → ∃ t r, exec i s = .next t ∧ t.mem = s.mem ∧ r ∈ t.reqs ∧
          r.kind = .outer chan (BitVec.ofNat 16 seq) op ∧ r.dest = .dev ∧ r.pa = pa ∧ r.agent = 98 ∧
          r.srcDie = if src.port < 8 then 0 else 1)) ∧
    (here → State.peerAllows e pa op = false → s.outerKnown chan seq = false → s.outerReq chan seq = none → s.outerRoom chan = true →
      let status := if State.outerReturns op then 1 else 0
      ∃ t, exec i s = .next t ∧ t.mem = s.mem ∧
        t.told = (if State.outerReturns op then s.told else s.told ++ [(4, peer)]) ∧
        t.outerWindow = s.outerWindow ++ [(chan, BitVec.ofNat 16 seq, status, [])] ∧
        (t.link src.port).out.queue = (s.link src.port).out.queue ++ [(.answer chan (BitVec.ofNat 16 seq) status 0, 1)])) ∧
  (∀ (e : W64) (pa : Nat) (op : OuterOp), State.peerAllows e pa op = (e.getLsbD 0 && e.getLsbD (12 + pa / 2 ^ 36 % 8) && e.getLsbD (
    match op with
    | .read _ => 1
    | .readLine => 1
    | .sigw _ _ => 1
    | .write _ _ => 2
    | .writeLine _ _ => 2
    | .atom _ _ _ => 3
    | .red _ _ => 3
    | .sig _ _ => 3))) ∧
  -- what such a request does at its home, and its answer
  (∀ (s : State) (r : Req),
    let at_ (a n : Nat) : List (Nat × Nat × W32 × Bool) := (List.range n).map fun i =>
      (0, i, ((s.homeLine r.pa).byte (a + i)).setWidth 32, s.homePoison r.pa &&& nibbleMask (a + i) 1 != 0)
    (∀ sz, s.outerPerform r (.read sz) = s.performed { r with result := at_ (r.pa % 128) sz.bytes }) ∧
    s.outerPerform r .readLine = s.performed { r with result := at_ 0 128 } ∧
    (∀ sz data, r.pa % 128 + sz.bytes ≤ 128 → s.Safe → s.sums = [] → ∀ a, (s.outerPerform r (.write sz data)).byteAt a =
      if r.pa ≤ a ∧ a < r.pa + sz.bytes then data.getD (a - r.pa) 0 else s.byteAt a) ∧
    (∀ t v, let n := if t.wide then 8 else 4
      let w := r.pa - r.pa % n
      s.Safe → s.sums = [] →
      (s.wordPoisoned w n = true → (s.outerPerform r (.sig t v)).mem = s.mem) ∧
      (s.wordPoisoned w n = false →
        Memory.read (s.outerPerform r (.sig t v)).mem w n = (Memory.read s.mem w n + v.toNat) % 2 ^ (8 * n)))) ∧
  (∀ (s : State) (id chan : Nat) (seq : BitVec 16) (op : OuterOp) (r : Req) (x : Option (List Byte)), s.req? id = some r →
    r.kind = .outer chan seq op → r.stage = .here → s.outerKnown chan seq.toNat = false →
    (r.result.filter fun e => decide (e.2.1 < 128)).length ≤ 16 →
    ∃ t, exec (.reply id x) s = .next t ∧ t.mem = s.mem ∧ (∀ q ∈ t.reqs, q.id ≠ id) ∧ t.outerWindow = s.outerWindow ++ [(chan, seq,
      if r.result.any (fun e => e.2.2.2) then 1
      else match op, r.ok with
        | .sigw _ _, false => 2
        | _, _ => 0, (r.result.filter fun e => decide (e.2.1 < 128)).map fun e => e.2.2.1.setWidth 8)]) ∧
  (∀ (s : State) (chan seq pa : Nat) (op o : OuterOp) (r : Req), s.outerReq chan seq = some r → s.performable r = true →
    r.kind = .outer chan (BitVec.ofNat 16 seq) o →
    exec (.hostMemoryRead chan seq pa op) s = .next (s.outerPerform r o) ∧
      exec (.hostMemoryWrite chan seq pa op) s = .next (s.outerPerform r o)) ∧
  ∀ (s : State) (chan seq pa : Nat) (size : Size) (data : List Byte), s.outerKnown chan seq = false → s.outerReq chan seq = none →
    s.outerRoom chan = true → (s.link 16).discarding = false →
    let asks (i : Instr) (op : OuterOp) : Prop := ∃ t r, exec i s = .next t ∧ t.mem = s.mem ∧ r ∈ t.reqs ∧
      r.kind = .outer chan (BitVec.ofNat 16 seq) op ∧ r.dest = .dev ∧ r.pa = pa
    let read : Instr := .hostMemoryRead chan seq pa (.read size)
    let write : Instr := .hostMemoryWrite chan seq pa (.write size data)
    (128 < pa % 128 + size.bytes → exec read s = .next (s.noteOuter chan seq 2 [])) ∧
    (pa % 128 + size.bytes ≤ 128 →
      (backed pa = false → exec read s = .next (s.noteOuter chan seq 0 (List.replicate size.bytes 0))) ∧
      (backed pa = true → asks read (.read size))) ∧
    (s.phase = 0xF2 → exec write s = .next s) ∧
    (s.phase ≠ 0xF2 → (128 < pa % 128 + size.bytes → exec write s = .next (s.noteOuter chan seq 2 [])) ∧
      (pa % 128 + size.bytes ≤ 128 → (backed pa = false → exec write s = .next (s.noteOuter chan seq 0 [])) ∧
        (backed pa = true → asks write (.write size data)))) ∧
    ∀ t status reply, t = s.noteOuter chan seq status reply → reply.length ≤ 16 → t.mem = s.mem ∧ t.reqs = s.reqs ∧
      t.outerWindow = s.outerWindow ++ [(chan, BitVec.ofNat 16 seq, status, reply)]

/-- R28, R191, R192, R239 to R242, R244: `stkgive` ends at once where its rule says so, its predicate written when S reports
it, and else leaves a request that the arbiter decides at the cycle's end; `stkown` asks the arbiter, across the link where
the die's routing entry says so; a hand-over holds the requests that reach the port from then on, drains the frames, turns
the ways of the stack stale (a way whose line is being filled when the fill arrives), releases the replicas, drops its
translations, and switches the owner and both routes, after which the giver's predicate is true and the held requests go on,
but for one whose source's window to the other die is full. Where it rests on the model's own choices, these are log entries
2, 15, 46, 88. -/
def Obligations.HandOver : Prop :=
  (∀ (s : State) (c n len : Nat) (g : Guard) (p : PredNo) (a : Reg) (b : OpB), s.Runs c n len g (a.toNat :: b.srcs false) →
    let u := s.slot c n
    let k := (u.reg a.toNat).toNat
    let die := (u.b32 b).toNat
    let ends (v : Bool) : Prop := ∃ t, exec (.stkgive g p a b) s = .next t ∧ t.mem = s.mem ∧ t.reqs = s.reqs ∧
      t.slot c n = ((u.enter .s s.nextId false).complete .s s.nextId (some (p, v))).goto (pcAdd u.pc len) ∧
      (u.opsS = [] → t.slot c n = (u.setPred p v).goto (pcAdd u.pc len))
    k ≤ 7 → die ≤ 1 → (s.bindOf c n).give.getLsbD k = true →
    ((s.arbiter k).owner ≠ c / 96 ∨ (s.arbiter k).step ≠ 0 → ends false) ∧
    ((s.arbiter k).owner = c / 96 → (s.arbiter k).step = 0 →
      ((s.arbiter k).owner = die → ends true) ∧
      ((s.arbiter k).owner ≠ die → ∃ t r, exec (.stkgive g p a b) s = .next t ∧ t.mem = s.mem ∧
        t.slot c n = (u.enter .s s.nextId false).goto (pcAdd u.pc len) ∧ r ∈ t.reqs ∧ r.kind = .give k die p ∧ r.stage = .port ∧
        r.core = c ∧ r.lanes = [n] ∧ r.ops = [(n, .s, s.nextId)]))) ∧
  (∀ (s : State) (c n len : Nat) (g : Guard) (p : PredNo) (a : Reg), s.Runs c n len g [a.toNat] →
    let u := s.slot c n
    let k := (u.reg a.toNat).toNat
    k ≤ 7 → ∃ t r, exec (.stkown g p a) s = .next t ∧ t.mem = s.mem ∧
      t.slot c n = (u.enter .s s.nextId false).goto (pcAdd u.pc len) ∧ r ∈ t.reqs ∧ r.kind = .own k p ∧
      (s.route (c / 96) k = c / 96 → r.stage = .here) ∧
      (s.route (c / 96) k ≠ c / 96 → r.stage = .source ∨ ∃ m, r.stage = .out m) ∧ r.core = c ∧ r.lanes = [n] ∧ r.ops = [(n, .s, s.nextId)]) ∧
  (∀ (s : State) (k die : Nat) (r : Req), s.allIssued = true →
    (s.gives k = [] → ∃ t, exec (.handOverControl k) s = .next t ∧ t.mem = s.mem ∧ t.arbiters = s.arbiters ∧ t.reqs = s.reqs) ∧
    (s.gives k = [(r, die)] → (s.arbiter k).step = 0 → ∃ t, exec (.handOverControl k) s = .next t ∧ t.mem = s.mem ∧
      t.arbiter k = { s.arbiter k with to_ := die, step := 1, core := r.core, req := r.id } ∧
      ∀ q ∈ s.reqs, q.id ≠ r.id → q.stage = .port → q.dest = .dev → stackOf q.pa = k → State.neverHeld q.kind = false →
        s.tick < q.arrives → { q with stage := .held } ∈ t.reqs) ∧
    ∀ n op p, s.gives k = [(r, die)] → (s.arbiter k).step ≠ 0 → r.kind = .give k die p → r.ops = [(n, .s, op)] →
      (s.slot r.core n).counts .s op = true →
      ∃ t, exec (.handOverControl k) s = .next t ∧ t.mem = s.mem ∧ t.arbiter k = s.arbiter k ∧ (∀ q ∈ t.reqs, q.id ≠ r.id) ∧
        t.slot r.core n = (s.slot r.core n).complete .s op (some (p, false))) ∧
  -- requests that reach the port of a stack in hand-over
  (∀ (s : State) (id f : Nat) (r : Req), s.req? id = some r → r.kind = .fill f → r.dest = .dev → (s.arbiter (stackOf r.pa)).step ≠ 0 →
    (r.stage = .source → s.maySend r = true → s.route r.srcDie (stackOf r.pa) = r.srcDie →
      ∃ t q, exec (.requestEntryFree id) s = .next t ∧ t.mem = s.mem ∧ q ∈ t.reqs ∧ q.id = id ∧ q.stage = .held) ∧
    ∀ (m d j n : Nat) (head : BitVec 128) (x : Flit) (rest : List Flit), m < 24 → State.headerOk head = true → d < 2 → (s.module m).state = .active →
      ((s.module m).dir d).wire = x :: rest → x.seq = ((s.module m).dir d).expect → ((s.module m).dir d).ackDue s.tick = false →
      x.body = [(.req id head, n, true)] → r.stage = .out j →
      (∀ w ∈ s.windows, ¬ (w.die = 1 - d ∧ w.agent = r.agent ∧ w.srcDie = r.srcDie ∧ w.seq = r.seq)) →
      ∃ t, exec (.flitReceive m d true true) s = .next t ∧ t.mem = s.mem ∧ t.req? id = some { r with stage := .held, arrives := s.tick + 1 }) ∧
  (∀ (s : State) (k : Nat), (s.arbiter k).step = 1 → s.controlQuiet = true →
    (∀ r ∈ s.reqs, r.dest = .dev → stackOf r.pa = k → r.stage ≠ .port ∧ ∀ m, m < 24 → r.stage ≠ .back m) →
    ∃ t, exec (.handoverDrain k) s = .next t ∧ t.mem = s.mem ∧ (t.arbiter k).step = 2 ∧ (t.arbiter k).owner = (s.arbiter k).owner ∧
      (∀ c f x, AMap.find? (t.core c).frames f = some x → x.dest = .dev → stackOf x.line = k →
        (x.kind ≠ .sum → x.dirty = 0) ∧ (x.kind = .sum → x.data = 0)) ∧
      ∀ c f x, AMap.find? (s.core c).frames f = some x → x.dest = .dev → stackOf x.line = k →
        (x.kind ≠ .sum → x.dirty ≠ 0 → ∃ r ∈ t.reqs, r.kind = .writeBack x.dirty (x.poison &&& x.dirty) x.data ∧ r.core = c ∧
          r.dest = .dev ∧ r.pa = x.line) ∧
        (x.kind = .sum → ∃ r ∈ t.reqs, r.kind = .sum x.data ∧ r.core = c ∧ r.dest = .dev ∧ r.pa = x.line)) ∧
  (∀ (s : State) (k : Nat), (s.arbiter k).step = 2 → s.controlQuiet = true → (∀ e ∈ s.cores, s.closedNow e.1 = false) →
    (∀ r ∈ s.reqs, r.dest = .dev → stackOf r.pa = k → State.neverHeld r.kind = true → State.unperformed r.stage = false) →
    (∀ c, (s.core c).waits = []) →
    ∃ t, exec (.handoverClose k) s = .next t ∧ t.mem = s.mem ∧ (t.arbiter k).step = 5 ∧ (t.arbiter k).owner = (s.arbiter k).owner ∧
      (∀ die, ∀ e ∈ t.l2 die, e.dest = .dev → stackOf (pteAddr e.leaf) ≠ k) ∧
      (∀ c, ∀ e ∈ (t.core c).l1, e.dest = .dev → stackOf (pteAddr e.leaf) ≠ k) ∧
      (∀ c u r w,
        let x := (s.core c).way u r w
        x.dest = .dev → stackOf x.pa = k →
        (x.kind = .home → ((t.core c).way u r w).kind = .stale) ∧
        (∀ f y, x.kind = .frame f → AMap.find? (s.core c).frames f = some y →
          (y.fill = none → ((t.core c).way u r w).kind = .stale) ∧
          (y.fill ≠ none → (t.core c).way u r w = { x with moved := true }))) ∧
      ∀ c f x, AMap.find? (t.core c).frames f = some x → x.dest = .dev → stackOf x.line = k → dieOf c = (s.arbiter k).owner →
        x.refs ≠ 0) ∧
  ∀ (s : State) (k : Nat), k < 8 → (s.arbiter k).step = 5 → s.controlQuiet = true →
    let a := s.arbiter k
    (∃ t, exec (.handoverSwitch k) s = .next t ∧ t.mem = s.mem ∧ (t.arbiter k).owner = a.to_ ∧ (t.arbiter k).step = 0 ∧
      (t.arbiter k).hcount.toNat = min 0xFFFFFF (a.hcount.toNat + 1) ∧ t.route 0 k = a.to_ ∧ t.route 1 k = a.to_) ∧
    (∀ (n op : Nat) (p : PredNo) (r : Req), (∀ q ∈ s.reqs, q.stage ≠ .held) → s.req? a.req = some r → r.kind = .give k a.to_ p →
      r.ops = [(n, .s, op)] → (s.slot r.core n).counts .s op = true →
      ∃ t, exec (.handoverSwitch k) s = .next t ∧ t.slot r.core n = (s.slot r.core n).complete .s op (some (p, true)) ∧
        ∀ q ∈ t.reqs, q.id ≠ r.id) ∧
    ∀ r : Req, s.reqs = [r] → r.stage = .held → r.dest = .dev → stackOf r.pa = k → r.id ≠ a.req → a.to_ ≠ a.owner →
      (r.srcDie ≠ a.owner → ∃ t, exec (.handoverSwitch k) s = .next t ∧ t.reqs = [{ r with stage := .port }]) ∧
      (r.srcDie = a.owner → (s.controlMessage k).unacknowledged r.agent r.srcDie < 1024 →
        ∃ t q m, exec (.handoverSwitch k) s = .next t ∧ t.reqs = [q] ∧ q.id = r.id ∧ q.stage = .out m) ∧
      -- with its source's window full it waits there
      (r.srcDie = a.owner → 1024 ≤ (s.controlMessage k).unacknowledged r.agent r.srcDie →
        ∃ t, exec (.handoverSwitch k) s = .next t ∧ t.reqs = [{ r with stage := .source }])
end

