-- ==== Sys2Proof/Laws/Decode.lean ====
section
/-! SUPPORT. The decoder arm by arm: what it does with each opcode, said once, and that operand fields and codes read back
as they were written. -/

namespace Sys2Proof

@[simp] theorem IntTy.ofCode_code (t : IntTy) : IntTy.ofCode t.code = some t := by cases t <;> rfl
@[simp] theorem I32Ty.ofCode_code (t : I32Ty) : I32Ty.ofCode t.code = some t := by cases t <;> rfl
@[simp] theorem SgnTy.ofCode_code (t : SgnTy) : SgnTy.ofCode t.code = some t := by cases t <;> rfl
@[simp] theorem NatTy.ofCode_code (t : NatTy) : NatTy.ofCode t.code = some t := by cases t <;> rfl
@[simp] theorem BtTy.ofCode_code (t : BtTy) : BtTy.ofCode t.code = some t := by cases t <;> rfl
@[simp] theorem ShrTy.ofCode_code (t : ShrTy) : ShrTy.ofCode t.code = some t := by cases t <;> rfl
@[simp] theorem FTy.ofCode_code (t : FTy) : FTy.ofCode t.code = some t := by cases t <;> rfl
@[simp] theorem F16Ty.ofCode_code (t : F16Ty) : F16Ty.ofCode t.code = some t := by cases t <;> rfl
@[simp] theorem LnTy.ofCode_code (t : LnTy) : LnTy.ofCode t.code = some t := by cases t <;> rfl
@[simp] theorem CvtTy.ofCode_code (t : CvtTy) : CvtTy.ofCode t.code = some t := by cases t <;> rfl
@[simp] theorem Pk8Ty.ofCode_code (t : Pk8Ty) : Pk8Ty.ofCode t.code = some t := by cases t <;> rfl
@[simp] theorem Pk4Ty.ofCode_code (t : Pk4Ty) : Pk4Ty.ofCode t.code = some t := by cases t <;> rfl
@[simp] theorem ScalTy.ofCode_code (t : ScalTy) : ScalTy.ofCode t.code = some t := by cases t <;> rfl
@[simp] theorem ElTy.ofCode_code (t : ElTy) : ElTy.ofCode t.code = some t := by cases t <;> rfl
@[simp] theorem MatchTy.ofCode_code (t : MatchTy) : MatchTy.ofCode t.code = some t := by cases t <;> rfl
@[simp] theorem Num32.ofCode_code (t : Num32) : Num32.ofCode t.code = some t := by cases t <;> rfl
@[simp] theorem SReg.ofNumber_number (t : SReg) : SReg.ofNumber t.number = some t := by cases t <;> rfl
@[simp] theorem Cond.ofCode_code (t : Cond) : Cond.ofCode t.code = some t := by cases t <;> rfl
@[simp] theorem ArithOp.ofCode_code (t : ArithOp) : ArithOp.ofCode t.code = some t := by cases t <;> rfl
@[simp] theorem BitOp.ofCode_code (t : BitOp) : BitOp.ofCode t.code = some t := by cases t <;> rfl
@[simp] theorem NumTy.ofCode_code (t : NumTy) : NumTy.ofCode t.code = some t := by rcases t with (_ | _ | _ | _) | _ <;> rfl
@[simp] theorem Size.ofCode_code (t : Size) : Size.ofCode t.code = some t := by cases t <;> rfl
@[simp] theorem OpenMode.ofCode_code (t : OpenMode) : OpenMode.ofCode t.code = some t := by cases t <;> rfl
@[simp] theorem ShflMode.ofCode_code (t : ShflMode) : ShflMode.ofCode t.code = some t := by cases t <;> rfl
@[simp] theorem HldField.ofCode_code (t : HldField) : HldField.ofCode t.code = some t := by cases t <;> rfl
@[simp] theorem UPack.ofCode_code (t : UPack) : UPack.ofCode t.code = some t := by cases t <;> rfl
@[simp] theorem UWr.ofCode_code (t : UWr) : UWr.ofCode t.code = some t := by cases t <;> rfl
@[simp] theorem SetpTest.ofCode_op (t : SetpTest) : SetpTest.ofCode t.op t.ty = some t := by rcases t with ⟨c, t⟩ | ⟨b, t⟩ | c | _ | _ <;> (try cases c) <;> (try cases b) <;> (try cases t) <;> rfl
@[simp] theorem RedOp.ofCode_op (t : RedOp) : RedOp.ofCode t.op t.ty = some t := by rcases t with ⟨o, t | _⟩ | ⟨o, t⟩ <;> cases o <;> (try cases t) <;> rfl
@[simp] theorem AtomOp.ofCode_op (t : AtomOp) : AtomOp.ofCode t.op t.ty = some t := by rcases t with (⟨o, t | _⟩ | ⟨o, t⟩) | t | t <;> (try cases o) <;> (try cases t) <;> rfl
@[simp] theorem TredOp.ofCode_op (t : TredOp) : TredOp.ofCode t.op t.ty = some t := by rcases t with ⟨o, t | _⟩ | o <;> cases o <;> (try cases t) <;> rfl
@[simp] theorem CrOp.ofCode_op (t : CrOp) : CrOp.ofCode t.op t.ty = some t := by rcases t with ⟨o, t⟩ | o <;> cases o <;> (try cases t) <;> rfl
@[simp] theorem rmOf_code (r : RM) : rmOf r.code = r := by cases r <;> rfl
@[simp] theorem UCmp.ofCode_code (t : UCmp) : UCmp.ofCode t.code = t := by cases t <;> rfl
@[simp] theorem UCvt.ofCode_code (t : UCvt) : UCvt.ofCode t.code t.rm = some t := by
  rcases t with r | r | r | r | _ | _ | _ | r <;> (try cases r) <;> rfl
@[simp] theorem isPred_predField (p : PredNo) : isPred (predField p) = true := by revert p; decide
@[simp] theorem predOf_predField (p : PredNo) : predOf (predField p) = p := by revert p; decide
@[simp] theorem isLine_lineField (l : LineOp) : isLine (lineField l) = true := by
  obtain ⟨r, _ | w⟩ := l
  · revert r; decide
  · revert r w; decide
@[simp] theorem lineOf_lineField (l : LineOp) : lineOf (lineField l) = l := by
  obtain ⟨r, _ | w⟩ := l
  · revert r; decide
  · revert r w; decide
@[simp] theorem isTile_zeroExtend (t : BitVec 6) : isTile (t.setWidth 8) = true := by revert t; decide
@[simp] theorem target_bit (l : BitVec 4) (p : PredNo) : (targetField l p)[3] = false := by revert l p; decide
@[simp] theorem target_and (l : BitVec 4) (p : PredNo) : targetField l p &&& 8#8 = 0#8 := by revert l p; decide
@[simp] theorem target_line (l : BitVec 4) (p : PredNo) : (targetField l p).extractLsb' 4 4 = l := by revert l p; decide
@[simp] theorem target_pred (l : BitVec 4) (p : PredNo) : (targetField l p).extractLsb' 0 3 = p := by revert l p; decide
/-- The low bits of a zero-extended value are the value, and the others are zero. -/
@[simp] theorem extract_low {n m : Nat} (x : BitVec n) (h : n ≤ m) : (x.setWidth m).extractLsb' 0 n = x := by
  refine BitVec.eq_of_getLsbD_eq fun i hi => ?_
  simp [hi]; omega
theorem extract_high {n m k : Nat} (x : BitVec n) : (x.setWidth m).extractLsb' n k = 0 := by
  refine BitVec.eq_of_getLsbD_eq fun i hi => ?_
  simp [BitVec.getLsbD_extractLsb']
theorem shift_high {n m : Nat} (x : BitVec n) : (x.setWidth m) >>> n = 0 := by
  refine BitVec.eq_of_getLsbD_eq fun i hi => ?_
  simp
/-- The five thresholds of a `wait` in IMM32. -/
theorem WaitSet.imm_parts (w : WaitSet) :
    w.imm.extractLsb' 0 6 = w.o.getD 0 ∧ w.imm.extractLsb' 6 6 = w.h.getD 0 ∧ w.imm.extractLsb' 12 6 = w.c.getD 0 ∧
      w.imm.extractLsb' 18 6 = w.m.getD 0 ∧ w.imm.extractLsb' 24 6 = w.s.getD 0 ∧ w.imm.extractLsb' 30 2 = 0 := by
  unfold WaitSet.imm
  generalize w.o.getD 0 = o, w.h.getD 0 = h, w.c.getD 0 = c, w.m.getD 0 = m, w.s.getD 0 = s
  refine ⟨?_, ?_, ?_, ?_, ?_, ?_⟩ <;> refine BitVec.eq_of_getLsbD_eq fun i hi => ?_ <;>
    simp only [BitVec.getLsbD_extractLsb', BitVec.getLsbD_append, hi, decide_true, Bool.true_and] <;>
    repeat' (split) <;> first | omega | (congr 1; omega) | skip
/-- The five enables of a `wait` in C. -/
theorem WaitSet.cField_bits (w : WaitSet) :
    w.cField.getLsbD 0 = w.o.isSome ∧ w.cField.getLsbD 1 = w.h.isSome ∧ w.cField.getLsbD 2 = w.c.isSome ∧
      w.cField.getLsbD 3 = w.m.isSome ∧ w.cField.getLsbD 4 = w.s.isSome ∧ w.cField.extractLsb' 5 3 = 0 := by
  unfold WaitSet.cField
  cases w.o.isSome <;> cases w.h.isSome <;> cases w.c.isSome <;> cases w.m.isSome <;> cases w.s.isSome <;> decide
@[simp] theorem waitOf_field (w : WaitSet) : waitOf w.cField w.imm = w := by
  obtain ⟨i0, i1, i2, i3, i4, i5⟩ := w.imm_parts
  obtain ⟨b0, b1, b2, b3, b4, b5⟩ := w.cField_bits
  simp only [waitOf, Nat.mul_zero, Nat.reduceMul, i0, i1, i2, i3, i4, b0, b1, b2, b3, b4]
  rcases w with ⟨_ | o, _ | h, _ | c, _ | m, _ | s⟩ <;> rfl
@[simp] theorem waitResOk_field (w : WaitSet) : waitResOk w.cField w.imm = true := by
  obtain ⟨i0, i1, i2, i3, i4, i5⟩ := w.imm_parts
  obtain ⟨b0, b1, b2, b3, b4, b5⟩ := w.cField_bits
  simp only [waitResOk, Nat.mul_zero, Nat.reduceMul, i0, i1, i2, i3, i4, i5, b0, b1, b2, b3, b4, b5]
  rcases w with ⟨_ | o, _ | h, _ | c, _ | m, _ | s⟩ <;> rfl
theorem WaitSet.enables_ne (w : WaitSet) (h : (w.o.isSome || w.h.isSome || w.c.isSome || w.m.isSome || w.s.isSome) = true) :
    (w.cField.extractLsb' 0 5 != 0) = true := by
  revert h
  unfold WaitSet.cField
  cases w.o.isSome <;> cases w.h.isSome <;> cases w.c.isSome <;> cases w.m.isSome <;> cases w.s.isSome <;> decide

/-! The arms. -/

theorem decodeXBody_000 (f : XFields) (h : f.xop.toNat = 0x000) : decodeXBody f = withTy (IntTy.ofCode f.ty) fun t => chk ((f.xf == 0) && (f.op == 0) && (f.rm == 0)) (f.bOk t.cnt && f.zC) (.add f.g t f.d f.a f.opB) := by
  unfold decodeXBody; rw [h]; rfl
theorem decodeXBody_001 (f : XFields) (h : f.xop.toNat = 0x001) : decodeXBody f = withTy (IntTy.ofCode f.ty) fun t => chk ((f.xf == 0) && (f.op == 0) && (f.rm == 0)) (f.bOk t.cnt && f.zC) (.sub f.g t f.d f.a f.opB) := by
  unfold decodeXBody; rw [h]; rfl
theorem decodeXBody_002 (f : XFields) (h : f.xop.toNat = 0x002) : decodeXBody f = withTy (IntTy.ofCode f.ty) fun t => chk ((f.xf == 0) && (f.op == 0) && (f.rm == 0)) (f.bOk t.cnt && f.zC) (.mul f.g t f.d f.a f.opB) := by
  unfold decodeXBody; rw [h]; rfl
theorem decodeXBody_003 (f : XFields) (h : f.xop.toNat = 0x003) : decodeXBody f = withTy (I32Ty.ofCode f.ty) fun t => chk ((f.xf == 0) && (f.op == 0) && (f.rm == 0)) (f.bOk 1 && f.zC) (.mulhi f.g t f.d f.a f.opB) := by
  unfold decodeXBody; rw [h]; rfl
theorem decodeXBody_004 (f : XFields) (h : f.xop.toNat = 0x004) : decodeXBody f = withTy (IntTy.ofCode f.ty) fun t => chk ((f.xf == 0) && (f.op == 0) && (f.rm == 0)) (f.bOk t.cnt) (.mad f.g t f.d f.a f.opB f.c) := by
  unfold decodeXBody; rw [h]; rfl
theorem decodeXBody_005 (f : XFields) (h : f.xop.toNat = 0x005) : decodeXBody f = withTy (I32Ty.ofCode f.ty) fun t => chk ((f.xf == 0) && (f.op == 0) && (f.rm == 0)) (f.bOk 1) (.madw f.g t f.d f.a f.opB f.c) := by
  unfold decodeXBody; rw [h]; rfl
theorem decodeXBody_006 (f : XFields) (h : f.xop.toNat = 0x006) : decodeXBody f = withTy (IntTy.ofCode f.ty) fun t => chk ((f.xf == 0) && (f.op == 0) && (f.rm == 0)) (f.bOk t.cnt && f.zC) (.min f.g t f.d f.a f.opB) := by
  unfold decodeXBody; rw [h]; rfl
theorem decodeXBody_007 (f : XFields) (h : f.xop.toNat = 0x007) : decodeXBody f = withTy (IntTy.ofCode f.ty) fun t => chk ((f.xf == 0) && (f.op == 0) && (f.rm == 0)) (f.bOk t.cnt && f.zC) (.max f.g t f.d f.a f.opB) := by
  unfold decodeXBody; rw [h]; rfl
theorem decodeXBody_008 (f : XFields) (h : f.xop.toNat = 0x008) : decodeXBody f = withTy (SgnTy.ofCode f.ty) fun t => chk ((f.xf == 0) && (f.op == 0) && (f.rm == 0) && !f.bi) (f.zB && f.zC && f.zI) (.abs f.g t f.d f.a) := by
  unfold decodeXBody; rw [h]; rfl
theorem decodeXBody_009 (f : XFields) (h : f.xop.toNat = 0x009) : decodeXBody f = withTy (SgnTy.ofCode f.ty) fun t => chk ((f.xf == 0) && (f.op == 0) && (f.rm == 0) && !f.bi) (f.zB && f.zC && f.zI) (.neg f.g t f.d f.a) := by
  unfold decodeXBody; rw [h]; rfl
theorem decodeXBody_00A (f : XFields) (h : f.xop.toNat = 0x00A) : decodeXBody f = withTy (NatTy.ofCode f.ty) fun t => chk ((f.xf == 0) && (f.op.toNat < 8) && (f.rm == 0)) (f.bOk t.cnt && f.zC) (.lea f.g t f.d f.a f.opB (f.op.extractLsb' 0 3)) := by
  unfold decodeXBody; rw [h]; rfl
theorem decodeXBody_010 (f : XFields) (h : f.xop.toNat = 0x010) : decodeXBody f = withTy (BtTy.ofCode f.ty) fun t => chk ((f.xf == 0) && (f.op == 0) && (f.rm == 0)) (f.bOk t.cnt && f.zC) (.and f.g t f.d f.a f.opB) := by
  unfold decodeXBody; rw [h]; rfl
theorem decodeXBody_011 (f : XFields) (h : f.xop.toNat = 0x011) : decodeXBody f = withTy (BtTy.ofCode f.ty) fun t => chk ((f.xf == 0) && (f.op == 0) && (f.rm == 0)) (f.bOk t.cnt && f.zC) (.or f.g t f.d f.a f.opB) := by
  unfold decodeXBody; rw [h]; rfl
theorem decodeXBody_012 (f : XFields) (h : f.xop.toNat = 0x012) : decodeXBody f = withTy (BtTy.ofCode f.ty) fun t => chk ((f.xf == 0) && (f.op == 0) && (f.rm == 0)) (f.bOk t.cnt && f.zC) (.xor f.g t f.d f.a f.opB) := by
  unfold decodeXBody; rw [h]; rfl
theorem decodeXBody_013 (f : XFields) (h : f.xop.toNat = 0x013) : decodeXBody f = withTy (BtTy.ofCode f.ty) fun t => chk ((f.xf == 0) && (f.op == 0) && (f.rm == 0) && !f.bi) (f.zB && f.zC && f.zI) (.not f.g t f.d f.a) := by
  unfold decodeXBody; rw [h]; rfl
theorem decodeXBody_014 (f : XFields) (h : f.xop.toNat = 0x014) : decodeXBody f = withTy (BtTy.ofCode f.ty) fun t => chk ((f.xf == 0) && (f.op == 0) && (f.rm == 0)) (f.bOk t.cnt && f.zC) (.andn f.g t f.d f.a f.opB) := by
  unfold decodeXBody; rw [h]; rfl
theorem decodeXBody_015 (f : XFields) (h : f.xop.toNat = 0x015) : decodeXBody f = withTy (BtTy.ofCode f.ty) fun t => chk ((f.xf == 0) && (f.op == 0) && (f.rm == 0)) (f.bOk t.cnt && f.zC) (.shl f.g t f.d f.a f.opB) := by
  unfold decodeXBody; rw [h]; rfl
theorem decodeXBody_016 (f : XFields) (h : f.xop.toNat = 0x016) : decodeXBody f = withTy (ShrTy.ofCode f.ty) fun t => chk ((f.xf == 0) && (f.op == 0) && (f.rm == 0)) (f.bOk t.cnt && f.zC) (.shr f.g t f.d f.a f.opB) := by
  unfold decodeXBody; rw [h]; rfl
theorem decodeXBody_017 (f : XFields) (h : f.xop.toNat = 0x017) : decodeXBody f = chk ((f.ty == 0x03) && (f.xf == 0) && (f.op == 0) && (f.rm == 0)) (f.bOk 1 && f.zC) (.rot f.g f.d f.a f.opB) := by
  unfold decodeXBody; rw [h]; rfl
theorem decodeXBody_018 (f : XFields) (h : f.xop.toNat = 0x018) : decodeXBody f = withTy (BtTy.ofCode f.ty) fun t => chk ((f.xf == 0) && (f.op == 0) && (f.rm == 0) && !f.bi) (f.zB && f.zC && f.zI) (.popc f.g t f.d f.a) := by
  unfold decodeXBody; rw [h]; rfl
theorem decodeXBody_019 (f : XFields) (h : f.xop.toNat = 0x019) : decodeXBody f = withTy (BtTy.ofCode f.ty) fun t => chk ((f.xf == 0) && (f.op == 0) && (f.rm == 0) && !f.bi) (f.zB && f.zC && f.zI) (.clz f.g t f.d f.a) := by
  unfold decodeXBody; rw [h]; rfl
theorem decodeXBody_01A (f : XFields) (h : f.xop.toNat = 0x01A) : decodeXBody f = chk ((f.ty == 0x03) && (f.xf == 0) && (f.op == 0) && (f.rm == 0) && !f.bi) (f.zB && f.zC && f.zI) (.brev f.g f.d f.a) := by
  unfold decodeXBody; rw [h]; rfl
theorem decodeXBody_01B (f : XFields) (h : f.xop.toNat = 0x01B) : decodeXBody f = withTy (I32Ty.ofCode f.ty) fun t => chk ((f.xf == 0) && (f.op == 0) && (f.rm == 0)) (f.bOk 1) (.bfe f.g t f.d f.a f.opB f.c) := by
  unfold decodeXBody; rw [h]; rfl
theorem decodeXBody_01C (f : XFields) (h : f.xop.toNat = 0x01C) : decodeXBody f = chk ((f.ty == 0x03) && (f.xf == 0) && (f.op == 0) && (f.rm == 0)) (f.bOk 1) (.bfi f.g f.d f.a f.opB f.c) := by
  unfold decodeXBody; rw [h]; rfl
theorem decodeXBody_01D (f : XFields) (h : f.xop.toNat = 0x01D) : decodeXBody f = withTy (BtTy.ofCode f.ty) fun t => chk ((f.xf == 0) && (f.op == 0) && (f.rm == 0)) (f.bOk t.cnt && isPred f.c) (.sel f.g t f.d f.a f.opB (predOf f.c)) := by
  unfold decodeXBody; rw [h]; rfl
theorem decodeXBody_01E (f : XFields) (h : f.xop.toNat = 0x01E) : decodeXBody f = withTy (BtTy.ofCode f.ty) fun t => chk ((f.xf == 0) && (f.op == 0) && (f.rm == 0)) (f.bOk t.cnt && f.zA && f.zC) (.mov f.g t f.d f.opB) := by
  unfold decodeXBody; rw [h]; rfl
theorem decodeXBody_028 (f : XFields) (h : f.xop.toNat = 0x028) : decodeXBody f = chk ((f.ty == 0x00) && (f.xf == 0) && (f.op == 0) && (f.rm == 0) && !f.bi) (isPred f.d && isPred f.a && isPred f.b && f.zC && f.zI) (.pand f.g (predOf f.d) (predOf f.a) (predOf f.b)) := by
  unfold decodeXBody; rw [h]; rfl
theorem decodeXBody_029 (f : XFields) (h : f.xop.toNat = 0x029) : decodeXBody f = chk ((f.ty == 0x00) && (f.xf == 0) && (f.op == 0) && (f.rm == 0) && !f.bi) (isPred f.d && isPred f.a && isPred f.b && f.zC && f.zI) (.por f.g (predOf f.d) (predOf f.a) (predOf f.b)) := by
  unfold decodeXBody; rw [h]; rfl
theorem decodeXBody_02A (f : XFields) (h : f.xop.toNat = 0x02A) : decodeXBody f = chk ((f.ty == 0x00) && (f.xf == 0) && (f.op == 0) && (f.rm == 0) && !f.bi) (isPred f.d && isPred f.a && isPred f.b && f.zC && f.zI) (.pxor f.g (predOf f.d) (predOf f.a) (predOf f.b)) := by
  unfold decodeXBody; rw [h]; rfl
theorem decodeXBody_02B (f : XFields) (h : f.xop.toNat = 0x02B) : decodeXBody f = chk ((f.ty == 0x00) && (f.xf == 0) && (f.op == 0) && (f.rm == 0) && !f.bi) (isPred f.d && isPred f.a && isPred f.b && f.zC && f.zI) (.pandn f.g (predOf f.d) (predOf f.a) (predOf f.b)) := by
  unfold decodeXBody; rw [h]; rfl
theorem decodeXBody_02C (f : XFields) (h : f.xop.toNat = 0x02C) : decodeXBody f = chk ((f.ty == 0x00) && (f.xf == 0) && (f.op == 0) && (f.rm == 0) && !f.bi) (isPred f.d && isPred f.a && f.zB && f.zC && f.zI) (.pmov f.g (predOf f.d) (predOf f.a)) := by
  unfold decodeXBody; rw [h]; rfl
theorem decodeXBody_02D (f : XFields) (h : f.xop.toNat = 0x02D) : decodeXBody f = chk ((f.ty == 0x00) && (f.xf == 0) && (f.op == 0) && (f.rm == 0) && !f.bi) (isPred f.d && isPred f.a && f.zB && f.zC && f.zI) (.pnot f.g (predOf f.d) (predOf f.a)) := by
  unfold decodeXBody; rw [h]; rfl
theorem decodeXBody_040 (f : XFields) (h : f.xop.toNat = 0x040) : decodeXBody f = withTy (FTy.ofCode f.ty) fun t => chk ((f.xf == 0) && (f.op == 0)) (f.bOk 1 && f.zC) (.fadd f.g t (rmOf f.rm) f.d f.a f.opB) := by
  unfold decodeXBody; rw [h]; rfl
theorem decodeXBody_041 (f : XFields) (h : f.xop.toNat = 0x041) : decodeXBody f = withTy (FTy.ofCode f.ty) fun t => chk ((f.xf == 0) && (f.op == 0)) (f.bOk 1 && f.zC) (.fsub f.g t (rmOf f.rm) f.d f.a f.opB) := by
  unfold decodeXBody; rw [h]; rfl
theorem decodeXBody_042 (f : XFields) (h : f.xop.toNat = 0x042) : decodeXBody f = withTy (FTy.ofCode f.ty) fun t => chk ((f.xf == 0) && (f.op == 0)) (f.bOk 1 && f.zC) (.fmul f.g t (rmOf f.rm) f.d f.a f.opB) := by
  unfold decodeXBody; rw [h]; rfl
theorem decodeXBody_043 (f : XFields) (h : f.xop.toNat = 0x043) : decodeXBody f = withTy (FTy.ofCode f.ty) fun t => chk ((f.xf == 0) && (f.op == 0)) (f.bOk 1) (.fma f.g t (rmOf f.rm) f.d f.a f.opB f.c) := by
  unfold decodeXBody; rw [h]; rfl
theorem decodeXBody_044 (f : XFields) (h : f.xop.toNat = 0x044) : decodeXBody f = withTy (FTy.ofCode f.ty) fun t => chk ((f.xf == 0) && (f.op == 0) && (f.rm == 0)) (f.bOk 1 && f.zC) (.fmin f.g t f.d f.a f.opB) := by
  unfold decodeXBody; rw [h]; rfl
theorem decodeXBody_045 (f : XFields) (h : f.xop.toNat = 0x045) : decodeXBody f = withTy (FTy.ofCode f.ty) fun t => chk ((f.xf == 0) && (f.op == 0) && (f.rm == 0)) (f.bOk 1 && f.zC) (.fmax f.g t f.d f.a f.opB) := by
  unfold decodeXBody; rw [h]; rfl
theorem decodeXBody_046 (f : XFields) (h : f.xop.toNat = 0x046) : decodeXBody f = withTy (FTy.ofCode f.ty) fun t => chk ((f.xf == 0) && (f.op == 0) && (f.rm == 0) && !f.bi) (f.zB && f.zC && f.zI) (.fabs f.g t f.d f.a) := by
  unfold decodeXBody; rw [h]; rfl
theorem decodeXBody_047 (f : XFields) (h : f.xop.toNat = 0x047) : decodeXBody f = withTy (FTy.ofCode f.ty) fun t => chk ((f.xf == 0) && (f.op == 0) && (f.rm == 0) && !f.bi) (f.zB && f.zC && f.zI) (.fneg f.g t f.d f.a) := by
  unfold decodeXBody; rw [h]; rfl
theorem decodeXBody_048 (f : XFields) (h : f.xop.toNat = 0x048) : decodeXBody f = withTy (FTy.ofCode f.ty) fun t => chk ((f.xf == 0) && (f.op == 0) && (f.rm == 0)) (f.bOk 1 && f.zC) (.fcsgn f.g t f.d f.a f.opB) := by
  unfold decodeXBody; rw [h]; rfl
theorem decodeXBody_049 (f : XFields) (h : f.xop.toNat = 0x049) : decodeXBody f = chk ((f.ty == 0x0E) && (f.xf == 0) && (f.op == 0)) (f.bOk 1 && f.zC) (.fscale f.g (rmOf f.rm) f.d f.a f.opB) := by
  unfold decodeXBody; rw [h]; rfl
theorem decodeXBody_04A (f : XFields) (h : f.xop.toNat = 0x04A) : decodeXBody f = withTy (FTy.ofCode f.ty) fun t => chk ((f.xf == 0) && (f.op == 0)) (f.bOk 1) (.fclamp f.g t (rmOf f.rm) f.d f.a f.opB f.c) := by
  unfold decodeXBody; rw [h]; rfl
theorem decodeXBody_04B (f : XFields) (h : f.xop.toNat = 0x04B) : decodeXBody f = withTy (FTy.ofCode f.ty) fun t => chk ((f.xf == 0) && (f.op == 0) && !f.bi) (f.zB && f.zC && f.zI) (.frnd f.g t (rmOf f.rm) f.d f.a) := by
  unfold decodeXBody; rw [h]; rfl
theorem decodeXBody_04C (f : XFields) (h : f.xop.toNat = 0x04C) : decodeXBody f = chk ((f.ty == 0x0E) && (f.xf == 0) && (f.op == 0) && !f.bi) (f.zB && f.zC && f.zI) (.frcp f.g (rmOf f.rm) f.d f.a) := by
  unfold decodeXBody; rw [h]; rfl
theorem decodeXBody_04D (f : XFields) (h : f.xop.toNat = 0x04D) : decodeXBody f = chk ((f.ty == 0x0E) && (f.xf == 0) && (f.op == 0) && !f.bi) (f.zB && f.zC && f.zI) (.fsqrt f.g (rmOf f.rm) f.d f.a) := by
  unfold decodeXBody; rw [h]; rfl
theorem decodeXBody_04E (f : XFields) (h : f.xop.toNat = 0x04E) : decodeXBody f = chk ((f.ty == 0x0E) && (f.xf == 0) && (f.op == 0) && !f.bi) (f.zB && f.zC && f.zI) (.frsqrt f.g (rmOf f.rm) f.d f.a) := by
  unfold decodeXBody; rw [h]; rfl
theorem decodeXBody_04F (f : XFields) (h : f.xop.toNat = 0x04F) : decodeXBody f = chk ((f.ty == 0x0E) && (f.xf == 0) && (f.op == 0) && !f.bi) (f.zB && f.zC && f.zI) (.fexp2 f.g (rmOf f.rm) f.d f.a) := by
  unfold decodeXBody; rw [h]; rfl
theorem decodeXBody_050 (f : XFields) (h : f.xop.toNat = 0x050) : decodeXBody f = chk ((f.ty == 0x0E) && (f.xf == 0) && (f.op == 0) && !f.bi) (f.zB && f.zC && f.zI) (.flog2 f.g (rmOf f.rm) f.d f.a) := by
  unfold decodeXBody; rw [h]; rfl
theorem decodeXBody_051 (f : XFields) (h : f.xop.toNat = 0x051) : decodeXBody f = chk ((f.ty == 0x0E) && (f.xf == 0) && (f.op == 0) && !f.bi) (f.zB && f.zC && f.zI) (.fsin f.g (rmOf f.rm) f.d f.a) := by
  unfold decodeXBody; rw [h]; rfl
theorem decodeXBody_052 (f : XFields) (h : f.xop.toNat = 0x052) : decodeXBody f = chk ((f.ty == 0x0E) && (f.xf == 0) && (f.op == 0) && !f.bi) (f.zB && f.zC && f.zI) (.fcos f.g (rmOf f.rm) f.d f.a) := by
  unfold decodeXBody; rw [h]; rfl
theorem decodeXBody_053 (f : XFields) (h : f.xop.toNat = 0x053) : decodeXBody f = withTy (F16Ty.ofCode f.ty) fun t => chk ((f.xf == 0) && (f.op == 0)) (f.bOk 1) (.fdot2 f.g t (rmOf f.rm) f.d f.a f.opB f.c) := by
  unfold decodeXBody; rw [h]; rfl
theorem decodeXBody_058 (f : XFields) (h : f.xop.toNat = 0x058) : decodeXBody f = withTy (LnTy.ofCode f.ty) fun t => chk ((f.xf == 0) && (f.op == 0)) (f.bOk 1 && f.zC) (.lmul f.g t (rmOf f.rm) f.d f.a f.opB) := by
  unfold decodeXBody; rw [h]; rfl
theorem decodeXBody_059 (f : XFields) (h : f.xop.toNat = 0x059) : decodeXBody f = withTy (LnTy.ofCode f.ty) fun t => chk ((f.xf == 0) && (f.op == 0)) (f.bOk 1) (.lmac f.g t (rmOf f.rm) f.d f.a f.opB f.c) := by
  unfold decodeXBody; rw [h]; rfl
theorem decodeXBody_061 (f : XFields) (h : f.xop.toNat = 0x061) : decodeXBody f = withTy (F16Ty.ofCode f.ty) fun t => chk ((f.xf == 0) && (f.op == 0)) (f.bOk 1 && f.zC) (.cvtp f.g t (rmOf f.rm) f.d f.a f.opB) := by
  unfold decodeXBody; rw [h]; rfl
theorem decodeXBody_062 (f : XFields) (h : f.xop.toNat = 0x062) : decodeXBody f = withTy (F16Ty.ofCode f.ty) fun t => chk ((f.xf == 0) && (f.op.toNat < 2) && !f.bi) (f.zB && f.zC && f.zI) (.cvtx f.g t (rmOf f.rm) f.d f.a (f.op.extractLsb' 0 1)) := by
  unfold decodeXBody; rw [h]; rfl
theorem decodeXBody_063 (f : XFields) (h : f.xop.toNat = 0x063) : decodeXBody f = withTy (Pk8Ty.ofCode f.ty) fun t => chk ((f.xf == 0) && (f.op.toNat < 2)) (f.bOk 1 && f.zC) (.pk8 f.g t (rmOf f.rm) f.d f.a f.opB (f.op.extractLsb' 0 1)) := by
  unfold decodeXBody; rw [h]; rfl
theorem decodeXBody_064 (f : XFields) (h : f.xop.toNat = 0x064) : decodeXBody f = withTy (Pk8Ty.ofCode f.ty) fun t => chk ((f.xf == 0) && (f.op.toNat < 4) && (f.rm == 0) && !f.bi) (f.zB && f.zC && f.zI) (.unp8 f.g t f.d f.a (f.op.extractLsb' 0 2)) := by
  unfold decodeXBody; rw [h]; rfl
theorem decodeXBody_065 (f : XFields) (h : f.xop.toNat = 0x065) : decodeXBody f = withTy (Pk4Ty.ofCode f.ty) fun t => chk ((f.xf == 0) && (f.op.toNat < 4)) (f.bOk 1 && f.zC) (.pk4 f.g t (rmOf f.rm) f.d f.a f.opB (f.op.extractLsb' 0 2)) := by
  unfold decodeXBody; rw [h]; rfl
theorem decodeXBody_066 (f : XFields) (h : f.xop.toNat = 0x066) : decodeXBody f = withTy (Pk4Ty.ofCode f.ty) fun t => chk ((f.xf == 0) && (f.op.toNat < 8) && (f.rm == 0) && !f.bi) (f.zB && f.zC && f.zI) (.unp4 f.g t f.d f.a (f.op.extractLsb' 0 3)) := by
  unfold decodeXBody; rw [h]; rfl
theorem decodeXBody_067 (f : XFields) (h : f.xop.toNat = 0x067) : decodeXBody f = withTy (LnTy.ofCode f.ty) fun t => chk ((f.xf == 0) && (f.op == 0) && (f.rm == 0) && !f.bi) (f.zB && f.zC && f.zI) (.lenc f.g t f.d f.a) := by
  unfold decodeXBody; rw [h]; rfl
theorem decodeXBody_068 (f : XFields) (h : f.xop.toNat = 0x068) : decodeXBody f = withTy (LnTy.ofCode f.ty) fun t => chk ((f.xf == 0) && (f.op == 0) && (f.rm == 0) && !f.bi) (f.zB && f.zC && f.zI) (.ldec f.g t f.d f.a) := by
  unfold decodeXBody; rw [h]; rfl
theorem decodeXBody_069 (f : XFields) (h : f.xop.toNat = 0x069) : decodeXBody f = withTy (ScalTy.ofCode f.ty) fun t => chk ((f.xf == 0) && (f.op == 0) && (f.rm == 0) && !f.bi) (f.zB && f.zC && f.zI) (.scal f.g t f.d f.a) := by
  unfold decodeXBody; rw [h]; rfl
theorem decodeXBody_070 (f : XFields) (h : f.xop.toNat = 0x070) : decodeXBody f = chk ((f.ty == 0x00) && (f.xf == 0) && (f.op == 0) && (f.rm == 0)) (f.bOk 1) (.perm f.g f.d f.a f.opB f.c) := by
  unfold decodeXBody; rw [h]; rfl
theorem decodeXBody_071 (f : XFields) (h : f.xop.toNat = 0x071) : decodeXBody f = chk ((f.ty == 0x00) && (f.xf == 0) && (f.op == 0) && (f.rm == 0)) (f.bOk 1) (.prmt f.g f.d f.a f.opB f.c) := by
  unfold decodeXBody; rw [h]; rfl
theorem decodeXBody_072 (f : XFields) (h : f.xop.toNat = 0x072) : decodeXBody f = chk ((f.ty == 0x00) && (f.xf == 0) && (f.op == 0) && (f.rm == 0) && !f.bi) (f.zB && f.zC && f.zI) (.bswp f.g f.d f.a) := by
  unfold decodeXBody; rw [h]; rfl
theorem decodeXBody_074 (f : XFields) (h : f.xop.toNat = 0x074) : decodeXBody f = chk ((f.ty == 0x0A) && (f.xf == 0) && (f.op == 0) && (f.rm == 0)) (f.bOk 1 && f.zC) (.bsub f.g f.d f.a f.opB) := by
  unfold decodeXBody; rw [h]; rfl
theorem decodeXBody_081 (f : XFields) (h : f.xop.toNat = 0x081) : decodeXBody f = chk ((f.ty == 0x00) && (f.xf == 0) && (f.op == 0) && (f.rm == 0) && !f.bi) ((f.d &&& 0x08 == 0) && f.zB && f.zC && f.zI) (.sopen f.g (f.d.extractLsb' 4 4) (f.d.extractLsb' 0 3) f.a) := by
  unfold decodeXBody; rw [h]; rfl
theorem decodeXBody_082 (f : XFields) (h : f.xop.toNat = 0x082) : decodeXBody f = chk ((f.ty == 0x00) && (f.xf == 0) && (f.op == 0) && (f.rm == 0) && !f.bi) (isLine f.a && f.zD && f.zB && f.zC && f.zI) (.recallLine f.g (lineOf f.a)) := by
  unfold decodeXBody; rw [h]; rfl
theorem decodeXBody_083 (f : XFields) (h : f.xop.toNat = 0x083) : decodeXBody f = chk ((f.ty == 0x00) && (f.xf == 0) && (f.op == 0) && (f.rm == 0) && !f.bi) (isLine f.a && f.zD && f.zB && f.zC && f.zI) (.flush f.g (lineOf f.a)) := by
  unfold decodeXBody; rw [h]; rfl
theorem decodeXBody_086 (f : XFields) (h : f.xop.toNat = 0x086) : decodeXBody f = withTy (ElTy.ofCode f.ty) fun t => chk ((f.xf == 0) && (f.op == 0) && (f.rm == 0) && !f.bi) (isLine f.a && (f.imm >>> 7 == 0) && f.zC) (.lde f.g t f.d (lineOf f.a) f.b (f.imm.extractLsb' 0 7)) := by
  unfold decodeXBody; rw [h]; rfl
theorem decodeXBody_087 (f : XFields) (h : f.xop.toNat = 0x087) : decodeXBody f = withTy (ElTy.ofCode f.ty) fun t => chk ((f.xf == 0) && (f.op == 0) && (f.rm == 0) && !f.bi) (isLine f.a && (f.imm >>> 7 == 0) && f.zC) (.ste f.g t (lineOf f.a) f.b f.d (f.imm.extractLsb' 0 7)) := by
  unfold decodeXBody; rw [h]; rfl
theorem decodeXBody_08A (f : XFields) (h : f.xop.toNat = 0x08A) : decodeXBody f = chk ((f.ty == 0x00) && (f.xf == 0) && (f.op == 0) && (f.rm == 0) && !f.bi) ((f.imm >>> 12 == 0) && f.zD && f.zB && f.zC) (.pfd f.g (f.imm.extractLsb' 0 12) f.a) := by
  unfold decodeXBody; rw [h]; rfl
theorem decodeXBody_0C0 (f : XFields) (h : f.xop.toNat = 0x0C0) : decodeXBody f = chk ((f.ty == 0x00) && (f.xf == 0) && (f.op == 0) && (f.rm == 0) && !f.bi) ((f.imm &&& 3 == 0) && f.zD && f.zA && f.zB && f.zC) (.bra f.g f.imm) := by
  unfold decodeXBody; rw [h]; rfl
theorem decodeXBody_0C2 (f : XFields) (h : f.xop.toNat = 0x0C2) : decodeXBody f = chk ((f.ty == 0x00) && (f.xf == 0) && (f.op == 0) && (f.rm == 0) && !f.bi) (f.zD && f.zB && f.zC && f.zI) (.callx f.g f.a) := by
  unfold decodeXBody; rw [h]; rfl
theorem decodeXBody_0C3 (f : XFields) (h : f.xop.toNat = 0x0C3) : decodeXBody f = chk ((f.ty == 0x00) && (f.xf == 0) && (f.op == 0) && (f.rm == 0) && !f.bi) (f.zD && f.zB && f.zC && f.zI) (.jmpx f.g f.a) := by
  unfold decodeXBody; rw [h]; rfl
theorem decodeXBody_0C4 (f : XFields) (h : f.xop.toNat = 0x0C4) : decodeXBody f = chk ((f.ty == 0x00) && (f.xf == 0) && (f.op == 0) && (f.rm == 0) && !f.bi) (f.zD && f.zB && f.zC && f.zI) (.ret f.g f.a) := by
  unfold decodeXBody; rw [h]; rfl
theorem decodeXBody_0C5 (f : XFields) (h : f.xop.toNat = 0x0C5) : decodeXBody f = chk ((f.ty == 0x00) && (f.xf == 0) && (f.op == 0) && (f.rm == 0) && !f.bi) (f.zD && f.zA && f.zB && f.zC && f.zI) (.exit f.g) := by
  unfold decodeXBody; rw [h]; rfl
theorem decodeXBody_0C6 (f : XFields) (h : f.xop.toNat = 0x0C6) : decodeXBody f = chk ((f.ty == 0x00) && (f.xf == 0) && (f.op == 0) && (f.rm == 0) && !f.bi) (f.zD && f.zA && f.zB && f.zC && f.zI) (.nop f.g) := by
  unfold decodeXBody; rw [h]; rfl
theorem decodeXBody_0C7 (f : XFields) (h : f.xop.toNat = 0x0C7) : decodeXBody f = chk ((f.ty == 0x00) && (f.xf == 0) && (f.op == 0) && (f.rm == 0)) (isPred f.d && f.bOk 1 && f.zA && f.zC) (.join f.g (predOf f.d) f.opB) := by
  unfold decodeXBody; rw [h]; rfl
theorem decodeXBody_0C8 (f : XFields) (h : f.xop.toNat = 0x0C8) : decodeXBody f = chk ((f.ty == 0x00) && (f.xf == 0) && (f.op == 0) && (f.rm == 0)) (isPred f.d && f.bOk 1 && f.zA && f.zC) (.leave f.g (predOf f.d) f.opB) := by
  unfold decodeXBody; rw [h]; rfl
theorem decodeXBody_0C9 (f : XFields) (h : f.xop.toNat = 0x0C9) : decodeXBody f = chk ((f.ty == 0x00) && (f.xf == 0) && (f.op == 0) && (f.rm == 0)) (isPred f.d && f.bOk 1 && f.zC) (.tbar f.g (predOf f.d) f.a f.opB) := by
  unfold decodeXBody; rw [h]; rfl
theorem decodeXBody_0CB (f : XFields) (h : f.xop.toNat = 0x0CB) : decodeXBody f = chk ((f.ty == 0x03) && (f.xf == 0) && (f.op == 0) && (f.rm == 0)) (f.bOk 1) (.tbcast f.g f.d f.a f.opB f.c) := by
  unfold decodeXBody; rw [h]; rfl
theorem decodeXBody_0E3 (f : XFields) (h : f.xop.toNat = 0x0E3) : decodeXBody f = chk ((f.ty == 0x03) && (f.xf == 0) && (f.op == 0) && (f.rm == 0) && !f.bi) (f.zB && f.zC && f.zI) (.confl f.g f.d f.a) := by
  unfold decodeXBody; rw [h]; rfl
theorem decodeXBody_0E2 (f : XFields) (h : f.xop.toNat = 0x0E2) : decodeXBody f = withTy (MatchTy.ofCode f.ty) fun t => chk ((f.xf == 0) && (f.op == 0) && (f.rm == 0) && !f.bi) (f.zB && f.zC && f.zI) (.matchLanes f.g t f.d f.a) := by
  unfold decodeXBody; rw [h]; rfl
theorem decodeXBody_0E6 (f : XFields) (h : f.xop.toNat = 0x0E6) : decodeXBody f = chk ((f.ty == 0x00) && (f.xf == 0) && (f.op == 0) && (f.rm == 0) && !f.bi) (isPred f.d && f.zA && f.zB && f.zC && f.zI) (.elect f.g (predOf f.d)) := by
  unfold decodeXBody; rw [h]; rfl
theorem decodeXBody_100 (f : XFields) (h : f.xop.toNat = 0x100) : decodeXBody f = chk ((f.ty == 0x00) && (f.xf == 0) && (f.op == 0) && (f.rm == 0) && !f.bi) (f.zD && f.zB && f.zC && f.zI) (.mma f.g f.a) := by
  unfold decodeXBody; rw [h]; rfl
theorem decodeXBody_101 (f : XFields) (h : f.xop.toNat = 0x101) : decodeXBody f = chk ((f.ty == 0x00) && (f.xf == 0) && (f.op == 0) && (f.rm == 0) && !f.bi) (f.zD && f.zB && f.zC && f.zI) (.mload f.g f.a) := by
  unfold decodeXBody; rw [h]; rfl
theorem decodeXBody_102 (f : XFields) (h : f.xop.toNat = 0x102) : decodeXBody f = chk ((f.ty == 0x00) && (f.xf == 0) && (f.op == 0) && (f.rm == 0) && !f.bi) (isTile f.d && f.zB && f.zC && f.zI) (.talloc f.g (f.d.extractLsb' 0 6) f.a) := by
  unfold decodeXBody; rw [h]; rfl
theorem decodeXBody_103 (f : XFields) (h : f.xop.toNat = 0x103) : decodeXBody f = chk ((f.ty == 0x00) && (f.xf == 0) && (f.op == 0) && (f.rm == 0) && !f.bi) (isTile f.d && f.zA && f.zB && f.zC && f.zI) (.tfree f.g (f.d.extractLsb' 0 6)) := by
  unfold decodeXBody; rw [h]; rfl
theorem decodeXBody_104 (f : XFields) (h : f.xop.toNat = 0x104) : decodeXBody f = chk ((f.ty == 0x00) && (f.xf == 0) && (f.op == 0) && (f.rm == 0) && !f.bi) (isTile f.a && f.zB && f.zC && f.zI) (.tstat f.g f.d (f.a.extractLsb' 0 6)) := by
  unfold decodeXBody; rw [h]; rfl
theorem decodeXBody_105 (f : XFields) (h : f.xop.toNat = 0x105) : decodeXBody f = chk ((f.ty == 0x00) && (f.xf == 0) && (f.op == 0) && (f.rm == 0) && !f.bi) (f.zD && f.zB && f.zC && f.zI) (.copy f.g f.a) := by
  unfold decodeXBody; rw [h]; rfl
theorem decodeXBody_107 (f : XFields) (h : f.xop.toNat = 0x107) : decodeXBody f = withTy (NatTy.ofCode f.ty) fun t => chk ((f.xf == 0) && (f.op == 0) && (f.rm == 0) && !f.bi) (isLine f.a && f.zC && f.zI) (.sig f.g t (lineOf f.a) f.b f.d) := by
  unfold decodeXBody; rw [h]; rfl
theorem decodeXBody_108 (f : XFields) (h : f.xop.toNat = 0x108) : decodeXBody f = withTy (NatTy.ofCode f.ty) fun t => chk ((f.xf == 0) && (f.op == 0) && (f.rm == 0) && !f.bi) (isLine f.a && f.zC && f.zI) (.sigw f.g t (lineOf f.a) f.b f.d) := by
  unfold decodeXBody; rw [h]; rfl
theorem decodeXBody_109 (f : XFields) (h : f.xop.toNat = 0x109) : decodeXBody f = chk ((f.ty == 0x00) && (f.xf == 0) && (f.op == 0) && (f.rm == 0)) (isPred f.d && f.bOk 1 && f.zC) (.stkgive f.g (predOf f.d) f.a f.opB) := by
  unfold decodeXBody; rw [h]; rfl
theorem decodeXBody_10A (f : XFields) (h : f.xop.toNat = 0x10A) : decodeXBody f = chk ((f.ty == 0x00) && (f.xf == 0) && (f.op == 0) && (f.rm == 0) && !f.bi) (isPred f.d && f.zB && f.zC && f.zI) (.stkown f.g (predOf f.d) f.a) := by
  unfold decodeXBody; rw [h]; rfl
theorem decodeXBody_10B (f : XFields) (h : f.xop.toNat = 0x10B) : decodeXBody f = chk ((f.ty == 0x00) && (f.xf == 0) && (f.op == 0) && (f.rm == 0) && !f.bi) (f.zD && f.zB && f.zC && f.zI) (.tmset f.g f.a) := by
  unfold decodeXBody; rw [h]; rfl
theorem decodeXBody_120 (f : XFields) (h : f.xop.toNat = 0x120) : decodeXBody f = chk ((f.ty == 0x00) && (f.xf == 0) && (f.op == 0) && (f.rm == 0) && !f.bi) (f.zD && f.zA && f.zB && f.zC) (.trap f.g f.imm) := by
  unfold decodeXBody; rw [h]; rfl
theorem decodeXBody_122 (f : XFields) (h : f.xop.toNat = 0x122) : decodeXBody f = chk ((f.ty == 0x00) && (f.xf == 0) && (f.op == 0) && (f.rm == 0) && !f.bi) (f.zD && f.zA && f.zB && f.zC) (.bkpt f.g f.imm) := by
  unfold decodeXBody; rw [h]; rfl
theorem decodeXBody_125 (f : XFields) (h : f.xop.toNat = 0x125) : decodeXBody f = chk ((f.ty == 0x00) && (f.xf == 0) && (f.op == 0) && (f.rm == 0) && !f.bi) (f.zD && f.zB && f.zC && f.zI) (.icinv f.g f.a) := by
  unfold decodeXBody; rw [h]; rfl
theorem decodeXBody_126 (f : XFields) (h : f.xop.toNat = 0x126) : decodeXBody f = chk ((f.ty == 0x00) && (f.xf == 0) && (f.op == 0) && (f.rm == 0) && !f.bi) (f.zD && f.zB && f.zC && f.zI) (.pfi f.g f.a) := by
  unfold decodeXBody; rw [h]; rfl
theorem decodeXBody_127 (f : XFields) (h : f.xop.toNat = 0x127) : decodeXBody f = chk ((f.ty == 0x00) && (f.xf == 0) && (f.op == 0) && (f.rm == 0) && !f.bi) (f.zD && f.zA && f.zB && f.zC && f.zI) (.pause f.g) := by
  unfold decodeXBody; rw [h]; rfl
theorem decodeXBody_129 (f : XFields) (h : f.xop.toNat = 0x129) : decodeXBody f = chk ((f.ty == 0x00) && (f.xf == 0) && (f.op == 0) && (f.rm == 0) && !f.bi) (f.zD && f.zC && f.zI) (.seamld f.g f.a f.b) := by
  unfold decodeXBody; rw [h]; rfl
theorem decodeXBody_01F (f : XFields) (h : f.xop.toNat = 0x01F) : decodeXBody f =
 withTy (SetpTest.ofCode f.op f.ty) fun t =>
      chk (f.xf == 0 && f.rm == 0) (f.bOk t.cnt && isPred f.d && f.zC) (.setp f.g t (predOf f.d) f.a f.opB) := by
  unfold decodeXBody; rw [h]; rfl
theorem decodeXBody_060 (f : XFields) (h : f.xop.toNat = 0x060) : decodeXBody f =
 withTy (CvtTy.ofCode f.ty) fun t => withTy (CvtTy.ofCode (f.c.extractLsb' 0 5)) fun u =>
      chk (f.xf == 0 && f.op == 0 && !f.bi && t != u) (f.c.extractLsb' 5 3 == 0 && f.zB && f.zI)
        (.cvt f.g t u (rmOf f.rm) f.d f.a) := by
  unfold decodeXBody; rw [h]; rfl
theorem decodeXBody_073 (f : XFields) (h : f.xop.toNat = 0x073) : decodeXBody f =
 withTy (Cond.ofCode f.op) fun c =>
      chk (f.xf == 0 && f.rm == 0 && f.ty == 0x0A) (f.bOk 1 && f.zC) (.bcmp f.g c f.d f.a f.opB) := by
  unfold decodeXBody; rw [h]; rfl
theorem decodeXBody_080 (f : XFields) (h : f.xop.toNat = 0x080) : decodeXBody f =
 withTy (OpenMode.ofCode f.op) fun m =>
      chk (f.xf.toNat < 4 && !f.bi && f.rm == 0 && f.ty == 0) (!f.d.getLsbD 3 && f.zB && f.zC && f.imm.extractLsb' 12 20 == 0)
        (.openLine f.g m (f.xf.extractLsb' 0 2) (f.d.extractLsb' 4 4) (f.d.extractLsb' 0 3) (f.imm.extractLsb' 0 12) f.a) := by
  unfold decodeXBody; rw [h]; rfl
theorem decodeXBody_084 (f : XFields) (h : f.xop.toNat = 0x084) : decodeXBody f =
 withTy (Size.ofCode f.op) fun z =>
      chk (f.modTO && f.ty == 0) (isLine f.a && f.zC && f.imm.extractLsb' 7 25 == 0)
        (.ld f.g z f.d (lineOf f.a) f.b (f.imm.extractLsb' 0 7)) := by
  unfold decodeXBody; rw [h]; rfl
theorem decodeXBody_085 (f : XFields) (h : f.xop.toNat = 0x085) : decodeXBody f =
 withTy (Size.ofCode f.op) fun z =>
      chk (f.modTO && f.ty == 0) (isLine f.a && f.zC && f.imm.extractLsb' 7 25 == 0)
        (.st f.g z (lineOf f.a) f.b f.d (f.imm.extractLsb' 0 7)) := by
  unfold decodeXBody; rw [h]; rfl
theorem decodeXBody_088 (f : XFields) (h : f.xop.toNat = 0x088) : decodeXBody f =
 withTy (AtomOp.ofCode f.op f.ty) fun o =>
      chk f.modTO (isLine f.a && f.zI) (.atom f.g o f.d (lineOf f.a) f.b f.c) := by
  unfold decodeXBody; rw [h]; rfl
theorem decodeXBody_089 (f : XFields) (h : f.xop.toNat = 0x089) : decodeXBody f =
 withTy (RedOp.ofCode f.op f.ty) fun o =>
      chk f.modTO (isLine f.a && f.zC && f.zI) (.red f.g o (lineOf f.a) f.b f.d) := by
  unfold decodeXBody; rw [h]; rfl
theorem decodeXBody_0C1 (f : XFields) (h : f.xop.toNat = 0x0C1) : decodeXBody f =
      match f.lit with
      | none => chk f.mod0 (f.zA && f.zB && f.zC && f.zD && f.imm.extractLsb' 0 2 == 0) (.call f.g f.imm)
      | some v =>
        chk (f.modTO && f.ty == 0) (f.zA && f.zB && f.zC && f.zD && f.zI && v.extractLsb' 12 52 == 0)
          (.callImport f.g (v.extractLsb' 0 12)) := by
  unfold decodeXBody; rw [h]; rfl
theorem decodeXBody_0CA (f : XFields) (h : f.xop.toNat = 0x0CA) : decodeXBody f =
 withTy (TredOp.ofCode f.op f.ty) fun o =>
      chk (f.xf == 0 && f.rm == 0) (f.bOk 1 && f.zC) (.tred f.g o f.d f.a f.opB) := by
  unfold decodeXBody; rw [h]; rfl
theorem decodeXBody_0E0 (f : XFields) (h : f.xop.toNat = 0x0E0) : decodeXBody f =
 withTy (ShflMode.ofCode f.op) fun m =>
      chk (f.xf == 0 && f.rm == 0 && f.ty == 0x03) (f.bOk 1 && isPred f.c) (.shfl f.g m f.d f.a f.opB (predOf f.c)) := by
  unfold decodeXBody; rw [h]; rfl
theorem decodeXBody_0E1 (f : XFields) (h : f.xop.toNat = 0x0E1) : decodeXBody f =
      match f.op.toNat with
      | 0 => chk (f.modTO && f.ty == 0) (isPred f.d && isPred f.a && f.zB && f.zC && f.zI) (.vote f.g (.all (predOf f.d)) (predOf f.a))
      | 1 => chk (f.modTO && f.ty == 0) (isPred f.d && isPred f.a && f.zB && f.zC && f.zI) (.vote f.g (.any (predOf f.d)) (predOf f.a))
      | 2 => chk (f.modTO && f.ty == 0) (isPred f.a && f.zB && f.zC && f.zI) (.vote f.g (.ball f.d) (predOf f.a))
      | 3 => chk (f.modTO && f.ty == 0) (isPred f.d && isPred f.a && f.zB && f.zC && f.zI) (.vote f.g (.eq (predOf f.d)) (predOf f.a))
      | _ => .error .modifier := by
  unfold decodeXBody; rw [h]; rfl
theorem decodeXBody_0E4 (f : XFields) (h : f.xop.toNat = 0x0E4) : decodeXBody f =
 withTy (CrOp.ofCode f.op f.ty) fun o =>
      chk f.modTO (f.zB && f.zC && f.zI) (.cred f.g o f.d f.a) := by
  unfold decodeXBody; rw [h]; rfl
theorem decodeXBody_0E5 (f : XFields) (h : f.xop.toNat = 0x0E5) : decodeXBody f =
 withTy (CrOp.ofCode f.op f.ty) fun o =>
      chk (f.xf.extractLsb' 1 3 == 0 && !f.bi && f.rm == 0) (f.zB && f.zC && f.zI) (.cscan f.g o (f.xf.getLsbD 0) f.d f.a) := by
  unfold decodeXBody; rw [h]; rfl
theorem decodeXBody_106 (f : XFields) (h : f.xop.toNat = 0x106) : decodeXBody f = chk (f.mod0 && f.c.extractLsb' 0 5 != 0) (f.zA && f.zB && f.zD && waitResOk f.c f.imm) (.wait f.g (waitOf f.c f.imm)) := by
  unfold decodeXBody; rw [h]; rfl
theorem decodeXBody_121 (f : XFields) (h : f.xop.toNat = 0x121) : decodeXBody f =
      match f.op.toNat with
      | 0 => chk (f.modTO && f.ty == 0) (f.zA && f.zB && f.zC && f.zD && f.zI) (.rteRetry f.g)
      | 1 => chk (f.modTO && f.ty == 0) (f.zA && f.zB && f.zC && f.zD && f.zI) (.rteSkip f.g)
      | 2 => chk (f.modTO && f.ty == 0) (f.zA && f.zB && f.zC && f.zD && f.zI) (.rteExit f.g)
      | _ => .error .modifier := by
  unfold decodeXBody; rw [h]; rfl
theorem decodeXBody_123 (f : XFields) (h : f.xop.toNat = 0x123) : decodeXBody f =
      if !f.mod0 then .error .modifier
      else withSReg (f.zB && f.zC && f.zI) f.a fun s => chk true true (.mfs f.g f.d s) := by
  unfold decodeXBody; rw [h]; rfl
theorem decodeXBody_124 (f : XFields) (h : f.xop.toNat = 0x124) : decodeXBody f =
      if !f.mod0 then .error .modifier
      else withSReg (f.zB && f.zC && f.zI) f.d fun s => if s.writable then chk true true (.mts f.g s f.a) else .error .register := by
  unfold decodeXBody; rw [h]; rfl
theorem decodeXBody_128 (f : XFields) (h : f.xop.toNat = 0x128) : decodeXBody f =
 withTy (HldField.ofCode f.op) fun h =>
      chk (f.modTO && f.ty == 0) (f.zA && f.zB && f.zC && f.imm.extractLsb' 12 20 == 0)
        (.hld f.g h f.d (f.imm.extractLsb' 0 12)) := by
  unfold decodeXBody; rw [h]; rfl
/-- An XOP from 0x3C0 on is an `xseam`. -/
theorem decodeXBody_high (f : XFields) (h : 0x3C0 ≤ f.xop.toNat) : decodeXBody f = decodeXseam f := by
  unfold decodeXBody
  split
  all_goals first | (rename_i hx; omega) | simp [h]
theorem decodeC0_01 (f : CFields) (h : f.cop.toNat = 0x01) : decodeC0 f = chk true (f.zA && f.zB && f.zD) (.nopC) := by
  unfold decodeC0; rw [h]; rfl
theorem decodeC0_02 (f : CFields) (h : f.cop.toNat = 0x02) : decodeC0 f = chk true (f.zA) (.movB32C f.d f.b) := by
  unfold decodeC0; rw [h]; rfl
theorem decodeC0_03 (f : CFields) (h : f.cop.toNat = 0x03) : decodeC0 f = chk true (f.zA) (.movB32Imm8C f.d f.b) := by
  unfold decodeC0; rw [h]; rfl
theorem decodeC0_04 (f : CFields) (h : f.cop.toNat = 0x04) : decodeC0 f = chk true true (.addI32C f.d f.a f.b) := by
  unfold decodeC0; rw [h]; rfl
theorem decodeC0_05 (f : CFields) (h : f.cop.toNat = 0x05) : decodeC0 f = chk true true (.addI32Imm8C f.d f.a f.b) := by
  unfold decodeC0; rw [h]; rfl
theorem decodeC0_06 (f : CFields) (h : f.cop.toNat = 0x06) : decodeC0 f = chk true true (.subI32C f.d f.a f.b) := by
  unfold decodeC0; rw [h]; rfl
theorem decodeC0_07 (f : CFields) (h : f.cop.toNat = 0x07) : decodeC0 f = chk true true (.mulI32C f.d f.a f.b) := by
  unfold decodeC0; rw [h]; rfl
theorem decodeC0_08 (f : CFields) (h : f.cop.toNat = 0x08) : decodeC0 f = chk true true (.andB32C f.d f.a f.b) := by
  unfold decodeC0; rw [h]; rfl
theorem decodeC0_09 (f : CFields) (h : f.cop.toNat = 0x09) : decodeC0 f = chk true true (.andB32Imm8C f.d f.a f.b) := by
  unfold decodeC0; rw [h]; rfl
theorem decodeC0_0A (f : CFields) (h : f.cop.toNat = 0x0A) : decodeC0 f = chk true true (.orB32C f.d f.a f.b) := by
  unfold decodeC0; rw [h]; rfl
theorem decodeC0_0B (f : CFields) (h : f.cop.toNat = 0x0B) : decodeC0 f = chk true true (.xorB32C f.d f.a f.b) := by
  unfold decodeC0; rw [h]; rfl
theorem decodeC0_0C (f : CFields) (h : f.cop.toNat = 0x0C) : decodeC0 f = chk true true (.shlB32Imm8C f.d f.a f.b) := by
  unfold decodeC0; rw [h]; rfl
theorem decodeC0_0D (f : CFields) (h : f.cop.toNat = 0x0D) : decodeC0 f = chk true true (.shrB32Imm8C f.d f.a f.b) := by
  unfold decodeC0; rw [h]; rfl
theorem decodeC0_0E (f : CFields) (h : f.cop.toNat = 0x0E) : decodeC0 f = chk true true (.shrI32Imm8C f.d f.a f.b) := by
  unfold decodeC0; rw [h]; rfl
theorem decodeC0_0F (f : CFields) (h : f.cop.toNat = 0x0F) : decodeC0 f = chk true true (.shlB32C f.d f.a f.b) := by
  unfold decodeC0; rw [h]; rfl
theorem decodeC0_10 (f : CFields) (h : f.cop.toNat = 0x10) : decodeC0 f = chk true true (.shrB32C f.d f.a f.b) := by
  unfold decodeC0; rw [h]; rfl
theorem decodeC0_11 (f : CFields) (h : f.cop.toNat = 0x11) : decodeC0 f = chk true true (.minI32C f.d f.a f.b) := by
  unfold decodeC0; rw [h]; rfl
theorem decodeC0_12 (f : CFields) (h : f.cop.toNat = 0x12) : decodeC0 f = chk true true (.maxI32C f.d f.a f.b) := by
  unfold decodeC0; rw [h]; rfl
theorem decodeC0_13 (f : CFields) (h : f.cop.toNat = 0x13) : decodeC0 f = chk true (f.zB) (.popcB32C f.d f.a) := by
  unfold decodeC0; rw [h]; rfl
theorem decodeC0_14 (f : CFields) (h : f.cop.toNat = 0x14) : decodeC0 f = chk true (f.zB) (.clzB32C f.d f.a) := by
  unfold decodeC0; rw [h]; rfl
theorem decodeC0_15 (f : CFields) (h : f.cop.toNat = 0x15) : decodeC0 f = chk true true (.leaN32C f.d f.a f.b) := by
  unfold decodeC0; rw [h]; rfl
theorem decodeC0_16 (f : CFields) (h : f.cop.toNat = 0x16) : decodeC0 f = chk true true (.faddFp32C f.d f.a f.b) := by
  unfold decodeC0; rw [h]; rfl
theorem decodeC0_17 (f : CFields) (h : f.cop.toNat = 0x17) : decodeC0 f = chk true true (.fmulFp32C f.d f.a f.b) := by
  unfold decodeC0; rw [h]; rfl
theorem decodeC0_18 (f : CFields) (h : f.cop.toNat = 0x18) : decodeC0 f = chk true true (.fminFp32C f.d f.a f.b) := by
  unfold decodeC0; rw [h]; rfl
theorem decodeC0_19 (f : CFields) (h : f.cop.toNat = 0x19) : decodeC0 f = chk true true (.fmaxFp32C f.d f.a f.b) := by
  unfold decodeC0; rw [h]; rfl
theorem decodeC0_1A (f : CFields) (h : f.cop.toNat = 0x1A) : decodeC0 f = chk true true (.faddBf16C f.d f.a f.b) := by
  unfold decodeC0; rw [h]; rfl
theorem decodeC0_1B (f : CFields) (h : f.cop.toNat = 0x1B) : decodeC0 f = chk true true (.fmulBf16C f.d f.a f.b) := by
  unfold decodeC0; rw [h]; rfl
theorem decodeC0_1C (f : CFields) (h : f.cop.toNat = 0x1C) : decodeC0 f = chk true (f.zB) (.cvtFp32I32C f.d f.a) := by
  unfold decodeC0; rw [h]; rfl
theorem decodeC0_1D (f : CFields) (h : f.cop.toNat = 0x1D) : decodeC0 f = chk true (f.zB) (.cvtI32Fp32C f.d f.a) := by
  unfold decodeC0; rw [h]; rfl
theorem decodeC0_1E (f : CFields) (h : f.cop.toNat = 0x1E) : decodeC0 f = chk true (isPred f.d) (.setpEqB32C (predOf f.d) f.a f.b) := by
  unfold decodeC0; rw [h]; rfl
theorem decodeC0_1F (f : CFields) (h : f.cop.toNat = 0x1F) : decodeC0 f = chk true (isPred f.d) (.setpNeB32C (predOf f.d) f.a f.b) := by
  unfold decodeC0; rw [h]; rfl
theorem decodeC0_20 (f : CFields) (h : f.cop.toNat = 0x20) : decodeC0 f = chk true (isPred f.d) (.setpLtI32C (predOf f.d) f.a f.b) := by
  unfold decodeC0; rw [h]; rfl
theorem decodeC0_21 (f : CFields) (h : f.cop.toNat = 0x21) : decodeC0 f = chk true (isPred f.d) (.setpGeI32C (predOf f.d) f.a f.b) := by
  unfold decodeC0; rw [h]; rfl
theorem decodeC0_22 (f : CFields) (h : f.cop.toNat = 0x22) : decodeC0 f = chk true (isPred f.d) (.setpLtN32C (predOf f.d) f.a f.b) := by
  unfold decodeC0; rw [h]; rfl
theorem decodeC0_23 (f : CFields) (h : f.cop.toNat = 0x23) : decodeC0 f = chk true (isPred f.d) (.setpGeN32C (predOf f.d) f.a f.b) := by
  unfold decodeC0; rw [h]; rfl
theorem decodeC0_24 (f : CFields) (h : f.cop.toNat = 0x24) : decodeC0 f = chk true (isPred f.d) (.setpLtFp32C (predOf f.d) f.a f.b) := by
  unfold decodeC0; rw [h]; rfl
theorem decodeC0_25 (f : CFields) (h : f.cop.toNat = 0x25) : decodeC0 f = chk true (isPred f.d) (.setpGeFp32C (predOf f.d) f.a f.b) := by
  unfold decodeC0; rw [h]; rfl
theorem decodeC0_26 (f : CFields) (h : f.cop.toNat = 0x26) : decodeC0 f = chk true (isPred f.d && isPred f.a && isPred f.b) (.pandC (predOf f.d) (predOf f.a) (predOf f.b)) := by
  unfold decodeC0; rw [h]; rfl
theorem decodeC0_27 (f : CFields) (h : f.cop.toNat = 0x27) : decodeC0 f = chk true (isPred f.d && isPred f.a && isPred f.b) (.porC (predOf f.d) (predOf f.a) (predOf f.b)) := by
  unfold decodeC0; rw [h]; rfl
theorem decodeC0_28 (f : CFields) (h : f.cop.toNat = 0x28) : decodeC0 f = chk true (isPred f.d && isPred f.a && isPred f.b) (.pxorC (predOf f.d) (predOf f.a) (predOf f.b)) := by
  unfold decodeC0; rw [h]; rfl
theorem decodeC0_29 (f : CFields) (h : f.cop.toNat = 0x29) : decodeC0 f = chk true (isPred f.d && isPred f.a && isPred f.b) (.pandnC (predOf f.d) (predOf f.a) (predOf f.b)) := by
  unfold decodeC0; rw [h]; rfl
theorem decodeC0_2A (f : CFields) (h : f.cop.toNat = 0x2A) : decodeC0 f = chk true (isPred f.d && isPred f.a && f.zB) (.pmovC (predOf f.d) (predOf f.a)) := by
  unfold decodeC0; rw [h]; rfl
theorem decodeC0_2B (f : CFields) (h : f.cop.toNat = 0x2B) : decodeC0 f = chk true (isPred f.d && isPred f.a && f.zB) (.pnotC (predOf f.d) (predOf f.a)) := by
  unfold decodeC0; rw [h]; rfl
theorem decodeC0_2C (f : CFields) (h : f.cop.toNat = 0x2C) : decodeC0 f = chk true (isLine f.a) (.ldBC f.d (lineOf f.a) f.b) := by
  unfold decodeC0; rw [h]; rfl
theorem decodeC0_2D (f : CFields) (h : f.cop.toNat = 0x2D) : decodeC0 f = chk true (isLine f.a) (.ldHC f.d (lineOf f.a) f.b) := by
  unfold decodeC0; rw [h]; rfl
theorem decodeC0_2E (f : CFields) (h : f.cop.toNat = 0x2E) : decodeC0 f = chk true (isLine f.a) (.ldWC f.d (lineOf f.a) f.b) := by
  unfold decodeC0; rw [h]; rfl
theorem decodeC0_2F (f : CFields) (h : f.cop.toNat = 0x2F) : decodeC0 f = chk true (isLine f.a) (.ldDC f.d (lineOf f.a) f.b) := by
  unfold decodeC0; rw [h]; rfl
theorem decodeC0_30 (f : CFields) (h : f.cop.toNat = 0x30) : decodeC0 f = chk true (isLine f.a) (.stBC (lineOf f.a) f.b f.d) := by
  unfold decodeC0; rw [h]; rfl
theorem decodeC0_31 (f : CFields) (h : f.cop.toNat = 0x31) : decodeC0 f = chk true (isLine f.a) (.stHC (lineOf f.a) f.b f.d) := by
  unfold decodeC0; rw [h]; rfl
theorem decodeC0_32 (f : CFields) (h : f.cop.toNat = 0x32) : decodeC0 f = chk true (isLine f.a) (.stWC (lineOf f.a) f.b f.d) := by
  unfold decodeC0; rw [h]; rfl
theorem decodeC0_33 (f : CFields) (h : f.cop.toNat = 0x33) : decodeC0 f = chk true (isLine f.a) (.stDC (lineOf f.a) f.b f.d) := by
  unfold decodeC0; rw [h]; rfl
theorem decodeC0_34 (f : CFields) (h : f.cop.toNat = 0x34) : decodeC0 f = chk true (isLine f.a && f.zB && f.zD) (.recallC (lineOf f.a)) := by
  unfold decodeC0; rw [h]; rfl
theorem decodeC0_35 (f : CFields) (h : f.cop.toNat = 0x35) : decodeC0 f = chk true (isLine f.a && f.zB && f.zD) (.flushC (lineOf f.a)) := by
  unfold decodeC0; rw [h]; rfl
theorem decodeC0_36 (f : CFields) (h : f.cop.toNat = 0x36) : decodeC0 f = chk true (f.zA && f.zB && f.zD) (.exitC) := by
  unfold decodeC0; rw [h]; rfl
theorem decodeC0_37 (f : CFields) (h : f.cop.toNat = 0x37) : decodeC0 f = chk true (f.zB && f.zD) (.retC f.a) := by
  unfold decodeC0; rw [h]; rfl
theorem decodeC0_38 (f : CFields) (h : f.cop.toNat = 0x38) : decodeC0 f = chk true (isPred f.d && isPred f.a && f.zB) (.voteAnyC (predOf f.d) (predOf f.a)) := by
  unfold decodeC0; rw [h]; rfl
theorem decodeC0_39 (f : CFields) (h : f.cop.toNat = 0x39) : decodeC0 f = chk true (isPred f.d && isPred f.a && f.zB) (.voteAllC (predOf f.d) (predOf f.a)) := by
  unfold decodeC0; rw [h]; rfl
theorem decodeC0_3A (f : CFields) (h : f.cop.toNat = 0x3A) : decodeC0 f = chk true (isPred f.a && f.zB) (.voteBallC f.d (predOf f.a)) := by
  unfold decodeC0; rw [h]; rfl
theorem decodeC0_3B (f : CFields) (h : f.cop.toNat = 0x3B) : decodeC0 f = chk true (isPred f.d && f.zA && f.zB) (.electC (predOf f.d)) := by
  unfold decodeC0; rw [h]; rfl
theorem decodeC0_3C (f : CFields) (h : f.cop.toNat = 0x3C) : decodeC0 f = chk true true (.shflIdxC f.d f.a f.b) := by
  unfold decodeC0; rw [h]; rfl
theorem decodeC0_3D (f : CFields) (h : f.cop.toNat = 0x3D) : decodeC0 f = chk true true (.shflXorC f.d f.a f.b) := by
  unfold decodeC0; rw [h]; rfl
theorem decodeC0_3E (f : CFields) (h : f.cop.toNat = 0x3E) : decodeC0 f = withSReg f.zB f.a fun sr => chk true true (.mfsC f.d sr) := by
  unfold decodeC0; rw [h]; rfl
theorem decodeC0_3F (f : CFields) (h : f.cop.toNat = 0x3F) : decodeC0 f = chk true (f.zA && f.zB && f.zD) (.pauseC) := by
  unfold decodeC0; rw [h]; rfl
theorem decodeCLit_02 (v : W64) (f : CFields) (h : f.cop.toNat = 0x02) : decodeCLit f v = chk true (f.zA && f.zB && v.extractLsb' 32 32 == 0) (.movB32Clit f.d (v.extractLsb' 0 32)) := by
  unfold decodeCLit; rw [h]; rfl
theorem decodeCLit_04 (v : W64) (f : CFields) (h : f.cop.toNat = 0x04) : decodeCLit f v = chk true (f.zB && v.extractLsb' 32 32 == 0) (.addI32Clit f.d f.a (v.extractLsb' 0 32)) := by
  unfold decodeCLit; rw [h]; rfl
theorem decodeCLit_06 (v : W64) (f : CFields) (h : f.cop.toNat = 0x06) : decodeCLit f v = chk true (f.zB && v.extractLsb' 32 32 == 0) (.subI32Clit f.d f.a (v.extractLsb' 0 32)) := by
  unfold decodeCLit; rw [h]; rfl
theorem decodeCLit_07 (v : W64) (f : CFields) (h : f.cop.toNat = 0x07) : decodeCLit f v = chk true (f.zB && v.extractLsb' 32 32 == 0) (.mulI32Clit f.d f.a (v.extractLsb' 0 32)) := by
  unfold decodeCLit; rw [h]; rfl
theorem decodeCLit_08 (v : W64) (f : CFields) (h : f.cop.toNat = 0x08) : decodeCLit f v = chk true (f.zB && v.extractLsb' 32 32 == 0) (.andB32Clit f.d f.a (v.extractLsb' 0 32)) := by
  unfold decodeCLit; rw [h]; rfl
theorem decodeCLit_0A (v : W64) (f : CFields) (h : f.cop.toNat = 0x0A) : decodeCLit f v = chk true (f.zB && v.extractLsb' 32 32 == 0) (.orB32Clit f.d f.a (v.extractLsb' 0 32)) := by
  unfold decodeCLit; rw [h]; rfl
theorem decodeCLit_0B (v : W64) (f : CFields) (h : f.cop.toNat = 0x0B) : decodeCLit f v = chk true (f.zB && v.extractLsb' 32 32 == 0) (.xorB32Clit f.d f.a (v.extractLsb' 0 32)) := by
  unfold decodeCLit; rw [h]; rfl
theorem decodeCLit_0F (v : W64) (f : CFields) (h : f.cop.toNat = 0x0F) : decodeCLit f v = chk true (f.zB && v.extractLsb' 32 32 == 0) (.shlB32Clit f.d f.a (v.extractLsb' 0 32)) := by
  unfold decodeCLit; rw [h]; rfl
theorem decodeCLit_10 (v : W64) (f : CFields) (h : f.cop.toNat = 0x10) : decodeCLit f v = chk true (f.zB && v.extractLsb' 32 32 == 0) (.shrB32Clit f.d f.a (v.extractLsb' 0 32)) := by
  unfold decodeCLit; rw [h]; rfl
theorem decodeCLit_11 (v : W64) (f : CFields) (h : f.cop.toNat = 0x11) : decodeCLit f v = chk true (f.zB && v.extractLsb' 32 32 == 0) (.minI32Clit f.d f.a (v.extractLsb' 0 32)) := by
  unfold decodeCLit; rw [h]; rfl
theorem decodeCLit_12 (v : W64) (f : CFields) (h : f.cop.toNat = 0x12) : decodeCLit f v = chk true (f.zB && v.extractLsb' 32 32 == 0) (.maxI32Clit f.d f.a (v.extractLsb' 0 32)) := by
  unfold decodeCLit; rw [h]; rfl
theorem decodeCLit_15 (v : W64) (f : CFields) (h : f.cop.toNat = 0x15) : decodeCLit f v = chk true (f.zB && v.extractLsb' 32 32 == 0) (.leaN32Clit f.d f.a (v.extractLsb' 0 32)) := by
  unfold decodeCLit; rw [h]; rfl
theorem decodeCLit_16 (v : W64) (f : CFields) (h : f.cop.toNat = 0x16) : decodeCLit f v = chk true (f.zB && v.extractLsb' 32 32 == 0) (.faddFp32Clit f.d f.a (v.extractLsb' 0 32)) := by
  unfold decodeCLit; rw [h]; rfl
theorem decodeCLit_17 (v : W64) (f : CFields) (h : f.cop.toNat = 0x17) : decodeCLit f v = chk true (f.zB && v.extractLsb' 32 32 == 0) (.fmulFp32Clit f.d f.a (v.extractLsb' 0 32)) := by
  unfold decodeCLit; rw [h]; rfl
theorem decodeCLit_18 (v : W64) (f : CFields) (h : f.cop.toNat = 0x18) : decodeCLit f v = chk true (f.zB && v.extractLsb' 32 32 == 0) (.fminFp32Clit f.d f.a (v.extractLsb' 0 32)) := by
  unfold decodeCLit; rw [h]; rfl
theorem decodeCLit_19 (v : W64) (f : CFields) (h : f.cop.toNat = 0x19) : decodeCLit f v = chk true (f.zB && v.extractLsb' 32 32 == 0) (.fmaxFp32Clit f.d f.a (v.extractLsb' 0 32)) := by
  unfold decodeCLit; rw [h]; rfl
theorem decodeCLit_1A (v : W64) (f : CFields) (h : f.cop.toNat = 0x1A) : decodeCLit f v = chk true (f.zB && v.extractLsb' 32 32 == 0) (.faddBf16Clit f.d f.a (v.extractLsb' 0 32)) := by
  unfold decodeCLit; rw [h]; rfl
theorem decodeCLit_1B (v : W64) (f : CFields) (h : f.cop.toNat = 0x1B) : decodeCLit f v = chk true (f.zB && v.extractLsb' 32 32 == 0) (.fmulBf16Clit f.d f.a (v.extractLsb' 0 32)) := by
  unfold decodeCLit; rw [h]; rfl
theorem decodeCLit_1E (v : W64) (f : CFields) (h : f.cop.toNat = 0x1E) : decodeCLit f v = chk true (isPred f.d && f.zB && v.extractLsb' 32 32 == 0) (.setpEqB32Clit (predOf f.d) f.a (v.extractLsb' 0 32)) := by
  unfold decodeCLit; rw [h]; rfl
theorem decodeCLit_1F (v : W64) (f : CFields) (h : f.cop.toNat = 0x1F) : decodeCLit f v = chk true (isPred f.d && f.zB && v.extractLsb' 32 32 == 0) (.setpNeB32Clit (predOf f.d) f.a (v.extractLsb' 0 32)) := by
  unfold decodeCLit; rw [h]; rfl
theorem decodeCLit_20 (v : W64) (f : CFields) (h : f.cop.toNat = 0x20) : decodeCLit f v = chk true (isPred f.d && f.zB && v.extractLsb' 32 32 == 0) (.setpLtI32Clit (predOf f.d) f.a (v.extractLsb' 0 32)) := by
  unfold decodeCLit; rw [h]; rfl
theorem decodeCLit_21 (v : W64) (f : CFields) (h : f.cop.toNat = 0x21) : decodeCLit f v = chk true (isPred f.d && f.zB && v.extractLsb' 32 32 == 0) (.setpGeI32Clit (predOf f.d) f.a (v.extractLsb' 0 32)) := by
  unfold decodeCLit; rw [h]; rfl
theorem decodeCLit_22 (v : W64) (f : CFields) (h : f.cop.toNat = 0x22) : decodeCLit f v = chk true (isPred f.d && f.zB && v.extractLsb' 32 32 == 0) (.setpLtN32Clit (predOf f.d) f.a (v.extractLsb' 0 32)) := by
  unfold decodeCLit; rw [h]; rfl
theorem decodeCLit_23 (v : W64) (f : CFields) (h : f.cop.toNat = 0x23) : decodeCLit f v = chk true (isPred f.d && f.zB && v.extractLsb' 32 32 == 0) (.setpGeN32Clit (predOf f.d) f.a (v.extractLsb' 0 32)) := by
  unfold decodeCLit; rw [h]; rfl
theorem decodeCLit_24 (v : W64) (f : CFields) (h : f.cop.toNat = 0x24) : decodeCLit f v = chk true (isPred f.d && f.zB && v.extractLsb' 32 32 == 0) (.setpLtFp32Clit (predOf f.d) f.a (v.extractLsb' 0 32)) := by
  unfold decodeCLit; rw [h]; rfl
theorem decodeCLit_25 (v : W64) (f : CFields) (h : f.cop.toNat = 0x25) : decodeCLit f v = chk true (isPred f.d && f.zB && v.extractLsb' 32 32 == 0) (.setpGeFp32Clit (predOf f.d) f.a (v.extractLsb' 0 32)) := by
  unfold decodeCLit; rw [h]; rfl

/-! The checks. -/

/-- An instruction passes the checks of R89 when each part of them is met. -/
theorem chk_ok {m r : Bool} {i : Instr} (hm : m = true) (hr : r = true) (h : i.regsAligned = true) : chk m r i = .ok i := by
  simp [chk, hm, hr, h]
/-! Operand B. -/

@[simp] theorem XFields.withB_xop (f : XFields) (b : OpB) : (f.withB b).xop = f.xop := by cases b <;> rfl
@[simp] theorem XFields.withB_g (f : XFields) (b : OpB) : (f.withB b).g = f.g := by cases b <;> rfl
@[simp] theorem XFields.withB_d (f : XFields) (b : OpB) : (f.withB b).d = f.d := by cases b <;> rfl
@[simp] theorem XFields.withB_a (f : XFields) (b : OpB) : (f.withB b).a = f.a := by cases b <;> rfl
@[simp] theorem XFields.withB_c (f : XFields) (b : OpB) : (f.withB b).c = f.c := by cases b <;> rfl
@[simp] theorem XFields.withB_xf (f : XFields) (b : OpB) : (f.withB b).xf = f.xf := by cases b <;> rfl
@[simp] theorem XFields.withB_op (f : XFields) (b : OpB) : (f.withB b).op = f.op := by cases b <;> rfl
@[simp] theorem XFields.withB_rm (f : XFields) (b : OpB) : (f.withB b).rm = f.rm := by cases b <;> rfl
@[simp] theorem XFields.withB_ty (f : XFields) (b : OpB) : (f.withB b).ty = f.ty := by cases b <;> rfl
/-- Operand B reads back as it was put into the fields. -/
theorem XFields.opB_withB {f : XFields} (b : OpB) (hb : f.bi = false) (hl : f.lit = none) : (f.withB b).opB = b := by
  cases b <;> simp [XFields.opB, XFields.withB, hb, hl]
theorem XFields.bOk_withB {f : XFields} {b : OpB} {n : Nat} (hb : f.bi = false) (hl : f.lit = none) (hr : f.b = 0)
    (hi : f.imm = 0) (h : b.ok n = true) : (f.withB b).bOk n = true := by
  cases b <;> simp_all [XFields.bOk, XFields.withB, OpB.ok]
theorem XFields.formBad_withB {f : XFields} {b : OpB} (hl : f.lit = none) (hc : f.xop.toNat ≠ 0xC1)
    (hs : xopStar f.xop.toNat = true) : (f.withB b).formBad = false := by
  cases b <;> simp_all [XFields.formBad, XFields.withB]
@[simp] theorem below8 (x : BitVec 3) : x.toNat % 16 < 8 := by revert x; decide
@[simp] theorem below4 (x : BitVec 2) : x.toNat % 16 < 4 := by revert x; decide
@[simp] theorem notAbove4 (x : BitVec 2) : (4 ≤ x.toNat % 16) = False := by revert x; decide
@[simp] theorem below2 (x : BitVec 1) : x.toNat % 16 < 2 := by revert x; decide
theorem XFields.formBad_none {f : XFields} (hl : f.lit = none) (hc : f.xop.toNat ≠ 0xC1 ∨ (f.op == 1) = false) : f.formBad = false := by
  rcases hc with h | h <;> simp_all [XFields.formBad]
theorem low2_zero {x : W32} (h : x &&& 3#32 = 0#32) : x.extractLsb' 0 2 = 0#2 := by
  refine BitVec.eq_of_getLsbD_eq fun i hi => ?_
  have := congrArg (fun y : BitVec 32 => y.getLsbD i) h
  have h3 : (3#32).getLsbD i = true := by
    rcases i with _ | _ | i
    · rfl
    · rfl
    · omega
  simpa [hi, h3] using this

/-! Fields of micro-ops. -/

@[simp] theorem lineKOk_lineK (off : BitVec 7) (la : LineOp) : lineKOk (lineK off la) = true := by
  have h : (lineK off la).extractLsb' 15 17 = 0 ∧ (lineK off la).extractLsb' 0 8 = lineField la := by
    refine ⟨?_, ?_⟩ <;> refine BitVec.eq_of_getLsbD_eq fun i hi => ?_ <;>
      simp only [lineK, BitVec.getLsbD_extractLsb', BitVec.getLsbD_append, hi, decide_true, Bool.true_and] <;>
      repeat' (split) <;> first | omega | (congr 1; omega) | skip
  simp [lineKOk, h.1, h.2]
@[simp] theorem lineK_off (off : BitVec 7) (la : LineOp) : (lineK off la).extractLsb' 8 7 = off := by
  refine BitVec.eq_of_getLsbD_eq fun i hi => ?_
  simp only [lineK, BitVec.getLsbD_extractLsb', BitVec.getLsbD_append, hi, decide_true, Bool.true_and]
  repeat' (split)
  all_goals first | omega | (congr 1; omega)
@[simp] theorem lineK_line (off : BitVec 7) (la : LineOp) : (lineK off la).extractLsb' 0 8 = lineField la := by
  refine BitVec.eq_of_getLsbD_eq fun i hi => ?_
  simp only [lineK, BitVec.getLsbD_extractLsb', BitVec.getLsbD_append, hi, decide_true, Bool.true_and]
  repeat' (split)
  all_goals first | omega | (congr 1; omega)
@[simp] theorem ShflMode.ofCode_low (m : ShflMode) : ShflMode.ofCode ((m.code.extractLsb' 0 3).setWidth 4) = some m := by
  cases m <;> rfl
theorem xseam_parts (n : BitVec 6) (p : PredNo) :
    ((0xF : BitVec 4) ++ n : BitVec 10).toNat = 0x3C0 + n.toNat ∧ xopAssigned (0x3C0 + n.toNat) = true ∧
      ((0xF : BitVec 4) ++ n : BitVec 10).extractLsb' 0 6 = n ∧
      ((0 : BitVec 2) ++ p : BitVec 5).extractLsb' 0 3 = p ∧ ((0 : BitVec 2) ++ p : BitVec 5).extractLsb' 3 2 = 0 :=
  ⟨by revert n; decide, by revert n; decide, by revert n; decide, by revert p; decide, by revert p; decide⟩
@[simp] theorem brfK_high (t : BitVec 6) : (brfK t).extractLsb' 6 26 = 0 := by revert t; decide
@[simp] theorem brfK_low (t : BitVec 6) : (brfK t).extractLsb' 0 6 = t := by revert t; decide
@[simp] theorem loopK_parts (last : BitVec 6) (cnt : BitVec 5) :
    (loopK last cnt).extractLsb' 5 3 = 0 ∧ (loopK last cnt).extractLsb' 14 18 = 0 ∧
      (loopK last cnt).extractLsb' 8 6 = last ∧ (loopK last cnt).extractLsb' 0 5 = cnt := by
  refine ⟨?_, ?_, ?_, ?_⟩ <;> refine BitVec.eq_of_getLsbD_eq fun i hi => ?_ <;>
    simp only [loopK, BitVec.getLsbD_extractLsb', BitVec.getLsbD_append, hi, decide_true, Bool.true_and] <;>
    repeat' (split) <;> first | omega | (congr 1; omega) | skip
theorem ltab6 (el : BitVec 2) : (el ++ 0#1 : BitVec 3)[0] = false ∧
    (el ++ 0#1 : BitVec 3).extractLsb' 1 2 = el := by revert el; decide
theorem ltab12 (el : BitVec 2) (h : el.toNat ≤ 1) : (el ++ 1#1 : BitVec 3)[0] = true ∧
    (el ++ 1#1 : BitVec 3)[2] = false ∧
      (el ++ 1#1 : BitVec 3).extractLsb' 1 2 = el := by revert el; decide

/-- A C form is what its arm reads. -/
theorem Enc.c0_ok {f : CFields} {r : Except Detail Instr} (hl : f.lit = none) (h : decodeC0 f = r) :
    (Enc.c f).decode = r := by
  simp [Enc.decode, decodeC, hl, h]
theorem Enc.cl_ok {f : CFields} {v : W64} {r : Except Detail Instr} (hl : f.lit = some v) (h : decodeCLit f v = r) :
    (Enc.c f).decode = r := by
  simp [Enc.decode, decodeC, hl, h]
/-- An X form is what its arm reads, once its guard, XOP and form are sound. -/
theorem decodeX_ok {f : XFields} {i : Instr} (hg : f.g.ok = true) (ha : xopAssigned f.xop.toNat = true)
    (hf : f.formBad = false) (h : decodeXBody f = .ok i) : decodeX f = .ok i := by
  simp [decodeX, hg, ha, hf, h]

end Sys2Proof
end

