-- ==== Sys2Proof/Laws/Memory.lean ====
section
/-! SUPPORT. Memory: read after write, what a write leaves alone, and that every operation keeps the canonical form. -/

namespace Sys2Proof.Machine.Memory

/-- A read below the first listed address of a well-formed memory finds nothing. -/
theorem get_of_lt {m : Memory} {n k : Nat} (h : wfFrom n m = true) (hk : k < n) : get m k = unlisted := by
  cases m with
  | nil => rfl
  | cons e m =>
    obtain ⟨a, v⟩ := e
    simp only [wfFrom, Bool.and_eq_true, decide_eq_true_eq] at h
    simp only [get]
    rw [if_neg (by omega), if_pos (by omega)]

theorem wfFrom_mono {m : Memory} {n k : Nat} (h : wfFrom n m = true) (hk : k ≤ n) : wfFrom k m = true := by
  cases m with
  | nil => rfl
  | cons e m =>
    obtain ⟨a, v⟩ := e
    simp only [wfFrom, Bool.and_eq_true, decide_eq_true_eq] at h ⊢
    exact ⟨⟨by omega, h.1.2⟩, h.2⟩

/-- A store keeps the canonical form. -/
theorem wfFrom_set {m : Memory} {n k : Nat} (v : Byte) (h : wfFrom n m = true) (hk : n ≤ k) :
    wfFrom n (set m k v) = true := by
  induction m generalizing n with
  | nil =>
    simp only [set]
    split
    · rfl
    · rename_i hv; simp [wfFrom, hk, hv]
  | cons e m ih =>
    obtain ⟨a, w⟩ := e
    simp only [wfFrom, Bool.and_eq_true, decide_eq_true_eq] at h
    obtain ⟨⟨ha, hw⟩, hm⟩ := h
    simp only [set]
    split
    · split
      · simp [wfFrom, ha, hm, hw]
      · rename_i hlt hv
        have : wfFrom (k + 1) ((a, w) :: m) = true := by simp [wfFrom, hm, hw]; omega
        simp [wfFrom, hk, hv, hm, hw]; omega
    · split
      · subst_vars
        split
        · exact wfFrom_mono hm (by omega)
        · rename_i hv; simp [wfFrom, hk, hv, hm]
      · simp only [wfFrom, Bool.and_eq_true, decide_eq_true_eq]
        exact ⟨⟨ha, hw⟩, ih hm (by omega)⟩
/-- A store keeps the canonical form. -/
theorem wf_set {m : Memory} (k : Nat) (v : Byte) (h : wf m = true) : wf (set m k v) = true :=
  wfFrom_set v h (Nat.zero_le k)
/-- A store of several bytes keeps the canonical form. -/
theorem wf_write {m : Memory} (a n v : Nat) (h : wf m = true) : wf (write m a n v) = true := by
  induction n generalizing m a v with
  | zero => exact h
  | succ n ih => exact ih _ _ (wf_set _ _ h)
/-- Leaving cells out keeps the canonical form. -/
theorem wfFrom_filter {m : Memory} {n : Nat} (p : Host.Cell → Bool) (h : wfFrom n m = true) :
    wfFrom n (m.filter p) = true := by
  induction m generalizing n with
  | nil => rfl
  | cons e m ih =>
    obtain ⟨a, w⟩ := e
    simp only [wfFrom, Bool.and_eq_true, decide_eq_true_eq] at h
    simp only [List.filter]
    split
    · simp only [wfFrom, Bool.and_eq_true, decide_eq_true_eq]
      exact ⟨h.1, ih h.2⟩
    · exact wfFrom_mono (ih h.2) (by omega)
theorem wf_filter {m : Memory} (p : Host.Cell → Bool) (h : wf m = true) : wf (m.filter p) = true := wfFrom_filter p h

/-- A byte reads as it was stored. -/
theorem get_set_same {m : Memory} {n : Nat} (k : Nat) (v : Byte) (h : wfFrom n m = true) : get (set m k v) k = v := by
  induction m generalizing n with
  | nil =>
    simp only [set]
    split
    · rename_i hv; simp [get, hv]
    · simp [get]
  | cons e m ih =>
    obtain ⟨a, w⟩ := e
    simp only [wfFrom, Bool.and_eq_true, decide_eq_true_eq] at h
    simp only [set]
    split
    · split
      · rename_i hlt hv; subst hv; simp only [get]; rw [if_neg (by omega), if_pos hlt]
      · simp [get]
    · split
      · subst_vars
        split
        · rename_i hv; subst hv; exact get_of_lt h.2 (by omega)
        · simp [get]
      · rename_i h1 h2
        simp only [get]
        rw [if_neg h2, if_neg h1]
        exact ih h.2
/-- A store leaves every other byte alone. -/
theorem get_set_ne {m : Memory} {n : Nat} {k j : Nat} (v : Byte) (h : wfFrom n m = true) (hj : j ≠ k) :
    get (set m k v) j = get m j := by
  induction m generalizing n with
  | nil =>
    simp only [set]
    split
    · rfl
    · simp only [get]; rw [if_neg (fun e => hj e.symm)]; split <;> rfl
  | cons e m ih =>
    obtain ⟨a, w⟩ := e
    simp only [wfFrom, Bool.and_eq_true, decide_eq_true_eq] at h
    simp only [set]
    split
    · split
      · rfl
      · rename_i hlt hv
        rw [get, if_neg (fun e => hj e.symm)]
        split
        · rename_i hjk
          simp only [get]
          rw [if_neg (by omega), if_pos (by omega)]
        · rfl
    · split
      · subst_vars
        split
        · simp only [get]
          rw [if_neg (fun e => hj e.symm)]
          split
          · rename_i hja; exact get_of_lt h.2 (by omega)
          · rfl
        · simp [get, Ne.symm hj]
      · simp only [get, ih h.2]
/-- A store of n bytes leaves every byte outside them alone. -/
theorem get_write_out {m : Memory} {a n j : Nat} (v : Nat) (h : wf m = true) (hj : j < a ∨ a + n ≤ j) :
    get (write m a n v) j = get m j := by
  induction n generalizing m a v with
  | zero => rfl
  | succ n ih =>
    simp only [write]
    rw [ih _ (wf_set _ _ h) (by omega), get_set_ne _ h (by omega)]
/-- A store of n bytes gives each of them its byte of the number. -/
theorem get_write_in {m : Memory} {a n i : Nat} (v : Nat) (h : wf m = true) (hi : i < n) :
    get (write m a n v) (a + i) = BitVec.ofNat 8 (v / 256 ^ i) := by
  induction n generalizing m a v i with
  | zero => omega
  | succ n ih =>
    simp only [write]
    cases i with
    | zero => rw [get_write_out _ (wf_set _ _ h) (by omega)]; simp [get_set_same a _ h]
    | succ i =>
      have := ih (m := set m a (BitVec.ofNat 8 v)) (a := a + 1) (v / 256) (wf_set _ _ h) (i := i) (by omega)
      rw [show a + (i + 1) = a + 1 + i by omega, this, Nat.div_div_eq_div_mul, Nat.pow_succ, Nat.mul_comm]
/-- A number reads as it was stored. -/
theorem read_write {m : Memory} (a n v : Nat) (h : wf m = true) : read (write m a n v) a n = v % 256 ^ n := by
  have key : ∀ (n : Nat) (m' : Memory) (a v : Nat),
      (∀ i, i < n → get m' (a + i) = BitVec.ofNat 8 (v / 256 ^ i)) → read m' a n = v % 256 ^ n := by
    intro n
    induction n with
    | zero => intro m' a v _; simp [read, Nat.mod_one]
    | succ n ih =>
      intro m' a v hm
      have h0 := hm 0 (by omega)
      simp only [read]
      rw [ih m' (a + 1) (v / 256) (fun i hi => ?_)]
      · simp only [Nat.add_zero, Nat.pow_zero, Nat.div_one] at h0
        rw [h0, BitVec.toNat_ofNat, Nat.pow_succ 256 n, Nat.mul_comm (256 ^ n), Nat.mod_mul]
      · have := hm (i + 1) (by omega)
        rw [show a + 1 + i = a + (i + 1) by omega, this, Nat.div_div_eq_div_mul, Nat.pow_succ, Nat.mul_comm]
  exact key n _ a v fun i hi => get_write_in v h hi

end Sys2Proof.Machine.Memory
end

