-- ==== Sys2Proof/Laws/State.lean ====
section
/-! SUPPORT. What each named update of the state and of a slot leaves alone, field by field, and what it sets. -/

namespace Sys2Proof.Machine

/-! Cores and slots. -/

@[simp] theorem State.setCore_phase (s : State) (c : Nat) (k : Core) : (s.setCore c k).phase = s.phase := rfl
@[simp] theorem State.setCore_failst (s : State) (c : Nat) (k : Core) : (s.setCore c k).failst = s.failst := rfl
@[simp] theorem State.setCore_rreason (s : State) (c : Nat) (k : Core) : (s.setCore c k).rreason = s.rreason := rfl
@[simp] theorem State.setCore_tick (s : State) (c : Nat) (k : Core) : (s.setCore c k).tick = s.tick := rfl
@[simp] theorem State.setCore_time (s : State) (c : Nat) (k : Core) : (s.setCore c k).time = s.time := rfl
@[simp] theorem State.setCore_phaseAt (s : State) (c : Nat) (k : Core) : (s.setCore c k).phaseAt = s.phaseAt := rfl
@[simp] theorem State.setCore_arbiters (s : State) (c : Nat) (k : Core) : (s.setCore c k).arbiters = s.arbiters := rfl
@[simp] theorem State.setCore_routes (s : State) (c : Nat) (k : Core) : (s.setCore c k).routes = s.routes := rfl
@[simp] theorem State.setCore_modules (s : State) (c : Nat) (k : Core) : (s.setCore c k).modules = s.modules := rfl
@[simp] theorem State.setCore_links (s : State) (c : Nat) (k : Core) : (s.setCore c k).links = s.links := rfl
@[simp] theorem State.setCore_mem (s : State) (c : Nat) (k : Core) : (s.setCore c k).mem = s.mem := rfl
@[simp] theorem State.setCore_memPoison (s : State) (c : Nat) (k : Core) : (s.setCore c k).memPoison = s.memPoison := rfl
@[simp] theorem State.setCore_sums (s : State) (c : Nat) (k : Core) : (s.setCore c k).sums = s.sums := rfl
@[simp] theorem State.setCore_reqs (s : State) (c : Nat) (k : Core) : (s.setCore c k).reqs = s.reqs := rfl
@[simp] theorem State.setCore_windows (s : State) (c : Nat) (k : Core) : (s.setCore c k).windows = s.windows := rfl
@[simp] theorem State.setCore_errands (s : State) (c : Nat) (k : Core) : (s.setCore c k).errands = s.errands := rfl
@[simp] theorem State.setCore_outerWindow (s : State) (c : Nat) (k : Core) : (s.setCore c k).outerWindow = s.outerWindow := rfl
@[simp] theorem State.setCore_receipts (s : State) (c : Nat) (k : Core) : (s.setCore c k).receipts = s.receipts := rfl
@[simp] theorem State.setCore_tlb (s : State) (c : Nat) (k : Core) : (s.setCore c k).tlb = s.tlb := rfl
@[simp] theorem State.setCore_walkers (s : State) (c : Nat) (k : Core) : (s.setCore c k).walkers = s.walkers := rfl
@[simp] theorem State.setCore_seqs (s : State) (c : Nat) (k : Core) : (s.setCore c k).seqs = s.seqs := rfl
@[simp] theorem State.setCore_devno (s : State) (c : Nat) (k : Core) : (s.setCore c k).devno = s.devno := rfl
@[simp] theorem State.setCore_peers (s : State) (c : Nat) (k : Core) : (s.setCore c k).peers = s.peers := rfl
@[simp] theorem State.setCore_msgbase (s : State) (c : Nat) (k : Core) : (s.setCore c k).msgbase = s.msgbase := rfl
@[simp] theorem State.setCore_cons (s : State) (c : Nat) (k : Core) : (s.setCore c k).cons = s.cons := rfl
@[simp] theorem State.setCore_prod (s : State) (c : Nat) (k : Core) : (s.setCore c k).prod = s.prod := rfl
@[simp] theorem State.setCore_plim (s : State) (c : Nat) (k : Core) : (s.setCore c k).plim = s.plim := rfl
@[simp] theorem State.setCore_soft (s : State) (c : Nat) (k : Core) : (s.setCore c k).soft = s.soft := rfl
@[simp] theorem State.setCore_temp0 (s : State) (c : Nat) (k : Core) : (s.setCore c k).temp0 = s.temp0 := rfl
@[simp] theorem State.setCore_temp1 (s : State) (c : Nat) (k : Core) : (s.setCore c k).temp1 = s.temp1 := rfl
@[simp] theorem State.setCore_menergy (s : State) (c : Nat) (k : Core) : (s.setCore c k).menergy = s.menergy := rfl
@[simp] theorem State.setCore_dline (s : State) (c : Nat) (k : Core) : (s.setCore c k).dline = s.dline := rfl
@[simp] theorem State.setCore_cdrop (s : State) (c : Nat) (k : Core) : (s.setCore c k).cdrop = s.cdrop := rfl
@[simp] theorem State.setCore_trip0 (s : State) (c : Nat) (k : Core) : (s.setCore c k).trip0 = s.trip0 := rfl
@[simp] theorem State.setCore_trip1 (s : State) (c : Nat) (k : Core) : (s.setCore c k).trip1 = s.trip1 := rfl
@[simp] theorem State.setCore_overPower (s : State) (c : Nat) (k : Core) : (s.setCore c k).overPower = s.overPower := rfl
@[simp] theorem State.setCore_hot (s : State) (c : Nat) (k : Core) : (s.setCore c k).hot = s.hot := rfl
@[simp] theorem State.setCore_dclWide (s : State) (c : Nat) (k : Core) : (s.setCore c k).dclWide = s.dclWide := rfl
@[simp] theorem State.setCore_fatals (s : State) (c : Nat) (k : Core) : (s.setCore c k).fatals = s.fatals := rfl
@[simp] theorem State.setCore_commands (s : State) (c : Nat) (k : Core) : (s.setCore c k).commands = s.commands := rfl
@[simp] theorem State.setCore_messages (s : State) (c : Nat) (k : Core) : (s.setCore c k).messages = s.messages := rfl
@[simp] theorem State.setCore_contexts (s : State) (c : Nat) (k : Core) : (s.setCore c k).contexts = s.contexts := rfl
@[simp] theorem State.setCore_queues (s : State) (c : Nat) (k : Core) : (s.setCore c k).queues = s.queues := rfl
@[simp] theorem State.setCore_launches (s : State) (c : Nat) (k : Core) : (s.setCore c k).launches = s.launches := rfl
@[simp] theorem State.setCore_squalls (s : State) (c : Nat) (k : Core) : (s.setCore c k).squalls = s.squalls := rfl
@[simp] theorem State.setCore_images (s : State) (c : Nat) (k : Core) : (s.setCore c k).images = s.images := rfl
@[simp] theorem State.setCore_retiring (s : State) (c : Nat) (k : Core) : (s.setCore c k).retiring = s.retiring := rfl
@[simp] theorem State.setCore_told (s : State) (c : Nat) (k : Core) : (s.setCore c k).told = s.told := rfl
@[simp] theorem State.setCore_measured (s : State) (c : Nat) (k : Core) : (s.setCore c k).measured = s.measured := rfl
@[simp] theorem State.setCore_spdm (s : State) (c : Nat) (k : Core) : (s.setCore c k).spdm = s.spdm := rfl
@[simp] theorem State.setCore_spdmA (s : State) (c : Nat) (k : Core) : (s.setCore c k).spdmA = s.spdmA := rfl
@[simp] theorem State.setCore_spdmB (s : State) (c : Nat) (k : Core) : (s.setCore c k).spdmB = s.spdmB := rfl
@[simp] theorem State.setCore_spdmL (s : State) (c : Nat) (k : Core) : (s.setCore c k).spdmL = s.spdmL := rfl
@[simp] theorem State.setCore_cur (s : State) (c : Nat) (k : Core) : (s.setCore c k).cur = s.cur := rfl
@[simp] theorem State.setCore_turn (s : State) (c : Nat) (k : Core) : (s.setCore c k).turn = s.turn := rfl
@[simp] theorem State.setCore_turns (s : State) (c : Nat) (k : Core) : (s.setCore c k).turns = s.turns := rfl
@[simp] theorem State.setCore_frees (s : State) (c : Nat) (k : Core) : (s.setCore c k).frees = s.frees := rfl
@[simp] theorem State.setCore_nextId (s : State) (c : Nat) (k : Core) : (s.setCore c k).nextId = s.nextId := rfl

@[simp] theorem State.onCore_phase (s : State) (c : Nat) (f : Core → Core) : (s.onCore c f).phase = s.phase := rfl
@[simp] theorem State.onCore_failst (s : State) (c : Nat) (f : Core → Core) : (s.onCore c f).failst = s.failst := rfl
@[simp] theorem State.onCore_rreason (s : State) (c : Nat) (f : Core → Core) : (s.onCore c f).rreason = s.rreason := rfl
@[simp] theorem State.onCore_tick (s : State) (c : Nat) (f : Core → Core) : (s.onCore c f).tick = s.tick := rfl
@[simp] theorem State.onCore_time (s : State) (c : Nat) (f : Core → Core) : (s.onCore c f).time = s.time := rfl
@[simp] theorem State.onCore_phaseAt (s : State) (c : Nat) (f : Core → Core) : (s.onCore c f).phaseAt = s.phaseAt := rfl
@[simp] theorem State.onCore_arbiters (s : State) (c : Nat) (f : Core → Core) : (s.onCore c f).arbiters = s.arbiters := rfl
@[simp] theorem State.onCore_routes (s : State) (c : Nat) (f : Core → Core) : (s.onCore c f).routes = s.routes := rfl
@[simp] theorem State.onCore_modules (s : State) (c : Nat) (f : Core → Core) : (s.onCore c f).modules = s.modules := rfl
@[simp] theorem State.onCore_links (s : State) (c : Nat) (f : Core → Core) : (s.onCore c f).links = s.links := rfl
@[simp] theorem State.onCore_mem (s : State) (c : Nat) (f : Core → Core) : (s.onCore c f).mem = s.mem := rfl
@[simp] theorem State.onCore_memPoison (s : State) (c : Nat) (f : Core → Core) : (s.onCore c f).memPoison = s.memPoison := rfl
@[simp] theorem State.onCore_sums (s : State) (c : Nat) (f : Core → Core) : (s.onCore c f).sums = s.sums := rfl
@[simp] theorem State.onCore_reqs (s : State) (c : Nat) (f : Core → Core) : (s.onCore c f).reqs = s.reqs := rfl
@[simp] theorem State.onCore_windows (s : State) (c : Nat) (f : Core → Core) : (s.onCore c f).windows = s.windows := rfl
@[simp] theorem State.onCore_errands (s : State) (c : Nat) (f : Core → Core) : (s.onCore c f).errands = s.errands := rfl
@[simp] theorem State.onCore_outerWindow (s : State) (c : Nat) (f : Core → Core) : (s.onCore c f).outerWindow = s.outerWindow := rfl
@[simp] theorem State.onCore_receipts (s : State) (c : Nat) (f : Core → Core) : (s.onCore c f).receipts = s.receipts := rfl
@[simp] theorem State.onCore_tlb (s : State) (c : Nat) (f : Core → Core) : (s.onCore c f).tlb = s.tlb := rfl
@[simp] theorem State.onCore_walkers (s : State) (c : Nat) (f : Core → Core) : (s.onCore c f).walkers = s.walkers := rfl
@[simp] theorem State.onCore_seqs (s : State) (c : Nat) (f : Core → Core) : (s.onCore c f).seqs = s.seqs := rfl
@[simp] theorem State.onCore_devno (s : State) (c : Nat) (f : Core → Core) : (s.onCore c f).devno = s.devno := rfl
@[simp] theorem State.onCore_peers (s : State) (c : Nat) (f : Core → Core) : (s.onCore c f).peers = s.peers := rfl
@[simp] theorem State.onCore_msgbase (s : State) (c : Nat) (f : Core → Core) : (s.onCore c f).msgbase = s.msgbase := rfl
@[simp] theorem State.onCore_cons (s : State) (c : Nat) (f : Core → Core) : (s.onCore c f).cons = s.cons := rfl
@[simp] theorem State.onCore_prod (s : State) (c : Nat) (f : Core → Core) : (s.onCore c f).prod = s.prod := rfl
@[simp] theorem State.onCore_plim (s : State) (c : Nat) (f : Core → Core) : (s.onCore c f).plim = s.plim := rfl
@[simp] theorem State.onCore_soft (s : State) (c : Nat) (f : Core → Core) : (s.onCore c f).soft = s.soft := rfl
@[simp] theorem State.onCore_temp0 (s : State) (c : Nat) (f : Core → Core) : (s.onCore c f).temp0 = s.temp0 := rfl
@[simp] theorem State.onCore_temp1 (s : State) (c : Nat) (f : Core → Core) : (s.onCore c f).temp1 = s.temp1 := rfl
@[simp] theorem State.onCore_menergy (s : State) (c : Nat) (f : Core → Core) : (s.onCore c f).menergy = s.menergy := rfl
@[simp] theorem State.onCore_dline (s : State) (c : Nat) (f : Core → Core) : (s.onCore c f).dline = s.dline := rfl
@[simp] theorem State.onCore_cdrop (s : State) (c : Nat) (f : Core → Core) : (s.onCore c f).cdrop = s.cdrop := rfl
@[simp] theorem State.onCore_trip0 (s : State) (c : Nat) (f : Core → Core) : (s.onCore c f).trip0 = s.trip0 := rfl
@[simp] theorem State.onCore_trip1 (s : State) (c : Nat) (f : Core → Core) : (s.onCore c f).trip1 = s.trip1 := rfl
@[simp] theorem State.onCore_overPower (s : State) (c : Nat) (f : Core → Core) : (s.onCore c f).overPower = s.overPower := rfl
@[simp] theorem State.onCore_hot (s : State) (c : Nat) (f : Core → Core) : (s.onCore c f).hot = s.hot := rfl
@[simp] theorem State.onCore_dclWide (s : State) (c : Nat) (f : Core → Core) : (s.onCore c f).dclWide = s.dclWide := rfl
@[simp] theorem State.onCore_fatals (s : State) (c : Nat) (f : Core → Core) : (s.onCore c f).fatals = s.fatals := rfl
@[simp] theorem State.onCore_commands (s : State) (c : Nat) (f : Core → Core) : (s.onCore c f).commands = s.commands := rfl
@[simp] theorem State.onCore_messages (s : State) (c : Nat) (f : Core → Core) : (s.onCore c f).messages = s.messages := rfl
@[simp] theorem State.onCore_contexts (s : State) (c : Nat) (f : Core → Core) : (s.onCore c f).contexts = s.contexts := rfl
@[simp] theorem State.onCore_queues (s : State) (c : Nat) (f : Core → Core) : (s.onCore c f).queues = s.queues := rfl
@[simp] theorem State.onCore_launches (s : State) (c : Nat) (f : Core → Core) : (s.onCore c f).launches = s.launches := rfl
@[simp] theorem State.onCore_squalls (s : State) (c : Nat) (f : Core → Core) : (s.onCore c f).squalls = s.squalls := rfl
@[simp] theorem State.onCore_images (s : State) (c : Nat) (f : Core → Core) : (s.onCore c f).images = s.images := rfl
@[simp] theorem State.onCore_retiring (s : State) (c : Nat) (f : Core → Core) : (s.onCore c f).retiring = s.retiring := rfl
@[simp] theorem State.onCore_told (s : State) (c : Nat) (f : Core → Core) : (s.onCore c f).told = s.told := rfl
@[simp] theorem State.onCore_measured (s : State) (c : Nat) (f : Core → Core) : (s.onCore c f).measured = s.measured := rfl
@[simp] theorem State.onCore_spdm (s : State) (c : Nat) (f : Core → Core) : (s.onCore c f).spdm = s.spdm := rfl
@[simp] theorem State.onCore_spdmA (s : State) (c : Nat) (f : Core → Core) : (s.onCore c f).spdmA = s.spdmA := rfl
@[simp] theorem State.onCore_spdmB (s : State) (c : Nat) (f : Core → Core) : (s.onCore c f).spdmB = s.spdmB := rfl
@[simp] theorem State.onCore_spdmL (s : State) (c : Nat) (f : Core → Core) : (s.onCore c f).spdmL = s.spdmL := rfl
@[simp] theorem State.onCore_cur (s : State) (c : Nat) (f : Core → Core) : (s.onCore c f).cur = s.cur := rfl
@[simp] theorem State.onCore_turn (s : State) (c : Nat) (f : Core → Core) : (s.onCore c f).turn = s.turn := rfl
@[simp] theorem State.onCore_turns (s : State) (c : Nat) (f : Core → Core) : (s.onCore c f).turns = s.turns := rfl
@[simp] theorem State.onCore_frees (s : State) (c : Nat) (f : Core → Core) : (s.onCore c f).frees = s.frees := rfl
@[simp] theorem State.onCore_nextId (s : State) (c : Nat) (f : Core → Core) : (s.onCore c f).nextId = s.nextId := rfl

@[simp] theorem State.setSlot_phase (s : State) (c n : Nat) (t : Slot) : (s.setSlot c n t).phase = s.phase := rfl
@[simp] theorem State.setSlot_failst (s : State) (c n : Nat) (t : Slot) : (s.setSlot c n t).failst = s.failst := rfl
@[simp] theorem State.setSlot_rreason (s : State) (c n : Nat) (t : Slot) : (s.setSlot c n t).rreason = s.rreason := rfl
@[simp] theorem State.setSlot_tick (s : State) (c n : Nat) (t : Slot) : (s.setSlot c n t).tick = s.tick := rfl
@[simp] theorem State.setSlot_time (s : State) (c n : Nat) (t : Slot) : (s.setSlot c n t).time = s.time := rfl
@[simp] theorem State.setSlot_phaseAt (s : State) (c n : Nat) (t : Slot) : (s.setSlot c n t).phaseAt = s.phaseAt := rfl
@[simp] theorem State.setSlot_arbiters (s : State) (c n : Nat) (t : Slot) : (s.setSlot c n t).arbiters = s.arbiters := rfl
@[simp] theorem State.setSlot_routes (s : State) (c n : Nat) (t : Slot) : (s.setSlot c n t).routes = s.routes := rfl
@[simp] theorem State.setSlot_modules (s : State) (c n : Nat) (t : Slot) : (s.setSlot c n t).modules = s.modules := rfl
@[simp] theorem State.setSlot_links (s : State) (c n : Nat) (t : Slot) : (s.setSlot c n t).links = s.links := rfl
@[simp] theorem State.setSlot_mem (s : State) (c n : Nat) (t : Slot) : (s.setSlot c n t).mem = s.mem := rfl
@[simp] theorem State.setSlot_memPoison (s : State) (c n : Nat) (t : Slot) : (s.setSlot c n t).memPoison = s.memPoison := rfl
@[simp] theorem State.setSlot_sums (s : State) (c n : Nat) (t : Slot) : (s.setSlot c n t).sums = s.sums := rfl
@[simp] theorem State.setSlot_reqs (s : State) (c n : Nat) (t : Slot) : (s.setSlot c n t).reqs = s.reqs := rfl
@[simp] theorem State.setSlot_windows (s : State) (c n : Nat) (t : Slot) : (s.setSlot c n t).windows = s.windows := rfl
@[simp] theorem State.setSlot_errands (s : State) (c n : Nat) (t : Slot) : (s.setSlot c n t).errands = s.errands := rfl
@[simp] theorem State.setSlot_outerWindow (s : State) (c n : Nat) (t : Slot) : (s.setSlot c n t).outerWindow = s.outerWindow := rfl
@[simp] theorem State.setSlot_receipts (s : State) (c n : Nat) (t : Slot) : (s.setSlot c n t).receipts = s.receipts := rfl
@[simp] theorem State.setSlot_tlb (s : State) (c n : Nat) (t : Slot) : (s.setSlot c n t).tlb = s.tlb := rfl
@[simp] theorem State.setSlot_walkers (s : State) (c n : Nat) (t : Slot) : (s.setSlot c n t).walkers = s.walkers := rfl
@[simp] theorem State.setSlot_seqs (s : State) (c n : Nat) (t : Slot) : (s.setSlot c n t).seqs = s.seqs := rfl
@[simp] theorem State.setSlot_devno (s : State) (c n : Nat) (t : Slot) : (s.setSlot c n t).devno = s.devno := rfl
@[simp] theorem State.setSlot_peers (s : State) (c n : Nat) (t : Slot) : (s.setSlot c n t).peers = s.peers := rfl
@[simp] theorem State.setSlot_msgbase (s : State) (c n : Nat) (t : Slot) : (s.setSlot c n t).msgbase = s.msgbase := rfl
@[simp] theorem State.setSlot_cons (s : State) (c n : Nat) (t : Slot) : (s.setSlot c n t).cons = s.cons := rfl
@[simp] theorem State.setSlot_prod (s : State) (c n : Nat) (t : Slot) : (s.setSlot c n t).prod = s.prod := rfl
@[simp] theorem State.setSlot_plim (s : State) (c n : Nat) (t : Slot) : (s.setSlot c n t).plim = s.plim := rfl
@[simp] theorem State.setSlot_soft (s : State) (c n : Nat) (t : Slot) : (s.setSlot c n t).soft = s.soft := rfl
@[simp] theorem State.setSlot_temp0 (s : State) (c n : Nat) (t : Slot) : (s.setSlot c n t).temp0 = s.temp0 := rfl
@[simp] theorem State.setSlot_temp1 (s : State) (c n : Nat) (t : Slot) : (s.setSlot c n t).temp1 = s.temp1 := rfl
@[simp] theorem State.setSlot_menergy (s : State) (c n : Nat) (t : Slot) : (s.setSlot c n t).menergy = s.menergy := rfl
@[simp] theorem State.setSlot_dline (s : State) (c n : Nat) (t : Slot) : (s.setSlot c n t).dline = s.dline := rfl
@[simp] theorem State.setSlot_cdrop (s : State) (c n : Nat) (t : Slot) : (s.setSlot c n t).cdrop = s.cdrop := rfl
@[simp] theorem State.setSlot_trip0 (s : State) (c n : Nat) (t : Slot) : (s.setSlot c n t).trip0 = s.trip0 := rfl
@[simp] theorem State.setSlot_trip1 (s : State) (c n : Nat) (t : Slot) : (s.setSlot c n t).trip1 = s.trip1 := rfl
@[simp] theorem State.setSlot_overPower (s : State) (c n : Nat) (t : Slot) : (s.setSlot c n t).overPower = s.overPower := rfl
@[simp] theorem State.setSlot_hot (s : State) (c n : Nat) (t : Slot) : (s.setSlot c n t).hot = s.hot := rfl
@[simp] theorem State.setSlot_dclWide (s : State) (c n : Nat) (t : Slot) : (s.setSlot c n t).dclWide = s.dclWide := rfl
@[simp] theorem State.setSlot_fatals (s : State) (c n : Nat) (t : Slot) : (s.setSlot c n t).fatals = s.fatals := rfl
@[simp] theorem State.setSlot_commands (s : State) (c n : Nat) (t : Slot) : (s.setSlot c n t).commands = s.commands := rfl
@[simp] theorem State.setSlot_messages (s : State) (c n : Nat) (t : Slot) : (s.setSlot c n t).messages = s.messages := rfl
@[simp] theorem State.setSlot_contexts (s : State) (c n : Nat) (t : Slot) : (s.setSlot c n t).contexts = s.contexts := rfl
@[simp] theorem State.setSlot_queues (s : State) (c n : Nat) (t : Slot) : (s.setSlot c n t).queues = s.queues := rfl
@[simp] theorem State.setSlot_launches (s : State) (c n : Nat) (t : Slot) : (s.setSlot c n t).launches = s.launches := rfl
@[simp] theorem State.setSlot_squalls (s : State) (c n : Nat) (t : Slot) : (s.setSlot c n t).squalls = s.squalls := rfl
@[simp] theorem State.setSlot_images (s : State) (c n : Nat) (t : Slot) : (s.setSlot c n t).images = s.images := rfl
@[simp] theorem State.setSlot_retiring (s : State) (c n : Nat) (t : Slot) : (s.setSlot c n t).retiring = s.retiring := rfl
@[simp] theorem State.setSlot_told (s : State) (c n : Nat) (t : Slot) : (s.setSlot c n t).told = s.told := rfl
@[simp] theorem State.setSlot_measured (s : State) (c n : Nat) (t : Slot) : (s.setSlot c n t).measured = s.measured := rfl
@[simp] theorem State.setSlot_spdm (s : State) (c n : Nat) (t : Slot) : (s.setSlot c n t).spdm = s.spdm := rfl
@[simp] theorem State.setSlot_spdmA (s : State) (c n : Nat) (t : Slot) : (s.setSlot c n t).spdmA = s.spdmA := rfl
@[simp] theorem State.setSlot_spdmB (s : State) (c n : Nat) (t : Slot) : (s.setSlot c n t).spdmB = s.spdmB := rfl
@[simp] theorem State.setSlot_spdmL (s : State) (c n : Nat) (t : Slot) : (s.setSlot c n t).spdmL = s.spdmL := rfl
@[simp] theorem State.setSlot_cur (s : State) (c n : Nat) (t : Slot) : (s.setSlot c n t).cur = s.cur := rfl
@[simp] theorem State.setSlot_turn (s : State) (c n : Nat) (t : Slot) : (s.setSlot c n t).turn = s.turn := rfl
@[simp] theorem State.setSlot_turns (s : State) (c n : Nat) (t : Slot) : (s.setSlot c n t).turns = s.turns := rfl
@[simp] theorem State.setSlot_frees (s : State) (c n : Nat) (t : Slot) : (s.setSlot c n t).frees = s.frees := rfl
@[simp] theorem State.setSlot_nextId (s : State) (c n : Nat) (t : Slot) : (s.setSlot c n t).nextId = s.nextId := rfl

@[simp] theorem State.onSlot_phase (s : State) (c n : Nat) (f : Slot → Slot) : (s.onSlot c n f).phase = s.phase := rfl
@[simp] theorem State.onSlot_failst (s : State) (c n : Nat) (f : Slot → Slot) : (s.onSlot c n f).failst = s.failst := rfl
@[simp] theorem State.onSlot_rreason (s : State) (c n : Nat) (f : Slot → Slot) : (s.onSlot c n f).rreason = s.rreason := rfl
@[simp] theorem State.onSlot_tick (s : State) (c n : Nat) (f : Slot → Slot) : (s.onSlot c n f).tick = s.tick := rfl
@[simp] theorem State.onSlot_time (s : State) (c n : Nat) (f : Slot → Slot) : (s.onSlot c n f).time = s.time := rfl
@[simp] theorem State.onSlot_phaseAt (s : State) (c n : Nat) (f : Slot → Slot) : (s.onSlot c n f).phaseAt = s.phaseAt := rfl
@[simp] theorem State.onSlot_arbiters (s : State) (c n : Nat) (f : Slot → Slot) : (s.onSlot c n f).arbiters = s.arbiters := rfl
@[simp] theorem State.onSlot_routes (s : State) (c n : Nat) (f : Slot → Slot) : (s.onSlot c n f).routes = s.routes := rfl
@[simp] theorem State.onSlot_modules (s : State) (c n : Nat) (f : Slot → Slot) : (s.onSlot c n f).modules = s.modules := rfl
@[simp] theorem State.onSlot_links (s : State) (c n : Nat) (f : Slot → Slot) : (s.onSlot c n f).links = s.links := rfl
@[simp] theorem State.onSlot_mem (s : State) (c n : Nat) (f : Slot → Slot) : (s.onSlot c n f).mem = s.mem := rfl
@[simp] theorem State.onSlot_memPoison (s : State) (c n : Nat) (f : Slot → Slot) : (s.onSlot c n f).memPoison = s.memPoison := rfl
@[simp] theorem State.onSlot_sums (s : State) (c n : Nat) (f : Slot → Slot) : (s.onSlot c n f).sums = s.sums := rfl
@[simp] theorem State.onSlot_reqs (s : State) (c n : Nat) (f : Slot → Slot) : (s.onSlot c n f).reqs = s.reqs := rfl
@[simp] theorem State.onSlot_windows (s : State) (c n : Nat) (f : Slot → Slot) : (s.onSlot c n f).windows = s.windows := rfl
@[simp] theorem State.onSlot_errands (s : State) (c n : Nat) (f : Slot → Slot) : (s.onSlot c n f).errands = s.errands := rfl
@[simp] theorem State.onSlot_outerWindow (s : State) (c n : Nat) (f : Slot → Slot) : (s.onSlot c n f).outerWindow = s.outerWindow := rfl
@[simp] theorem State.onSlot_receipts (s : State) (c n : Nat) (f : Slot → Slot) : (s.onSlot c n f).receipts = s.receipts := rfl
@[simp] theorem State.onSlot_tlb (s : State) (c n : Nat) (f : Slot → Slot) : (s.onSlot c n f).tlb = s.tlb := rfl
@[simp] theorem State.onSlot_walkers (s : State) (c n : Nat) (f : Slot → Slot) : (s.onSlot c n f).walkers = s.walkers := rfl
@[simp] theorem State.onSlot_seqs (s : State) (c n : Nat) (f : Slot → Slot) : (s.onSlot c n f).seqs = s.seqs := rfl
@[simp] theorem State.onSlot_devno (s : State) (c n : Nat) (f : Slot → Slot) : (s.onSlot c n f).devno = s.devno := rfl
@[simp] theorem State.onSlot_peers (s : State) (c n : Nat) (f : Slot → Slot) : (s.onSlot c n f).peers = s.peers := rfl
@[simp] theorem State.onSlot_msgbase (s : State) (c n : Nat) (f : Slot → Slot) : (s.onSlot c n f).msgbase = s.msgbase := rfl
@[simp] theorem State.onSlot_cons (s : State) (c n : Nat) (f : Slot → Slot) : (s.onSlot c n f).cons = s.cons := rfl
@[simp] theorem State.onSlot_prod (s : State) (c n : Nat) (f : Slot → Slot) : (s.onSlot c n f).prod = s.prod := rfl
@[simp] theorem State.onSlot_plim (s : State) (c n : Nat) (f : Slot → Slot) : (s.onSlot c n f).plim = s.plim := rfl
@[simp] theorem State.onSlot_soft (s : State) (c n : Nat) (f : Slot → Slot) : (s.onSlot c n f).soft = s.soft := rfl
@[simp] theorem State.onSlot_temp0 (s : State) (c n : Nat) (f : Slot → Slot) : (s.onSlot c n f).temp0 = s.temp0 := rfl
@[simp] theorem State.onSlot_temp1 (s : State) (c n : Nat) (f : Slot → Slot) : (s.onSlot c n f).temp1 = s.temp1 := rfl
@[simp] theorem State.onSlot_menergy (s : State) (c n : Nat) (f : Slot → Slot) : (s.onSlot c n f).menergy = s.menergy := rfl
@[simp] theorem State.onSlot_dline (s : State) (c n : Nat) (f : Slot → Slot) : (s.onSlot c n f).dline = s.dline := rfl
@[simp] theorem State.onSlot_cdrop (s : State) (c n : Nat) (f : Slot → Slot) : (s.onSlot c n f).cdrop = s.cdrop := rfl
@[simp] theorem State.onSlot_trip0 (s : State) (c n : Nat) (f : Slot → Slot) : (s.onSlot c n f).trip0 = s.trip0 := rfl
@[simp] theorem State.onSlot_trip1 (s : State) (c n : Nat) (f : Slot → Slot) : (s.onSlot c n f).trip1 = s.trip1 := rfl
@[simp] theorem State.onSlot_overPower (s : State) (c n : Nat) (f : Slot → Slot) : (s.onSlot c n f).overPower = s.overPower := rfl
@[simp] theorem State.onSlot_hot (s : State) (c n : Nat) (f : Slot → Slot) : (s.onSlot c n f).hot = s.hot := rfl
@[simp] theorem State.onSlot_dclWide (s : State) (c n : Nat) (f : Slot → Slot) : (s.onSlot c n f).dclWide = s.dclWide := rfl
@[simp] theorem State.onSlot_fatals (s : State) (c n : Nat) (f : Slot → Slot) : (s.onSlot c n f).fatals = s.fatals := rfl
@[simp] theorem State.onSlot_commands (s : State) (c n : Nat) (f : Slot → Slot) : (s.onSlot c n f).commands = s.commands := rfl
@[simp] theorem State.onSlot_messages (s : State) (c n : Nat) (f : Slot → Slot) : (s.onSlot c n f).messages = s.messages := rfl
@[simp] theorem State.onSlot_contexts (s : State) (c n : Nat) (f : Slot → Slot) : (s.onSlot c n f).contexts = s.contexts := rfl
@[simp] theorem State.onSlot_queues (s : State) (c n : Nat) (f : Slot → Slot) : (s.onSlot c n f).queues = s.queues := rfl
@[simp] theorem State.onSlot_launches (s : State) (c n : Nat) (f : Slot → Slot) : (s.onSlot c n f).launches = s.launches := rfl
@[simp] theorem State.onSlot_squalls (s : State) (c n : Nat) (f : Slot → Slot) : (s.onSlot c n f).squalls = s.squalls := rfl
@[simp] theorem State.onSlot_images (s : State) (c n : Nat) (f : Slot → Slot) : (s.onSlot c n f).images = s.images := rfl
@[simp] theorem State.onSlot_retiring (s : State) (c n : Nat) (f : Slot → Slot) : (s.onSlot c n f).retiring = s.retiring := rfl
@[simp] theorem State.onSlot_told (s : State) (c n : Nat) (f : Slot → Slot) : (s.onSlot c n f).told = s.told := rfl
@[simp] theorem State.onSlot_measured (s : State) (c n : Nat) (f : Slot → Slot) : (s.onSlot c n f).measured = s.measured := rfl
@[simp] theorem State.onSlot_spdm (s : State) (c n : Nat) (f : Slot → Slot) : (s.onSlot c n f).spdm = s.spdm := rfl
@[simp] theorem State.onSlot_spdmA (s : State) (c n : Nat) (f : Slot → Slot) : (s.onSlot c n f).spdmA = s.spdmA := rfl
@[simp] theorem State.onSlot_spdmB (s : State) (c n : Nat) (f : Slot → Slot) : (s.onSlot c n f).spdmB = s.spdmB := rfl
@[simp] theorem State.onSlot_spdmL (s : State) (c n : Nat) (f : Slot → Slot) : (s.onSlot c n f).spdmL = s.spdmL := rfl
@[simp] theorem State.onSlot_cur (s : State) (c n : Nat) (f : Slot → Slot) : (s.onSlot c n f).cur = s.cur := rfl
@[simp] theorem State.onSlot_turn (s : State) (c n : Nat) (f : Slot → Slot) : (s.onSlot c n f).turn = s.turn := rfl
@[simp] theorem State.onSlot_turns (s : State) (c n : Nat) (f : Slot → Slot) : (s.onSlot c n f).turns = s.turns := rfl
@[simp] theorem State.onSlot_frees (s : State) (c n : Nat) (f : Slot → Slot) : (s.onSlot c n f).frees = s.frees := rfl
@[simp] theorem State.onSlot_nextId (s : State) (c n : Nat) (f : Slot → Slot) : (s.onSlot c n f).nextId = s.nextId := rfl

@[simp] theorem State.advance_phase (s : State) (c n : Nat) : (s.advance c n).phase = s.phase := rfl
@[simp] theorem State.advance_failst (s : State) (c n : Nat) : (s.advance c n).failst = s.failst := rfl
@[simp] theorem State.advance_rreason (s : State) (c n : Nat) : (s.advance c n).rreason = s.rreason := rfl
@[simp] theorem State.advance_tick (s : State) (c n : Nat) : (s.advance c n).tick = s.tick := rfl
@[simp] theorem State.advance_time (s : State) (c n : Nat) : (s.advance c n).time = s.time := rfl
@[simp] theorem State.advance_phaseAt (s : State) (c n : Nat) : (s.advance c n).phaseAt = s.phaseAt := rfl
@[simp] theorem State.advance_arbiters (s : State) (c n : Nat) : (s.advance c n).arbiters = s.arbiters := rfl
@[simp] theorem State.advance_routes (s : State) (c n : Nat) : (s.advance c n).routes = s.routes := rfl
@[simp] theorem State.advance_modules (s : State) (c n : Nat) : (s.advance c n).modules = s.modules := rfl
@[simp] theorem State.advance_links (s : State) (c n : Nat) : (s.advance c n).links = s.links := rfl
@[simp] theorem State.advance_mem (s : State) (c n : Nat) : (s.advance c n).mem = s.mem := rfl
@[simp] theorem State.advance_memPoison (s : State) (c n : Nat) : (s.advance c n).memPoison = s.memPoison := rfl
@[simp] theorem State.advance_sums (s : State) (c n : Nat) : (s.advance c n).sums = s.sums := rfl
@[simp] theorem State.advance_reqs (s : State) (c n : Nat) : (s.advance c n).reqs = s.reqs := rfl
@[simp] theorem State.advance_windows (s : State) (c n : Nat) : (s.advance c n).windows = s.windows := rfl
@[simp] theorem State.advance_errands (s : State) (c n : Nat) : (s.advance c n).errands = s.errands := rfl
@[simp] theorem State.advance_outerWindow (s : State) (c n : Nat) : (s.advance c n).outerWindow = s.outerWindow := rfl
@[simp] theorem State.advance_receipts (s : State) (c n : Nat) : (s.advance c n).receipts = s.receipts := rfl
@[simp] theorem State.advance_tlb (s : State) (c n : Nat) : (s.advance c n).tlb = s.tlb := rfl
@[simp] theorem State.advance_walkers (s : State) (c n : Nat) : (s.advance c n).walkers = s.walkers := rfl
@[simp] theorem State.advance_seqs (s : State) (c n : Nat) : (s.advance c n).seqs = s.seqs := rfl
@[simp] theorem State.advance_devno (s : State) (c n : Nat) : (s.advance c n).devno = s.devno := rfl
@[simp] theorem State.advance_peers (s : State) (c n : Nat) : (s.advance c n).peers = s.peers := rfl
@[simp] theorem State.advance_msgbase (s : State) (c n : Nat) : (s.advance c n).msgbase = s.msgbase := rfl
@[simp] theorem State.advance_cons (s : State) (c n : Nat) : (s.advance c n).cons = s.cons := rfl
@[simp] theorem State.advance_prod (s : State) (c n : Nat) : (s.advance c n).prod = s.prod := rfl
@[simp] theorem State.advance_plim (s : State) (c n : Nat) : (s.advance c n).plim = s.plim := rfl
@[simp] theorem State.advance_soft (s : State) (c n : Nat) : (s.advance c n).soft = s.soft := rfl
@[simp] theorem State.advance_temp0 (s : State) (c n : Nat) : (s.advance c n).temp0 = s.temp0 := rfl
@[simp] theorem State.advance_temp1 (s : State) (c n : Nat) : (s.advance c n).temp1 = s.temp1 := rfl
@[simp] theorem State.advance_menergy (s : State) (c n : Nat) : (s.advance c n).menergy = s.menergy := rfl
@[simp] theorem State.advance_dline (s : State) (c n : Nat) : (s.advance c n).dline = s.dline := rfl
@[simp] theorem State.advance_cdrop (s : State) (c n : Nat) : (s.advance c n).cdrop = s.cdrop := rfl
@[simp] theorem State.advance_trip0 (s : State) (c n : Nat) : (s.advance c n).trip0 = s.trip0 := rfl
@[simp] theorem State.advance_trip1 (s : State) (c n : Nat) : (s.advance c n).trip1 = s.trip1 := rfl
@[simp] theorem State.advance_overPower (s : State) (c n : Nat) : (s.advance c n).overPower = s.overPower := rfl
@[simp] theorem State.advance_hot (s : State) (c n : Nat) : (s.advance c n).hot = s.hot := rfl
@[simp] theorem State.advance_dclWide (s : State) (c n : Nat) : (s.advance c n).dclWide = s.dclWide := rfl
@[simp] theorem State.advance_fatals (s : State) (c n : Nat) : (s.advance c n).fatals = s.fatals := rfl
@[simp] theorem State.advance_commands (s : State) (c n : Nat) : (s.advance c n).commands = s.commands := rfl
@[simp] theorem State.advance_messages (s : State) (c n : Nat) : (s.advance c n).messages = s.messages := rfl
@[simp] theorem State.advance_contexts (s : State) (c n : Nat) : (s.advance c n).contexts = s.contexts := rfl
@[simp] theorem State.advance_queues (s : State) (c n : Nat) : (s.advance c n).queues = s.queues := rfl
@[simp] theorem State.advance_launches (s : State) (c n : Nat) : (s.advance c n).launches = s.launches := rfl
@[simp] theorem State.advance_squalls (s : State) (c n : Nat) : (s.advance c n).squalls = s.squalls := rfl
@[simp] theorem State.advance_images (s : State) (c n : Nat) : (s.advance c n).images = s.images := rfl
@[simp] theorem State.advance_retiring (s : State) (c n : Nat) : (s.advance c n).retiring = s.retiring := rfl
@[simp] theorem State.advance_told (s : State) (c n : Nat) : (s.advance c n).told = s.told := rfl
@[simp] theorem State.advance_measured (s : State) (c n : Nat) : (s.advance c n).measured = s.measured := rfl
@[simp] theorem State.advance_spdm (s : State) (c n : Nat) : (s.advance c n).spdm = s.spdm := rfl
@[simp] theorem State.advance_spdmA (s : State) (c n : Nat) : (s.advance c n).spdmA = s.spdmA := rfl
@[simp] theorem State.advance_spdmB (s : State) (c n : Nat) : (s.advance c n).spdmB = s.spdmB := rfl
@[simp] theorem State.advance_spdmL (s : State) (c n : Nat) : (s.advance c n).spdmL = s.spdmL := rfl
@[simp] theorem State.advance_cur (s : State) (c n : Nat) : (s.advance c n).cur = s.cur := rfl
@[simp] theorem State.advance_turn (s : State) (c n : Nat) : (s.advance c n).turn = s.turn := rfl
@[simp] theorem State.advance_turns (s : State) (c n : Nat) : (s.advance c n).turns = s.turns := rfl
@[simp] theorem State.advance_frees (s : State) (c n : Nat) : (s.advance c n).frees = s.frees := rfl
@[simp] theorem State.advance_nextId (s : State) (c n : Nat) : (s.advance c n).nextId = s.nextId := rfl

@[simp] theorem State.onModule_phase (s : State) (m : Nat) (f : Module → Module) : (s.onModule m f).phase = s.phase := rfl
@[simp] theorem State.onModule_failst (s : State) (m : Nat) (f : Module → Module) : (s.onModule m f).failst = s.failst := rfl
@[simp] theorem State.onModule_rreason (s : State) (m : Nat) (f : Module → Module) : (s.onModule m f).rreason = s.rreason := rfl
@[simp] theorem State.onModule_tick (s : State) (m : Nat) (f : Module → Module) : (s.onModule m f).tick = s.tick := rfl
@[simp] theorem State.onModule_time (s : State) (m : Nat) (f : Module → Module) : (s.onModule m f).time = s.time := rfl
@[simp] theorem State.onModule_phaseAt (s : State) (m : Nat) (f : Module → Module) : (s.onModule m f).phaseAt = s.phaseAt := rfl
@[simp] theorem State.onModule_cores (s : State) (m : Nat) (f : Module → Module) : (s.onModule m f).cores = s.cores := rfl
@[simp] theorem State.onModule_arbiters (s : State) (m : Nat) (f : Module → Module) : (s.onModule m f).arbiters = s.arbiters := rfl
@[simp] theorem State.onModule_routes (s : State) (m : Nat) (f : Module → Module) : (s.onModule m f).routes = s.routes := rfl
@[simp] theorem State.onModule_links (s : State) (m : Nat) (f : Module → Module) : (s.onModule m f).links = s.links := rfl
@[simp] theorem State.onModule_mem (s : State) (m : Nat) (f : Module → Module) : (s.onModule m f).mem = s.mem := rfl
@[simp] theorem State.onModule_memPoison (s : State) (m : Nat) (f : Module → Module) : (s.onModule m f).memPoison = s.memPoison := rfl
@[simp] theorem State.onModule_sums (s : State) (m : Nat) (f : Module → Module) : (s.onModule m f).sums = s.sums := rfl
@[simp] theorem State.onModule_reqs (s : State) (m : Nat) (f : Module → Module) : (s.onModule m f).reqs = s.reqs := rfl
@[simp] theorem State.onModule_windows (s : State) (m : Nat) (f : Module → Module) : (s.onModule m f).windows = s.windows := rfl
@[simp] theorem State.onModule_errands (s : State) (m : Nat) (f : Module → Module) : (s.onModule m f).errands = s.errands := rfl
@[simp] theorem State.onModule_outerWindow (s : State) (m : Nat) (f : Module → Module) : (s.onModule m f).outerWindow = s.outerWindow := rfl
@[simp] theorem State.onModule_receipts (s : State) (m : Nat) (f : Module → Module) : (s.onModule m f).receipts = s.receipts := rfl
@[simp] theorem State.onModule_tlb (s : State) (m : Nat) (f : Module → Module) : (s.onModule m f).tlb = s.tlb := rfl
@[simp] theorem State.onModule_walkers (s : State) (m : Nat) (f : Module → Module) : (s.onModule m f).walkers = s.walkers := rfl
@[simp] theorem State.onModule_seqs (s : State) (m : Nat) (f : Module → Module) : (s.onModule m f).seqs = s.seqs := rfl
@[simp] theorem State.onModule_devno (s : State) (m : Nat) (f : Module → Module) : (s.onModule m f).devno = s.devno := rfl
@[simp] theorem State.onModule_peers (s : State) (m : Nat) (f : Module → Module) : (s.onModule m f).peers = s.peers := rfl
@[simp] theorem State.onModule_msgbase (s : State) (m : Nat) (f : Module → Module) : (s.onModule m f).msgbase = s.msgbase := rfl
@[simp] theorem State.onModule_cons (s : State) (m : Nat) (f : Module → Module) : (s.onModule m f).cons = s.cons := rfl
@[simp] theorem State.onModule_prod (s : State) (m : Nat) (f : Module → Module) : (s.onModule m f).prod = s.prod := rfl
@[simp] theorem State.onModule_plim (s : State) (m : Nat) (f : Module → Module) : (s.onModule m f).plim = s.plim := rfl
@[simp] theorem State.onModule_soft (s : State) (m : Nat) (f : Module → Module) : (s.onModule m f).soft = s.soft := rfl
@[simp] theorem State.onModule_temp0 (s : State) (m : Nat) (f : Module → Module) : (s.onModule m f).temp0 = s.temp0 := rfl
@[simp] theorem State.onModule_temp1 (s : State) (m : Nat) (f : Module → Module) : (s.onModule m f).temp1 = s.temp1 := rfl
@[simp] theorem State.onModule_menergy (s : State) (m : Nat) (f : Module → Module) : (s.onModule m f).menergy = s.menergy := rfl
@[simp] theorem State.onModule_dline (s : State) (m : Nat) (f : Module → Module) : (s.onModule m f).dline = s.dline := rfl
@[simp] theorem State.onModule_cdrop (s : State) (m : Nat) (f : Module → Module) : (s.onModule m f).cdrop = s.cdrop := rfl
@[simp] theorem State.onModule_trip0 (s : State) (m : Nat) (f : Module → Module) : (s.onModule m f).trip0 = s.trip0 := rfl
@[simp] theorem State.onModule_trip1 (s : State) (m : Nat) (f : Module → Module) : (s.onModule m f).trip1 = s.trip1 := rfl
@[simp] theorem State.onModule_overPower (s : State) (m : Nat) (f : Module → Module) : (s.onModule m f).overPower = s.overPower := rfl
@[simp] theorem State.onModule_hot (s : State) (m : Nat) (f : Module → Module) : (s.onModule m f).hot = s.hot := rfl
@[simp] theorem State.onModule_dclWide (s : State) (m : Nat) (f : Module → Module) : (s.onModule m f).dclWide = s.dclWide := rfl
@[simp] theorem State.onModule_fatals (s : State) (m : Nat) (f : Module → Module) : (s.onModule m f).fatals = s.fatals := rfl
@[simp] theorem State.onModule_commands (s : State) (m : Nat) (f : Module → Module) : (s.onModule m f).commands = s.commands := rfl
@[simp] theorem State.onModule_messages (s : State) (m : Nat) (f : Module → Module) : (s.onModule m f).messages = s.messages := rfl
@[simp] theorem State.onModule_contexts (s : State) (m : Nat) (f : Module → Module) : (s.onModule m f).contexts = s.contexts := rfl
@[simp] theorem State.onModule_queues (s : State) (m : Nat) (f : Module → Module) : (s.onModule m f).queues = s.queues := rfl
@[simp] theorem State.onModule_launches (s : State) (m : Nat) (f : Module → Module) : (s.onModule m f).launches = s.launches := rfl
@[simp] theorem State.onModule_squalls (s : State) (m : Nat) (f : Module → Module) : (s.onModule m f).squalls = s.squalls := rfl
@[simp] theorem State.onModule_images (s : State) (m : Nat) (f : Module → Module) : (s.onModule m f).images = s.images := rfl
@[simp] theorem State.onModule_retiring (s : State) (m : Nat) (f : Module → Module) : (s.onModule m f).retiring = s.retiring := rfl
@[simp] theorem State.onModule_told (s : State) (m : Nat) (f : Module → Module) : (s.onModule m f).told = s.told := rfl
@[simp] theorem State.onModule_measured (s : State) (m : Nat) (f : Module → Module) : (s.onModule m f).measured = s.measured := rfl
@[simp] theorem State.onModule_spdm (s : State) (m : Nat) (f : Module → Module) : (s.onModule m f).spdm = s.spdm := rfl
@[simp] theorem State.onModule_spdmA (s : State) (m : Nat) (f : Module → Module) : (s.onModule m f).spdmA = s.spdmA := rfl
@[simp] theorem State.onModule_spdmB (s : State) (m : Nat) (f : Module → Module) : (s.onModule m f).spdmB = s.spdmB := rfl
@[simp] theorem State.onModule_spdmL (s : State) (m : Nat) (f : Module → Module) : (s.onModule m f).spdmL = s.spdmL := rfl
@[simp] theorem State.onModule_cur (s : State) (m : Nat) (f : Module → Module) : (s.onModule m f).cur = s.cur := rfl
@[simp] theorem State.onModule_turn (s : State) (m : Nat) (f : Module → Module) : (s.onModule m f).turn = s.turn := rfl
@[simp] theorem State.onModule_turns (s : State) (m : Nat) (f : Module → Module) : (s.onModule m f).turns = s.turns := rfl
@[simp] theorem State.onModule_frees (s : State) (m : Nat) (f : Module → Module) : (s.onModule m f).frees = s.frees := rfl
@[simp] theorem State.onModule_nextId (s : State) (m : Nat) (f : Module → Module) : (s.onModule m f).nextId = s.nextId := rfl

@[simp] theorem State.onContext_phase (s : State) (x : Nat) (f : Ctx → Ctx) : (s.onContext x f).phase = s.phase := rfl
@[simp] theorem State.onContext_failst (s : State) (x : Nat) (f : Ctx → Ctx) : (s.onContext x f).failst = s.failst := rfl
@[simp] theorem State.onContext_rreason (s : State) (x : Nat) (f : Ctx → Ctx) : (s.onContext x f).rreason = s.rreason := rfl
@[simp] theorem State.onContext_tick (s : State) (x : Nat) (f : Ctx → Ctx) : (s.onContext x f).tick = s.tick := rfl
@[simp] theorem State.onContext_time (s : State) (x : Nat) (f : Ctx → Ctx) : (s.onContext x f).time = s.time := rfl
@[simp] theorem State.onContext_phaseAt (s : State) (x : Nat) (f : Ctx → Ctx) : (s.onContext x f).phaseAt = s.phaseAt := rfl
@[simp] theorem State.onContext_cores (s : State) (x : Nat) (f : Ctx → Ctx) : (s.onContext x f).cores = s.cores := rfl
@[simp] theorem State.onContext_arbiters (s : State) (x : Nat) (f : Ctx → Ctx) : (s.onContext x f).arbiters = s.arbiters := rfl
@[simp] theorem State.onContext_routes (s : State) (x : Nat) (f : Ctx → Ctx) : (s.onContext x f).routes = s.routes := rfl
@[simp] theorem State.onContext_modules (s : State) (x : Nat) (f : Ctx → Ctx) : (s.onContext x f).modules = s.modules := rfl
@[simp] theorem State.onContext_links (s : State) (x : Nat) (f : Ctx → Ctx) : (s.onContext x f).links = s.links := rfl
@[simp] theorem State.onContext_mem (s : State) (x : Nat) (f : Ctx → Ctx) : (s.onContext x f).mem = s.mem := rfl
@[simp] theorem State.onContext_memPoison (s : State) (x : Nat) (f : Ctx → Ctx) : (s.onContext x f).memPoison = s.memPoison := rfl
@[simp] theorem State.onContext_sums (s : State) (x : Nat) (f : Ctx → Ctx) : (s.onContext x f).sums = s.sums := rfl
@[simp] theorem State.onContext_reqs (s : State) (x : Nat) (f : Ctx → Ctx) : (s.onContext x f).reqs = s.reqs := rfl
@[simp] theorem State.onContext_windows (s : State) (x : Nat) (f : Ctx → Ctx) : (s.onContext x f).windows = s.windows := rfl
@[simp] theorem State.onContext_errands (s : State) (x : Nat) (f : Ctx → Ctx) : (s.onContext x f).errands = s.errands := rfl
@[simp] theorem State.onContext_outerWindow (s : State) (x : Nat) (f : Ctx → Ctx) : (s.onContext x f).outerWindow = s.outerWindow := rfl
@[simp] theorem State.onContext_receipts (s : State) (x : Nat) (f : Ctx → Ctx) : (s.onContext x f).receipts = s.receipts := rfl
@[simp] theorem State.onContext_tlb (s : State) (x : Nat) (f : Ctx → Ctx) : (s.onContext x f).tlb = s.tlb := rfl
@[simp] theorem State.onContext_walkers (s : State) (x : Nat) (f : Ctx → Ctx) : (s.onContext x f).walkers = s.walkers := rfl
@[simp] theorem State.onContext_seqs (s : State) (x : Nat) (f : Ctx → Ctx) : (s.onContext x f).seqs = s.seqs := rfl
@[simp] theorem State.onContext_devno (s : State) (x : Nat) (f : Ctx → Ctx) : (s.onContext x f).devno = s.devno := rfl
@[simp] theorem State.onContext_peers (s : State) (x : Nat) (f : Ctx → Ctx) : (s.onContext x f).peers = s.peers := rfl
@[simp] theorem State.onContext_msgbase (s : State) (x : Nat) (f : Ctx → Ctx) : (s.onContext x f).msgbase = s.msgbase := rfl
@[simp] theorem State.onContext_cons (s : State) (x : Nat) (f : Ctx → Ctx) : (s.onContext x f).cons = s.cons := rfl
@[simp] theorem State.onContext_prod (s : State) (x : Nat) (f : Ctx → Ctx) : (s.onContext x f).prod = s.prod := rfl
@[simp] theorem State.onContext_plim (s : State) (x : Nat) (f : Ctx → Ctx) : (s.onContext x f).plim = s.plim := rfl
@[simp] theorem State.onContext_soft (s : State) (x : Nat) (f : Ctx → Ctx) : (s.onContext x f).soft = s.soft := rfl
@[simp] theorem State.onContext_temp0 (s : State) (x : Nat) (f : Ctx → Ctx) : (s.onContext x f).temp0 = s.temp0 := rfl
@[simp] theorem State.onContext_temp1 (s : State) (x : Nat) (f : Ctx → Ctx) : (s.onContext x f).temp1 = s.temp1 := rfl
@[simp] theorem State.onContext_menergy (s : State) (x : Nat) (f : Ctx → Ctx) : (s.onContext x f).menergy = s.menergy := rfl
@[simp] theorem State.onContext_dline (s : State) (x : Nat) (f : Ctx → Ctx) : (s.onContext x f).dline = s.dline := rfl
@[simp] theorem State.onContext_cdrop (s : State) (x : Nat) (f : Ctx → Ctx) : (s.onContext x f).cdrop = s.cdrop := rfl
@[simp] theorem State.onContext_trip0 (s : State) (x : Nat) (f : Ctx → Ctx) : (s.onContext x f).trip0 = s.trip0 := rfl
@[simp] theorem State.onContext_trip1 (s : State) (x : Nat) (f : Ctx → Ctx) : (s.onContext x f).trip1 = s.trip1 := rfl
@[simp] theorem State.onContext_overPower (s : State) (x : Nat) (f : Ctx → Ctx) : (s.onContext x f).overPower = s.overPower := rfl
@[simp] theorem State.onContext_hot (s : State) (x : Nat) (f : Ctx → Ctx) : (s.onContext x f).hot = s.hot := rfl
@[simp] theorem State.onContext_dclWide (s : State) (x : Nat) (f : Ctx → Ctx) : (s.onContext x f).dclWide = s.dclWide := rfl
@[simp] theorem State.onContext_fatals (s : State) (x : Nat) (f : Ctx → Ctx) : (s.onContext x f).fatals = s.fatals := rfl
@[simp] theorem State.onContext_commands (s : State) (x : Nat) (f : Ctx → Ctx) : (s.onContext x f).commands = s.commands := rfl
@[simp] theorem State.onContext_messages (s : State) (x : Nat) (f : Ctx → Ctx) : (s.onContext x f).messages = s.messages := rfl
@[simp] theorem State.onContext_queues (s : State) (x : Nat) (f : Ctx → Ctx) : (s.onContext x f).queues = s.queues := rfl
@[simp] theorem State.onContext_launches (s : State) (x : Nat) (f : Ctx → Ctx) : (s.onContext x f).launches = s.launches := rfl
@[simp] theorem State.onContext_squalls (s : State) (x : Nat) (f : Ctx → Ctx) : (s.onContext x f).squalls = s.squalls := rfl
@[simp] theorem State.onContext_images (s : State) (x : Nat) (f : Ctx → Ctx) : (s.onContext x f).images = s.images := rfl
@[simp] theorem State.onContext_retiring (s : State) (x : Nat) (f : Ctx → Ctx) : (s.onContext x f).retiring = s.retiring := rfl
@[simp] theorem State.onContext_told (s : State) (x : Nat) (f : Ctx → Ctx) : (s.onContext x f).told = s.told := rfl
@[simp] theorem State.onContext_measured (s : State) (x : Nat) (f : Ctx → Ctx) : (s.onContext x f).measured = s.measured := rfl
@[simp] theorem State.onContext_spdm (s : State) (x : Nat) (f : Ctx → Ctx) : (s.onContext x f).spdm = s.spdm := rfl
@[simp] theorem State.onContext_spdmA (s : State) (x : Nat) (f : Ctx → Ctx) : (s.onContext x f).spdmA = s.spdmA := rfl
@[simp] theorem State.onContext_spdmB (s : State) (x : Nat) (f : Ctx → Ctx) : (s.onContext x f).spdmB = s.spdmB := rfl
@[simp] theorem State.onContext_spdmL (s : State) (x : Nat) (f : Ctx → Ctx) : (s.onContext x f).spdmL = s.spdmL := rfl
@[simp] theorem State.onContext_cur (s : State) (x : Nat) (f : Ctx → Ctx) : (s.onContext x f).cur = s.cur := rfl
@[simp] theorem State.onContext_turn (s : State) (x : Nat) (f : Ctx → Ctx) : (s.onContext x f).turn = s.turn := rfl
@[simp] theorem State.onContext_turns (s : State) (x : Nat) (f : Ctx → Ctx) : (s.onContext x f).turns = s.turns := rfl
@[simp] theorem State.onContext_frees (s : State) (x : Nat) (f : Ctx → Ctx) : (s.onContext x f).frees = s.frees := rfl
@[simp] theorem State.onContext_nextId (s : State) (x : Nat) (f : Ctx → Ctx) : (s.onContext x f).nextId = s.nextId := rfl

@[simp] theorem State.tell_phase (s : State) (kind n : Nat) : (s.tell kind n).phase = s.phase := rfl
@[simp] theorem State.tell_failst (s : State) (kind n : Nat) : (s.tell kind n).failst = s.failst := rfl
@[simp] theorem State.tell_rreason (s : State) (kind n : Nat) : (s.tell kind n).rreason = s.rreason := rfl
@[simp] theorem State.tell_tick (s : State) (kind n : Nat) : (s.tell kind n).tick = s.tick := rfl
@[simp] theorem State.tell_time (s : State) (kind n : Nat) : (s.tell kind n).time = s.time := rfl
@[simp] theorem State.tell_phaseAt (s : State) (kind n : Nat) : (s.tell kind n).phaseAt = s.phaseAt := rfl
@[simp] theorem State.tell_cores (s : State) (kind n : Nat) : (s.tell kind n).cores = s.cores := rfl
@[simp] theorem State.tell_arbiters (s : State) (kind n : Nat) : (s.tell kind n).arbiters = s.arbiters := rfl
@[simp] theorem State.tell_routes (s : State) (kind n : Nat) : (s.tell kind n).routes = s.routes := rfl
@[simp] theorem State.tell_modules (s : State) (kind n : Nat) : (s.tell kind n).modules = s.modules := rfl
@[simp] theorem State.tell_links (s : State) (kind n : Nat) : (s.tell kind n).links = s.links := rfl
@[simp] theorem State.tell_mem (s : State) (kind n : Nat) : (s.tell kind n).mem = s.mem := rfl
@[simp] theorem State.tell_memPoison (s : State) (kind n : Nat) : (s.tell kind n).memPoison = s.memPoison := rfl
@[simp] theorem State.tell_sums (s : State) (kind n : Nat) : (s.tell kind n).sums = s.sums := rfl
@[simp] theorem State.tell_reqs (s : State) (kind n : Nat) : (s.tell kind n).reqs = s.reqs := rfl
@[simp] theorem State.tell_windows (s : State) (kind n : Nat) : (s.tell kind n).windows = s.windows := rfl
@[simp] theorem State.tell_errands (s : State) (kind n : Nat) : (s.tell kind n).errands = s.errands := rfl
@[simp] theorem State.tell_outerWindow (s : State) (kind n : Nat) : (s.tell kind n).outerWindow = s.outerWindow := rfl
@[simp] theorem State.tell_receipts (s : State) (kind n : Nat) : (s.tell kind n).receipts = s.receipts := rfl
@[simp] theorem State.tell_tlb (s : State) (kind n : Nat) : (s.tell kind n).tlb = s.tlb := rfl
@[simp] theorem State.tell_walkers (s : State) (kind n : Nat) : (s.tell kind n).walkers = s.walkers := rfl
@[simp] theorem State.tell_seqs (s : State) (kind n : Nat) : (s.tell kind n).seqs = s.seqs := rfl
@[simp] theorem State.tell_devno (s : State) (kind n : Nat) : (s.tell kind n).devno = s.devno := rfl
@[simp] theorem State.tell_peers (s : State) (kind n : Nat) : (s.tell kind n).peers = s.peers := rfl
@[simp] theorem State.tell_msgbase (s : State) (kind n : Nat) : (s.tell kind n).msgbase = s.msgbase := rfl
@[simp] theorem State.tell_cons (s : State) (kind n : Nat) : (s.tell kind n).cons = s.cons := rfl
@[simp] theorem State.tell_prod (s : State) (kind n : Nat) : (s.tell kind n).prod = s.prod := rfl
@[simp] theorem State.tell_plim (s : State) (kind n : Nat) : (s.tell kind n).plim = s.plim := rfl
@[simp] theorem State.tell_soft (s : State) (kind n : Nat) : (s.tell kind n).soft = s.soft := rfl
@[simp] theorem State.tell_temp0 (s : State) (kind n : Nat) : (s.tell kind n).temp0 = s.temp0 := rfl
@[simp] theorem State.tell_temp1 (s : State) (kind n : Nat) : (s.tell kind n).temp1 = s.temp1 := rfl
@[simp] theorem State.tell_menergy (s : State) (kind n : Nat) : (s.tell kind n).menergy = s.menergy := rfl
@[simp] theorem State.tell_dline (s : State) (kind n : Nat) : (s.tell kind n).dline = s.dline := rfl
@[simp] theorem State.tell_cdrop (s : State) (kind n : Nat) : (s.tell kind n).cdrop = s.cdrop := rfl
@[simp] theorem State.tell_trip0 (s : State) (kind n : Nat) : (s.tell kind n).trip0 = s.trip0 := rfl
@[simp] theorem State.tell_trip1 (s : State) (kind n : Nat) : (s.tell kind n).trip1 = s.trip1 := rfl
@[simp] theorem State.tell_overPower (s : State) (kind n : Nat) : (s.tell kind n).overPower = s.overPower := rfl
@[simp] theorem State.tell_hot (s : State) (kind n : Nat) : (s.tell kind n).hot = s.hot := rfl
@[simp] theorem State.tell_dclWide (s : State) (kind n : Nat) : (s.tell kind n).dclWide = s.dclWide := rfl
@[simp] theorem State.tell_fatals (s : State) (kind n : Nat) : (s.tell kind n).fatals = s.fatals := rfl
@[simp] theorem State.tell_commands (s : State) (kind n : Nat) : (s.tell kind n).commands = s.commands := rfl
@[simp] theorem State.tell_messages (s : State) (kind n : Nat) : (s.tell kind n).messages = s.messages := rfl
@[simp] theorem State.tell_contexts (s : State) (kind n : Nat) : (s.tell kind n).contexts = s.contexts := rfl
@[simp] theorem State.tell_queues (s : State) (kind n : Nat) : (s.tell kind n).queues = s.queues := rfl
@[simp] theorem State.tell_launches (s : State) (kind n : Nat) : (s.tell kind n).launches = s.launches := rfl
@[simp] theorem State.tell_squalls (s : State) (kind n : Nat) : (s.tell kind n).squalls = s.squalls := rfl
@[simp] theorem State.tell_images (s : State) (kind n : Nat) : (s.tell kind n).images = s.images := rfl
@[simp] theorem State.tell_retiring (s : State) (kind n : Nat) : (s.tell kind n).retiring = s.retiring := rfl
@[simp] theorem State.tell_measured (s : State) (kind n : Nat) : (s.tell kind n).measured = s.measured := rfl
@[simp] theorem State.tell_spdm (s : State) (kind n : Nat) : (s.tell kind n).spdm = s.spdm := rfl
@[simp] theorem State.tell_spdmA (s : State) (kind n : Nat) : (s.tell kind n).spdmA = s.spdmA := rfl
@[simp] theorem State.tell_spdmB (s : State) (kind n : Nat) : (s.tell kind n).spdmB = s.spdmB := rfl
@[simp] theorem State.tell_spdmL (s : State) (kind n : Nat) : (s.tell kind n).spdmL = s.spdmL := rfl
@[simp] theorem State.tell_cur (s : State) (kind n : Nat) : (s.tell kind n).cur = s.cur := rfl
@[simp] theorem State.tell_turn (s : State) (kind n : Nat) : (s.tell kind n).turn = s.turn := rfl
@[simp] theorem State.tell_turns (s : State) (kind n : Nat) : (s.tell kind n).turns = s.turns := rfl
@[simp] theorem State.tell_frees (s : State) (kind n : Nat) : (s.tell kind n).frees = s.frees := rfl
@[simp] theorem State.tell_nextId (s : State) (kind n : Nat) : (s.tell kind n).nextId = s.nextId := rfl

@[simp] theorem State.core_setCore (s : State) (c : Nat) (k : Core) : (s.setCore c k).core c = k := by
  simp [State.core, State.setCore]
theorem State.core_setCore_ne (s : State) {c d : Nat} (k : Core) (h : d ≠ c) : (s.setCore c k).core d = s.core d := by
  simp only [State.core, State.setCore]; exact AMap.get_put_ne _ _ _ h
@[simp] theorem State.core_onCore (s : State) (c : Nat) (f : Core → Core) : (s.onCore c f).core c = f (s.core c) := by
  simp [State.onCore]
theorem State.core_onCore_ne (s : State) {c d : Nat} (f : Core → Core) (h : d ≠ c) : (s.onCore c f).core d = s.core d :=
  s.core_setCore_ne _ h
@[simp] theorem State.slot_setSlot (s : State) (c n : Nat) (t : Slot) : (s.setSlot c n t).slot c n = t := by
  simp [State.slot, State.setSlot]
theorem State.slot_setSlot_ne (s : State) (c : Nat) {n m : Nat} (t : Slot) (h : m ≠ n) :
    (s.setSlot c n t).slot c m = s.slot c m := by
  simp only [State.slot, State.setSlot, State.core_onCore]; exact AMap.get_put_ne _ _ _ h
@[simp] theorem State.slot_onSlot (s : State) (c n : Nat) (f : Slot → Slot) : (s.onSlot c n f).slot c n = f (s.slot c n) := by
  simp [State.onSlot]
theorem State.slot_onSlot_ne (s : State) (c : Nat) {n m : Nat} (f : Slot → Slot) (h : m ≠ n) :
    (s.onSlot c n f).slot c m = s.slot c m := s.slot_setSlot_ne c _ h
theorem State.core_setSlot_ne (s : State) {c d : Nat} (n : Nat) (t : Slot) (h : d ≠ c) : (s.setSlot c n t).core d = s.core d :=
  s.core_onCore_ne _ h
theorem State.core_setSlot (s : State) (c n : Nat) (t : Slot) :
    (s.setSlot c n t).core c = { s.core c with slots := (s.core c).slots.put n t } := by simp [State.setSlot]
@[simp] theorem State.module_onModule (s : State) (m : Nat) (f : Module → Module) : (s.onModule m f).module m = f (s.module m) := by
  simp [State.module, State.onModule]
@[simp] theorem State.context_onContext (s : State) (x : Nat) (f : Ctx → Ctx) : (s.onContext x f).context x = f (s.context x) := by
  simp [State.context, State.onContext]

/-! Slots: registers, predicates, counters, the program counter. -/

@[simp] theorem Slot.goto_occupied (t : Slot) (pc : W32) : (t.goto pc).occupied = t.occupied := rfl
@[simp] theorem Slot.goto_used (t : Slot) (pc : W32) : (t.goto pc).used = t.used := rfl
@[simp] theorem Slot.goto_bind (t : Slot) (pc : W32) : (t.goto pc).bind = t.bind := rfl
@[simp] theorem Slot.goto_item (t : Slot) (pc : W32) : (t.goto pc).item = t.item := rfl
@[simp] theorem Slot.goto_fill (t : Slot) (pc : W32) : (t.goto pc).fill = t.fill := rfl
@[simp] theorem Slot.goto_regs (t : Slot) (pc : W32) : (t.goto pc).regs = t.regs := rfl
@[simp] theorem Slot.goto_bank (t : Slot) (pc : W32) : (t.goto pc).bank = t.bank := rfl
@[simp] theorem Slot.goto_poison (t : Slot) (pc : W32) : (t.goto pc).poison = t.poison := rfl
@[simp] theorem Slot.goto_bankPoison (t : Slot) (pc : W32) : (t.goto pc).bankPoison = t.bankPoison := rfl
@[simp] theorem Slot.goto_preds (t : Slot) (pc : W32) : (t.goto pc).preds = t.preds := rfl
@[simp] theorem Slot.goto_opsO (t : Slot) (pc : W32) : (t.goto pc).opsO = t.opsO := rfl
@[simp] theorem Slot.goto_opsH (t : Slot) (pc : W32) : (t.goto pc).opsH = t.opsH := rfl
@[simp] theorem Slot.goto_opsC (t : Slot) (pc : W32) : (t.goto pc).opsC = t.opsC := rfl
@[simp] theorem Slot.goto_opsM (t : Slot) (pc : W32) : (t.goto pc).opsM = t.opsM := rfl
@[simp] theorem Slot.goto_opsS (t : Slot) (pc : W32) : (t.goto pc).opsS = t.opsS := rfl
@[simp] theorem Slot.goto_tcmp (t : Slot) (pc : W32) : (t.goto pc).tcmp = t.tcmp := rfl
@[simp] theorem Slot.goto_ostat (t : Slot) (pc : W32) : (t.goto pc).ostat = t.ostat := rfl
@[simp] theorem Slot.goto_tpc (t : Slot) (pc : W32) : (t.goto pc).tpc = t.tpc := rfl
@[simp] theorem Slot.goto_tcause (t : Slot) (pc : W32) : (t.goto pc).tcause = t.tcause := rfl
@[simp] theorem Slot.goto_tval (t : Slot) (pc : W32) : (t.goto pc).tval = t.tval := rfl
@[simp] theorem Slot.goto_masked (t : Slot) (pc : W32) : (t.goto pc).masked = t.masked := rfl
@[simp] theorem Slot.goto_retry (t : Slot) (pc : W32) : (t.goto pc).retry = t.retry := rfl
@[simp] theorem Slot.goto_hold (t : Slot) (pc : W32) : (t.goto pc).hold = t.hold := rfl
@[simp] theorem Slot.goto_notBefore (t : Slot) (pc : W32) : (t.goto pc).notBefore = t.notBefore := rfl
@[simp] theorem Slot.goto_recent (t : Slot) (pc : W32) : (t.goto pc).recent = t.recent := rfl
@[simp] theorem Slot.goto_seam (t : Slot) (pc : W32) : (t.goto pc).seam = t.seam := rfl
@[simp] theorem Slot.goto_parker (t : Slot) (pc : W32) : (t.goto pc).parker = t.parker := rfl
@[simp] theorem Slot.goto_openPark (t : Slot) (pc : W32) : (t.goto pc).openPark = t.openPark := rfl

@[simp] theorem Slot.setReg_occupied (t : Slot) (r : Nat) (v : W32) : (t.setReg r v).occupied = t.occupied := by unfold Slot.setReg; split <;> rfl
@[simp] theorem Slot.setReg_used (t : Slot) (r : Nat) (v : W32) : (t.setReg r v).used = t.used := by unfold Slot.setReg; split <;> rfl
@[simp] theorem Slot.setReg_bind (t : Slot) (r : Nat) (v : W32) : (t.setReg r v).bind = t.bind := by unfold Slot.setReg; split <;> rfl
@[simp] theorem Slot.setReg_item (t : Slot) (r : Nat) (v : W32) : (t.setReg r v).item = t.item := by unfold Slot.setReg; split <;> rfl
@[simp] theorem Slot.setReg_fill (t : Slot) (r : Nat) (v : W32) : (t.setReg r v).fill = t.fill := by unfold Slot.setReg; split <;> rfl
@[simp] theorem Slot.setReg_pc (t : Slot) (r : Nat) (v : W32) : (t.setReg r v).pc = t.pc := by unfold Slot.setReg; split <;> rfl
@[simp] theorem Slot.setReg_preds (t : Slot) (r : Nat) (v : W32) : (t.setReg r v).preds = t.preds := by unfold Slot.setReg; split <;> rfl
@[simp] theorem Slot.setReg_opsO (t : Slot) (r : Nat) (v : W32) : (t.setReg r v).opsO = t.opsO := by unfold Slot.setReg; split <;> rfl
@[simp] theorem Slot.setReg_opsH (t : Slot) (r : Nat) (v : W32) : (t.setReg r v).opsH = t.opsH := by unfold Slot.setReg; split <;> rfl
@[simp] theorem Slot.setReg_opsC (t : Slot) (r : Nat) (v : W32) : (t.setReg r v).opsC = t.opsC := by unfold Slot.setReg; split <;> rfl
@[simp] theorem Slot.setReg_opsM (t : Slot) (r : Nat) (v : W32) : (t.setReg r v).opsM = t.opsM := by unfold Slot.setReg; split <;> rfl
@[simp] theorem Slot.setReg_opsS (t : Slot) (r : Nat) (v : W32) : (t.setReg r v).opsS = t.opsS := by unfold Slot.setReg; split <;> rfl
@[simp] theorem Slot.setReg_tcmp (t : Slot) (r : Nat) (v : W32) : (t.setReg r v).tcmp = t.tcmp := by unfold Slot.setReg; split <;> rfl
@[simp] theorem Slot.setReg_ostat (t : Slot) (r : Nat) (v : W32) : (t.setReg r v).ostat = t.ostat := by unfold Slot.setReg; split <;> rfl
@[simp] theorem Slot.setReg_tpc (t : Slot) (r : Nat) (v : W32) : (t.setReg r v).tpc = t.tpc := by unfold Slot.setReg; split <;> rfl
@[simp] theorem Slot.setReg_tcause (t : Slot) (r : Nat) (v : W32) : (t.setReg r v).tcause = t.tcause := by unfold Slot.setReg; split <;> rfl
@[simp] theorem Slot.setReg_tval (t : Slot) (r : Nat) (v : W32) : (t.setReg r v).tval = t.tval := by unfold Slot.setReg; split <;> rfl
@[simp] theorem Slot.setReg_masked (t : Slot) (r : Nat) (v : W32) : (t.setReg r v).masked = t.masked := by unfold Slot.setReg; split <;> rfl
@[simp] theorem Slot.setReg_retry (t : Slot) (r : Nat) (v : W32) : (t.setReg r v).retry = t.retry := by unfold Slot.setReg; split <;> rfl
@[simp] theorem Slot.setReg_hold (t : Slot) (r : Nat) (v : W32) : (t.setReg r v).hold = t.hold := by unfold Slot.setReg; split <;> rfl
@[simp] theorem Slot.setReg_notBefore (t : Slot) (r : Nat) (v : W32) : (t.setReg r v).notBefore = t.notBefore := by unfold Slot.setReg; split <;> rfl
@[simp] theorem Slot.setReg_stay (t : Slot) (r : Nat) (v : W32) : (t.setReg r v).stay = t.stay := by unfold Slot.setReg; split <;> rfl
@[simp] theorem Slot.setReg_recent (t : Slot) (r : Nat) (v : W32) : (t.setReg r v).recent = t.recent := by unfold Slot.setReg; split <;> rfl
@[simp] theorem Slot.setReg_seam (t : Slot) (r : Nat) (v : W32) : (t.setReg r v).seam = t.seam := by unfold Slot.setReg; split <;> rfl
@[simp] theorem Slot.setReg_parker (t : Slot) (r : Nat) (v : W32) : (t.setReg r v).parker = t.parker := by unfold Slot.setReg; split <;> rfl
@[simp] theorem Slot.setReg_openPark (t : Slot) (r : Nat) (v : W32) : (t.setReg r v).openPark = t.openPark := by unfold Slot.setReg; split <;> rfl

@[simp] theorem Slot.setPair_occupied (t : Slot) (r : Nat) (v : W64) : (t.setPair r v).occupied = t.occupied := by simp [Slot.setPair]
@[simp] theorem Slot.setPair_used (t : Slot) (r : Nat) (v : W64) : (t.setPair r v).used = t.used := by simp [Slot.setPair]
@[simp] theorem Slot.setPair_bind (t : Slot) (r : Nat) (v : W64) : (t.setPair r v).bind = t.bind := by simp [Slot.setPair]
@[simp] theorem Slot.setPair_item (t : Slot) (r : Nat) (v : W64) : (t.setPair r v).item = t.item := by simp [Slot.setPair]
@[simp] theorem Slot.setPair_fill (t : Slot) (r : Nat) (v : W64) : (t.setPair r v).fill = t.fill := by simp [Slot.setPair]
@[simp] theorem Slot.setPair_pc (t : Slot) (r : Nat) (v : W64) : (t.setPair r v).pc = t.pc := by simp [Slot.setPair]
@[simp] theorem Slot.setPair_preds (t : Slot) (r : Nat) (v : W64) : (t.setPair r v).preds = t.preds := by simp [Slot.setPair]
@[simp] theorem Slot.setPair_opsO (t : Slot) (r : Nat) (v : W64) : (t.setPair r v).opsO = t.opsO := by simp [Slot.setPair]
@[simp] theorem Slot.setPair_opsH (t : Slot) (r : Nat) (v : W64) : (t.setPair r v).opsH = t.opsH := by simp [Slot.setPair]
@[simp] theorem Slot.setPair_opsC (t : Slot) (r : Nat) (v : W64) : (t.setPair r v).opsC = t.opsC := by simp [Slot.setPair]
@[simp] theorem Slot.setPair_opsM (t : Slot) (r : Nat) (v : W64) : (t.setPair r v).opsM = t.opsM := by simp [Slot.setPair]
@[simp] theorem Slot.setPair_opsS (t : Slot) (r : Nat) (v : W64) : (t.setPair r v).opsS = t.opsS := by simp [Slot.setPair]
@[simp] theorem Slot.setPair_tcmp (t : Slot) (r : Nat) (v : W64) : (t.setPair r v).tcmp = t.tcmp := by simp [Slot.setPair]
@[simp] theorem Slot.setPair_ostat (t : Slot) (r : Nat) (v : W64) : (t.setPair r v).ostat = t.ostat := by simp [Slot.setPair]
@[simp] theorem Slot.setPair_tpc (t : Slot) (r : Nat) (v : W64) : (t.setPair r v).tpc = t.tpc := by simp [Slot.setPair]
@[simp] theorem Slot.setPair_tcause (t : Slot) (r : Nat) (v : W64) : (t.setPair r v).tcause = t.tcause := by simp [Slot.setPair]
@[simp] theorem Slot.setPair_tval (t : Slot) (r : Nat) (v : W64) : (t.setPair r v).tval = t.tval := by simp [Slot.setPair]
@[simp] theorem Slot.setPair_masked (t : Slot) (r : Nat) (v : W64) : (t.setPair r v).masked = t.masked := by simp [Slot.setPair]
@[simp] theorem Slot.setPair_retry (t : Slot) (r : Nat) (v : W64) : (t.setPair r v).retry = t.retry := by simp [Slot.setPair]
@[simp] theorem Slot.setPair_hold (t : Slot) (r : Nat) (v : W64) : (t.setPair r v).hold = t.hold := by simp [Slot.setPair]
@[simp] theorem Slot.setPair_notBefore (t : Slot) (r : Nat) (v : W64) : (t.setPair r v).notBefore = t.notBefore := by simp [Slot.setPair]
@[simp] theorem Slot.setPair_stay (t : Slot) (r : Nat) (v : W64) : (t.setPair r v).stay = t.stay := by simp [Slot.setPair]
@[simp] theorem Slot.setPair_recent (t : Slot) (r : Nat) (v : W64) : (t.setPair r v).recent = t.recent := by simp [Slot.setPair]
@[simp] theorem Slot.setPair_seam (t : Slot) (r : Nat) (v : W64) : (t.setPair r v).seam = t.seam := by simp [Slot.setPair]
@[simp] theorem Slot.setPair_parker (t : Slot) (r : Nat) (v : W64) : (t.setPair r v).parker = t.parker := by simp [Slot.setPair]
@[simp] theorem Slot.setPair_openPark (t : Slot) (r : Nat) (v : W64) : (t.setPair r v).openPark = t.openPark := by simp [Slot.setPair]

@[simp] theorem Slot.setPred_occupied (t : Slot) (p : PredNo) (v : Bool) : (t.setPred p v).occupied = t.occupied := by unfold Slot.setPred; split <;> rfl
@[simp] theorem Slot.setPred_used (t : Slot) (p : PredNo) (v : Bool) : (t.setPred p v).used = t.used := by unfold Slot.setPred; split <;> rfl
@[simp] theorem Slot.setPred_bind (t : Slot) (p : PredNo) (v : Bool) : (t.setPred p v).bind = t.bind := by unfold Slot.setPred; split <;> rfl
@[simp] theorem Slot.setPred_item (t : Slot) (p : PredNo) (v : Bool) : (t.setPred p v).item = t.item := by unfold Slot.setPred; split <;> rfl
@[simp] theorem Slot.setPred_fill (t : Slot) (p : PredNo) (v : Bool) : (t.setPred p v).fill = t.fill := by unfold Slot.setPred; split <;> rfl
@[simp] theorem Slot.setPred_pc (t : Slot) (p : PredNo) (v : Bool) : (t.setPred p v).pc = t.pc := by unfold Slot.setPred; split <;> rfl
@[simp] theorem Slot.setPred_regs (t : Slot) (p : PredNo) (v : Bool) : (t.setPred p v).regs = t.regs := by unfold Slot.setPred; split <;> rfl
@[simp] theorem Slot.setPred_bank (t : Slot) (p : PredNo) (v : Bool) : (t.setPred p v).bank = t.bank := by unfold Slot.setPred; split <;> rfl
@[simp] theorem Slot.setPred_poison (t : Slot) (p : PredNo) (v : Bool) : (t.setPred p v).poison = t.poison := by unfold Slot.setPred; split <;> rfl
@[simp] theorem Slot.setPred_bankPoison (t : Slot) (p : PredNo) (v : Bool) : (t.setPred p v).bankPoison = t.bankPoison := by unfold Slot.setPred; split <;> rfl
@[simp] theorem Slot.setPred_opsO (t : Slot) (p : PredNo) (v : Bool) : (t.setPred p v).opsO = t.opsO := by unfold Slot.setPred; split <;> rfl
@[simp] theorem Slot.setPred_opsH (t : Slot) (p : PredNo) (v : Bool) : (t.setPred p v).opsH = t.opsH := by unfold Slot.setPred; split <;> rfl
@[simp] theorem Slot.setPred_opsC (t : Slot) (p : PredNo) (v : Bool) : (t.setPred p v).opsC = t.opsC := by unfold Slot.setPred; split <;> rfl
@[simp] theorem Slot.setPred_opsM (t : Slot) (p : PredNo) (v : Bool) : (t.setPred p v).opsM = t.opsM := by unfold Slot.setPred; split <;> rfl
@[simp] theorem Slot.setPred_opsS (t : Slot) (p : PredNo) (v : Bool) : (t.setPred p v).opsS = t.opsS := by unfold Slot.setPred; split <;> rfl
@[simp] theorem Slot.setPred_tcmp (t : Slot) (p : PredNo) (v : Bool) : (t.setPred p v).tcmp = t.tcmp := by unfold Slot.setPred; split <;> rfl
@[simp] theorem Slot.setPred_ostat (t : Slot) (p : PredNo) (v : Bool) : (t.setPred p v).ostat = t.ostat := by unfold Slot.setPred; split <;> rfl
@[simp] theorem Slot.setPred_tpc (t : Slot) (p : PredNo) (v : Bool) : (t.setPred p v).tpc = t.tpc := by unfold Slot.setPred; split <;> rfl
@[simp] theorem Slot.setPred_tcause (t : Slot) (p : PredNo) (v : Bool) : (t.setPred p v).tcause = t.tcause := by unfold Slot.setPred; split <;> rfl
@[simp] theorem Slot.setPred_tval (t : Slot) (p : PredNo) (v : Bool) : (t.setPred p v).tval = t.tval := by unfold Slot.setPred; split <;> rfl
@[simp] theorem Slot.setPred_masked (t : Slot) (p : PredNo) (v : Bool) : (t.setPred p v).masked = t.masked := by unfold Slot.setPred; split <;> rfl
@[simp] theorem Slot.setPred_retry (t : Slot) (p : PredNo) (v : Bool) : (t.setPred p v).retry = t.retry := by unfold Slot.setPred; split <;> rfl
@[simp] theorem Slot.setPred_hold (t : Slot) (p : PredNo) (v : Bool) : (t.setPred p v).hold = t.hold := by unfold Slot.setPred; split <;> rfl
@[simp] theorem Slot.setPred_notBefore (t : Slot) (p : PredNo) (v : Bool) : (t.setPred p v).notBefore = t.notBefore := by unfold Slot.setPred; split <;> rfl
@[simp] theorem Slot.setPred_stay (t : Slot) (p : PredNo) (v : Bool) : (t.setPred p v).stay = t.stay := by unfold Slot.setPred; split <;> rfl
@[simp] theorem Slot.setPred_recent (t : Slot) (p : PredNo) (v : Bool) : (t.setPred p v).recent = t.recent := by unfold Slot.setPred; split <;> rfl
@[simp] theorem Slot.setPred_seam (t : Slot) (p : PredNo) (v : Bool) : (t.setPred p v).seam = t.seam := by unfold Slot.setPred; split <;> rfl
@[simp] theorem Slot.setPred_parker (t : Slot) (p : PredNo) (v : Bool) : (t.setPred p v).parker = t.parker := by unfold Slot.setPred; split <;> rfl
@[simp] theorem Slot.setPred_openPark (t : Slot) (p : PredNo) (v : Bool) : (t.setPred p v).openPark = t.openPark := by unfold Slot.setPred; split <;> rfl

@[simp] theorem Slot.poisonReg_occupied (t : Slot) (r : Nat) : (t.poisonReg r).occupied = t.occupied := by unfold Slot.poisonReg; split <;> rfl
@[simp] theorem Slot.poisonReg_used (t : Slot) (r : Nat) : (t.poisonReg r).used = t.used := by unfold Slot.poisonReg; split <;> rfl
@[simp] theorem Slot.poisonReg_bind (t : Slot) (r : Nat) : (t.poisonReg r).bind = t.bind := by unfold Slot.poisonReg; split <;> rfl
@[simp] theorem Slot.poisonReg_item (t : Slot) (r : Nat) : (t.poisonReg r).item = t.item := by unfold Slot.poisonReg; split <;> rfl
@[simp] theorem Slot.poisonReg_fill (t : Slot) (r : Nat) : (t.poisonReg r).fill = t.fill := by unfold Slot.poisonReg; split <;> rfl
@[simp] theorem Slot.poisonReg_pc (t : Slot) (r : Nat) : (t.poisonReg r).pc = t.pc := by unfold Slot.poisonReg; split <;> rfl
@[simp] theorem Slot.poisonReg_regs (t : Slot) (r : Nat) : (t.poisonReg r).regs = t.regs := by unfold Slot.poisonReg; split <;> rfl
@[simp] theorem Slot.poisonReg_bank (t : Slot) (r : Nat) : (t.poisonReg r).bank = t.bank := by unfold Slot.poisonReg; split <;> rfl
@[simp] theorem Slot.poisonReg_preds (t : Slot) (r : Nat) : (t.poisonReg r).preds = t.preds := by unfold Slot.poisonReg; split <;> rfl
@[simp] theorem Slot.poisonReg_opsO (t : Slot) (r : Nat) : (t.poisonReg r).opsO = t.opsO := by unfold Slot.poisonReg; split <;> rfl
@[simp] theorem Slot.poisonReg_opsH (t : Slot) (r : Nat) : (t.poisonReg r).opsH = t.opsH := by unfold Slot.poisonReg; split <;> rfl
@[simp] theorem Slot.poisonReg_opsC (t : Slot) (r : Nat) : (t.poisonReg r).opsC = t.opsC := by unfold Slot.poisonReg; split <;> rfl
@[simp] theorem Slot.poisonReg_opsM (t : Slot) (r : Nat) : (t.poisonReg r).opsM = t.opsM := by unfold Slot.poisonReg; split <;> rfl
@[simp] theorem Slot.poisonReg_opsS (t : Slot) (r : Nat) : (t.poisonReg r).opsS = t.opsS := by unfold Slot.poisonReg; split <;> rfl
@[simp] theorem Slot.poisonReg_tcmp (t : Slot) (r : Nat) : (t.poisonReg r).tcmp = t.tcmp := by unfold Slot.poisonReg; split <;> rfl
@[simp] theorem Slot.poisonReg_ostat (t : Slot) (r : Nat) : (t.poisonReg r).ostat = t.ostat := by unfold Slot.poisonReg; split <;> rfl
@[simp] theorem Slot.poisonReg_tpc (t : Slot) (r : Nat) : (t.poisonReg r).tpc = t.tpc := by unfold Slot.poisonReg; split <;> rfl
@[simp] theorem Slot.poisonReg_tcause (t : Slot) (r : Nat) : (t.poisonReg r).tcause = t.tcause := by unfold Slot.poisonReg; split <;> rfl
@[simp] theorem Slot.poisonReg_tval (t : Slot) (r : Nat) : (t.poisonReg r).tval = t.tval := by unfold Slot.poisonReg; split <;> rfl
@[simp] theorem Slot.poisonReg_masked (t : Slot) (r : Nat) : (t.poisonReg r).masked = t.masked := by unfold Slot.poisonReg; split <;> rfl
@[simp] theorem Slot.poisonReg_retry (t : Slot) (r : Nat) : (t.poisonReg r).retry = t.retry := by unfold Slot.poisonReg; split <;> rfl
@[simp] theorem Slot.poisonReg_hold (t : Slot) (r : Nat) : (t.poisonReg r).hold = t.hold := by unfold Slot.poisonReg; split <;> rfl
@[simp] theorem Slot.poisonReg_notBefore (t : Slot) (r : Nat) : (t.poisonReg r).notBefore = t.notBefore := by unfold Slot.poisonReg; split <;> rfl
@[simp] theorem Slot.poisonReg_stay (t : Slot) (r : Nat) : (t.poisonReg r).stay = t.stay := by unfold Slot.poisonReg; split <;> rfl
@[simp] theorem Slot.poisonReg_recent (t : Slot) (r : Nat) : (t.poisonReg r).recent = t.recent := by unfold Slot.poisonReg; split <;> rfl
@[simp] theorem Slot.poisonReg_seam (t : Slot) (r : Nat) : (t.poisonReg r).seam = t.seam := by unfold Slot.poisonReg; split <;> rfl
@[simp] theorem Slot.poisonReg_parker (t : Slot) (r : Nat) : (t.poisonReg r).parker = t.parker := by unfold Slot.poisonReg; split <;> rfl
@[simp] theorem Slot.poisonReg_openPark (t : Slot) (r : Nat) : (t.poisonReg r).openPark = t.openPark := by unfold Slot.poisonReg; split <;> rfl

@[simp] theorem Slot.setOps_occupied (t : Slot) (k : Cls) (l : List Op) : (t.setOps k l).occupied = t.occupied := by cases k <;> rfl
@[simp] theorem Slot.setOps_used (t : Slot) (k : Cls) (l : List Op) : (t.setOps k l).used = t.used := by cases k <;> rfl
@[simp] theorem Slot.setOps_bind (t : Slot) (k : Cls) (l : List Op) : (t.setOps k l).bind = t.bind := by cases k <;> rfl
@[simp] theorem Slot.setOps_item (t : Slot) (k : Cls) (l : List Op) : (t.setOps k l).item = t.item := by cases k <;> rfl
@[simp] theorem Slot.setOps_fill (t : Slot) (k : Cls) (l : List Op) : (t.setOps k l).fill = t.fill := by cases k <;> rfl
@[simp] theorem Slot.setOps_pc (t : Slot) (k : Cls) (l : List Op) : (t.setOps k l).pc = t.pc := by cases k <;> rfl
@[simp] theorem Slot.setOps_regs (t : Slot) (k : Cls) (l : List Op) : (t.setOps k l).regs = t.regs := by cases k <;> rfl
@[simp] theorem Slot.setOps_bank (t : Slot) (k : Cls) (l : List Op) : (t.setOps k l).bank = t.bank := by cases k <;> rfl
@[simp] theorem Slot.setOps_poison (t : Slot) (k : Cls) (l : List Op) : (t.setOps k l).poison = t.poison := by cases k <;> rfl
@[simp] theorem Slot.setOps_bankPoison (t : Slot) (k : Cls) (l : List Op) : (t.setOps k l).bankPoison = t.bankPoison := by cases k <;> rfl
@[simp] theorem Slot.setOps_preds (t : Slot) (k : Cls) (l : List Op) : (t.setOps k l).preds = t.preds := by cases k <;> rfl
@[simp] theorem Slot.setOps_tcmp (t : Slot) (k : Cls) (l : List Op) : (t.setOps k l).tcmp = t.tcmp := by cases k <;> rfl
@[simp] theorem Slot.setOps_ostat (t : Slot) (k : Cls) (l : List Op) : (t.setOps k l).ostat = t.ostat := by cases k <;> rfl
@[simp] theorem Slot.setOps_tpc (t : Slot) (k : Cls) (l : List Op) : (t.setOps k l).tpc = t.tpc := by cases k <;> rfl
@[simp] theorem Slot.setOps_tcause (t : Slot) (k : Cls) (l : List Op) : (t.setOps k l).tcause = t.tcause := by cases k <;> rfl
@[simp] theorem Slot.setOps_tval (t : Slot) (k : Cls) (l : List Op) : (t.setOps k l).tval = t.tval := by cases k <;> rfl
@[simp] theorem Slot.setOps_masked (t : Slot) (k : Cls) (l : List Op) : (t.setOps k l).masked = t.masked := by cases k <;> rfl
@[simp] theorem Slot.setOps_retry (t : Slot) (k : Cls) (l : List Op) : (t.setOps k l).retry = t.retry := by cases k <;> rfl
@[simp] theorem Slot.setOps_hold (t : Slot) (k : Cls) (l : List Op) : (t.setOps k l).hold = t.hold := by cases k <;> rfl
@[simp] theorem Slot.setOps_notBefore (t : Slot) (k : Cls) (l : List Op) : (t.setOps k l).notBefore = t.notBefore := by cases k <;> rfl
@[simp] theorem Slot.setOps_stay (t : Slot) (k : Cls) (l : List Op) : (t.setOps k l).stay = t.stay := by cases k <;> rfl
@[simp] theorem Slot.setOps_recent (t : Slot) (k : Cls) (l : List Op) : (t.setOps k l).recent = t.recent := by cases k <;> rfl
@[simp] theorem Slot.setOps_seam (t : Slot) (k : Cls) (l : List Op) : (t.setOps k l).seam = t.seam := by cases k <;> rfl
@[simp] theorem Slot.setOps_parker (t : Slot) (k : Cls) (l : List Op) : (t.setOps k l).parker = t.parker := by cases k <;> rfl
@[simp] theorem Slot.setOps_openPark (t : Slot) (k : Cls) (l : List Op) : (t.setOps k l).openPark = t.openPark := by cases k <;> rfl

@[simp] theorem Slot.enter_occupied (t : Slot) (k : Cls) (i : Nat) (v : Bool) : (t.enter k i v).occupied = t.occupied := by simp [Slot.enter]
@[simp] theorem Slot.enter_used (t : Slot) (k : Cls) (i : Nat) (v : Bool) : (t.enter k i v).used = t.used := by simp [Slot.enter]
@[simp] theorem Slot.enter_bind (t : Slot) (k : Cls) (i : Nat) (v : Bool) : (t.enter k i v).bind = t.bind := by simp [Slot.enter]
@[simp] theorem Slot.enter_item (t : Slot) (k : Cls) (i : Nat) (v : Bool) : (t.enter k i v).item = t.item := by simp [Slot.enter]
@[simp] theorem Slot.enter_fill (t : Slot) (k : Cls) (i : Nat) (v : Bool) : (t.enter k i v).fill = t.fill := by simp [Slot.enter]
@[simp] theorem Slot.enter_pc (t : Slot) (k : Cls) (i : Nat) (v : Bool) : (t.enter k i v).pc = t.pc := by simp [Slot.enter]
@[simp] theorem Slot.enter_regs (t : Slot) (k : Cls) (i : Nat) (v : Bool) : (t.enter k i v).regs = t.regs := by simp [Slot.enter]
@[simp] theorem Slot.enter_bank (t : Slot) (k : Cls) (i : Nat) (v : Bool) : (t.enter k i v).bank = t.bank := by simp [Slot.enter]
@[simp] theorem Slot.enter_poison (t : Slot) (k : Cls) (i : Nat) (v : Bool) : (t.enter k i v).poison = t.poison := by simp [Slot.enter]
@[simp] theorem Slot.enter_bankPoison (t : Slot) (k : Cls) (i : Nat) (v : Bool) : (t.enter k i v).bankPoison = t.bankPoison := by simp [Slot.enter]
@[simp] theorem Slot.enter_preds (t : Slot) (k : Cls) (i : Nat) (v : Bool) : (t.enter k i v).preds = t.preds := by simp [Slot.enter]
@[simp] theorem Slot.enter_tcmp (t : Slot) (k : Cls) (i : Nat) (v : Bool) : (t.enter k i v).tcmp = t.tcmp := by simp [Slot.enter]
@[simp] theorem Slot.enter_ostat (t : Slot) (k : Cls) (i : Nat) (v : Bool) : (t.enter k i v).ostat = t.ostat := by simp [Slot.enter]
@[simp] theorem Slot.enter_tpc (t : Slot) (k : Cls) (i : Nat) (v : Bool) : (t.enter k i v).tpc = t.tpc := by simp [Slot.enter]
@[simp] theorem Slot.enter_tcause (t : Slot) (k : Cls) (i : Nat) (v : Bool) : (t.enter k i v).tcause = t.tcause := by simp [Slot.enter]
@[simp] theorem Slot.enter_tval (t : Slot) (k : Cls) (i : Nat) (v : Bool) : (t.enter k i v).tval = t.tval := by simp [Slot.enter]
@[simp] theorem Slot.enter_masked (t : Slot) (k : Cls) (i : Nat) (v : Bool) : (t.enter k i v).masked = t.masked := by simp [Slot.enter]
@[simp] theorem Slot.enter_retry (t : Slot) (k : Cls) (i : Nat) (v : Bool) : (t.enter k i v).retry = t.retry := by simp [Slot.enter]
@[simp] theorem Slot.enter_hold (t : Slot) (k : Cls) (i : Nat) (v : Bool) : (t.enter k i v).hold = t.hold := by simp [Slot.enter]
@[simp] theorem Slot.enter_notBefore (t : Slot) (k : Cls) (i : Nat) (v : Bool) : (t.enter k i v).notBefore = t.notBefore := by simp [Slot.enter]
@[simp] theorem Slot.enter_stay (t : Slot) (k : Cls) (i : Nat) (v : Bool) : (t.enter k i v).stay = t.stay := by simp [Slot.enter]
@[simp] theorem Slot.enter_recent (t : Slot) (k : Cls) (i : Nat) (v : Bool) : (t.enter k i v).recent = t.recent := by simp [Slot.enter]
@[simp] theorem Slot.enter_seam (t : Slot) (k : Cls) (i : Nat) (v : Bool) : (t.enter k i v).seam = t.seam := by simp [Slot.enter]
@[simp] theorem Slot.enter_parker (t : Slot) (k : Cls) (i : Nat) (v : Bool) : (t.enter k i v).parker = t.parker := by simp [Slot.enter]
@[simp] theorem Slot.enter_openPark (t : Slot) (k : Cls) (i : Nat) (v : Bool) : (t.enter k i v).openPark = t.openPark := by simp [Slot.enter]

@[simp] theorem Slot.report_occupied (t : Slot) (o : Op) : (t.report o).occupied = t.occupied := by unfold Slot.report; split <;> simp
@[simp] theorem Slot.report_used (t : Slot) (o : Op) : (t.report o).used = t.used := by unfold Slot.report; split <;> simp
@[simp] theorem Slot.report_bind (t : Slot) (o : Op) : (t.report o).bind = t.bind := by unfold Slot.report; split <;> simp
@[simp] theorem Slot.report_item (t : Slot) (o : Op) : (t.report o).item = t.item := by unfold Slot.report; split <;> simp
@[simp] theorem Slot.report_fill (t : Slot) (o : Op) : (t.report o).fill = t.fill := by unfold Slot.report; split <;> simp
@[simp] theorem Slot.report_pc (t : Slot) (o : Op) : (t.report o).pc = t.pc := by unfold Slot.report; split <;> simp
@[simp] theorem Slot.report_regs (t : Slot) (o : Op) : (t.report o).regs = t.regs := by unfold Slot.report; split <;> simp
@[simp] theorem Slot.report_bank (t : Slot) (o : Op) : (t.report o).bank = t.bank := by unfold Slot.report; split <;> simp
@[simp] theorem Slot.report_poison (t : Slot) (o : Op) : (t.report o).poison = t.poison := by unfold Slot.report; split <;> simp
@[simp] theorem Slot.report_bankPoison (t : Slot) (o : Op) : (t.report o).bankPoison = t.bankPoison := by unfold Slot.report; split <;> simp
@[simp] theorem Slot.report_opsO (t : Slot) (o : Op) : (t.report o).opsO = t.opsO := by unfold Slot.report; split <;> simp
@[simp] theorem Slot.report_opsH (t : Slot) (o : Op) : (t.report o).opsH = t.opsH := by unfold Slot.report; split <;> simp
@[simp] theorem Slot.report_opsC (t : Slot) (o : Op) : (t.report o).opsC = t.opsC := by unfold Slot.report; split <;> simp
@[simp] theorem Slot.report_opsM (t : Slot) (o : Op) : (t.report o).opsM = t.opsM := by unfold Slot.report; split <;> simp
@[simp] theorem Slot.report_opsS (t : Slot) (o : Op) : (t.report o).opsS = t.opsS := by unfold Slot.report; split <;> simp
@[simp] theorem Slot.report_tcmp (t : Slot) (o : Op) : (t.report o).tcmp = t.tcmp := by unfold Slot.report; split <;> simp
@[simp] theorem Slot.report_ostat (t : Slot) (o : Op) : (t.report o).ostat = t.ostat := by unfold Slot.report; split <;> simp
@[simp] theorem Slot.report_tpc (t : Slot) (o : Op) : (t.report o).tpc = t.tpc := by unfold Slot.report; split <;> simp
@[simp] theorem Slot.report_tcause (t : Slot) (o : Op) : (t.report o).tcause = t.tcause := by unfold Slot.report; split <;> simp
@[simp] theorem Slot.report_tval (t : Slot) (o : Op) : (t.report o).tval = t.tval := by unfold Slot.report; split <;> simp
@[simp] theorem Slot.report_masked (t : Slot) (o : Op) : (t.report o).masked = t.masked := by unfold Slot.report; split <;> simp
@[simp] theorem Slot.report_retry (t : Slot) (o : Op) : (t.report o).retry = t.retry := by unfold Slot.report; split <;> simp
@[simp] theorem Slot.report_hold (t : Slot) (o : Op) : (t.report o).hold = t.hold := by unfold Slot.report; split <;> simp
@[simp] theorem Slot.report_notBefore (t : Slot) (o : Op) : (t.report o).notBefore = t.notBefore := by unfold Slot.report; split <;> simp
@[simp] theorem Slot.report_stay (t : Slot) (o : Op) : (t.report o).stay = t.stay := by unfold Slot.report; split <;> simp
@[simp] theorem Slot.report_recent (t : Slot) (o : Op) : (t.report o).recent = t.recent := by unfold Slot.report; split <;> simp
@[simp] theorem Slot.report_seam (t : Slot) (o : Op) : (t.report o).seam = t.seam := by unfold Slot.report; split <;> simp
@[simp] theorem Slot.report_parker (t : Slot) (o : Op) : (t.report o).parker = t.parker := by unfold Slot.report; split <;> simp
@[simp] theorem Slot.report_openPark (t : Slot) (o : Op) : (t.report o).openPark = t.openPark := by unfold Slot.report; split <;> simp

@[simp] theorem Slot.foldl_report_occupied (l : List Op) (t : Slot) : (l.foldl Slot.report t).occupied = t.occupied := by
  induction l generalizing t with
  | nil => rfl
  | cons o l ih => rw [List.foldl_cons, ih, Slot.report_occupied]
@[simp] theorem Slot.foldl_report_used (l : List Op) (t : Slot) : (l.foldl Slot.report t).used = t.used := by
  induction l generalizing t with
  | nil => rfl
  | cons o l ih => rw [List.foldl_cons, ih, Slot.report_used]
@[simp] theorem Slot.foldl_report_bind (l : List Op) (t : Slot) : (l.foldl Slot.report t).bind = t.bind := by
  induction l generalizing t with
  | nil => rfl
  | cons o l ih => rw [List.foldl_cons, ih, Slot.report_bind]
@[simp] theorem Slot.foldl_report_item (l : List Op) (t : Slot) : (l.foldl Slot.report t).item = t.item := by
  induction l generalizing t with
  | nil => rfl
  | cons o l ih => rw [List.foldl_cons, ih, Slot.report_item]
@[simp] theorem Slot.foldl_report_fill (l : List Op) (t : Slot) : (l.foldl Slot.report t).fill = t.fill := by
  induction l generalizing t with
  | nil => rfl
  | cons o l ih => rw [List.foldl_cons, ih, Slot.report_fill]
@[simp] theorem Slot.foldl_report_pc (l : List Op) (t : Slot) : (l.foldl Slot.report t).pc = t.pc := by
  induction l generalizing t with
  | nil => rfl
  | cons o l ih => rw [List.foldl_cons, ih, Slot.report_pc]
@[simp] theorem Slot.foldl_report_regs (l : List Op) (t : Slot) : (l.foldl Slot.report t).regs = t.regs := by
  induction l generalizing t with
  | nil => rfl
  | cons o l ih => rw [List.foldl_cons, ih, Slot.report_regs]
@[simp] theorem Slot.foldl_report_bank (l : List Op) (t : Slot) : (l.foldl Slot.report t).bank = t.bank := by
  induction l generalizing t with
  | nil => rfl
  | cons o l ih => rw [List.foldl_cons, ih, Slot.report_bank]
@[simp] theorem Slot.foldl_report_poison (l : List Op) (t : Slot) : (l.foldl Slot.report t).poison = t.poison := by
  induction l generalizing t with
  | nil => rfl
  | cons o l ih => rw [List.foldl_cons, ih, Slot.report_poison]
@[simp] theorem Slot.foldl_report_bankPoison (l : List Op) (t : Slot) : (l.foldl Slot.report t).bankPoison = t.bankPoison := by
  induction l generalizing t with
  | nil => rfl
  | cons o l ih => rw [List.foldl_cons, ih, Slot.report_bankPoison]
@[simp] theorem Slot.foldl_report_opsO (l : List Op) (t : Slot) : (l.foldl Slot.report t).opsO = t.opsO := by
  induction l generalizing t with
  | nil => rfl
  | cons o l ih => rw [List.foldl_cons, ih, Slot.report_opsO]
@[simp] theorem Slot.foldl_report_opsH (l : List Op) (t : Slot) : (l.foldl Slot.report t).opsH = t.opsH := by
  induction l generalizing t with
  | nil => rfl
  | cons o l ih => rw [List.foldl_cons, ih, Slot.report_opsH]
@[simp] theorem Slot.foldl_report_opsC (l : List Op) (t : Slot) : (l.foldl Slot.report t).opsC = t.opsC := by
  induction l generalizing t with
  | nil => rfl
  | cons o l ih => rw [List.foldl_cons, ih, Slot.report_opsC]
@[simp] theorem Slot.foldl_report_opsM (l : List Op) (t : Slot) : (l.foldl Slot.report t).opsM = t.opsM := by
  induction l generalizing t with
  | nil => rfl
  | cons o l ih => rw [List.foldl_cons, ih, Slot.report_opsM]
@[simp] theorem Slot.foldl_report_opsS (l : List Op) (t : Slot) : (l.foldl Slot.report t).opsS = t.opsS := by
  induction l generalizing t with
  | nil => rfl
  | cons o l ih => rw [List.foldl_cons, ih, Slot.report_opsS]
@[simp] theorem Slot.foldl_report_tcmp (l : List Op) (t : Slot) : (l.foldl Slot.report t).tcmp = t.tcmp := by
  induction l generalizing t with
  | nil => rfl
  | cons o l ih => rw [List.foldl_cons, ih, Slot.report_tcmp]
@[simp] theorem Slot.foldl_report_ostat (l : List Op) (t : Slot) : (l.foldl Slot.report t).ostat = t.ostat := by
  induction l generalizing t with
  | nil => rfl
  | cons o l ih => rw [List.foldl_cons, ih, Slot.report_ostat]
@[simp] theorem Slot.foldl_report_tpc (l : List Op) (t : Slot) : (l.foldl Slot.report t).tpc = t.tpc := by
  induction l generalizing t with
  | nil => rfl
  | cons o l ih => rw [List.foldl_cons, ih, Slot.report_tpc]
@[simp] theorem Slot.foldl_report_tcause (l : List Op) (t : Slot) : (l.foldl Slot.report t).tcause = t.tcause := by
  induction l generalizing t with
  | nil => rfl
  | cons o l ih => rw [List.foldl_cons, ih, Slot.report_tcause]
@[simp] theorem Slot.foldl_report_tval (l : List Op) (t : Slot) : (l.foldl Slot.report t).tval = t.tval := by
  induction l generalizing t with
  | nil => rfl
  | cons o l ih => rw [List.foldl_cons, ih, Slot.report_tval]
@[simp] theorem Slot.foldl_report_masked (l : List Op) (t : Slot) : (l.foldl Slot.report t).masked = t.masked := by
  induction l generalizing t with
  | nil => rfl
  | cons o l ih => rw [List.foldl_cons, ih, Slot.report_masked]
@[simp] theorem Slot.foldl_report_retry (l : List Op) (t : Slot) : (l.foldl Slot.report t).retry = t.retry := by
  induction l generalizing t with
  | nil => rfl
  | cons o l ih => rw [List.foldl_cons, ih, Slot.report_retry]
@[simp] theorem Slot.foldl_report_hold (l : List Op) (t : Slot) : (l.foldl Slot.report t).hold = t.hold := by
  induction l generalizing t with
  | nil => rfl
  | cons o l ih => rw [List.foldl_cons, ih, Slot.report_hold]
@[simp] theorem Slot.foldl_report_notBefore (l : List Op) (t : Slot) : (l.foldl Slot.report t).notBefore = t.notBefore := by
  induction l generalizing t with
  | nil => rfl
  | cons o l ih => rw [List.foldl_cons, ih, Slot.report_notBefore]
@[simp] theorem Slot.foldl_report_stay (l : List Op) (t : Slot) : (l.foldl Slot.report t).stay = t.stay := by
  induction l generalizing t with
  | nil => rfl
  | cons o l ih => rw [List.foldl_cons, ih, Slot.report_stay]
@[simp] theorem Slot.foldl_report_recent (l : List Op) (t : Slot) : (l.foldl Slot.report t).recent = t.recent := by
  induction l generalizing t with
  | nil => rfl
  | cons o l ih => rw [List.foldl_cons, ih, Slot.report_recent]
@[simp] theorem Slot.foldl_report_seam (l : List Op) (t : Slot) : (l.foldl Slot.report t).seam = t.seam := by
  induction l generalizing t with
  | nil => rfl
  | cons o l ih => rw [List.foldl_cons, ih, Slot.report_seam]
@[simp] theorem Slot.foldl_report_parker (l : List Op) (t : Slot) : (l.foldl Slot.report t).parker = t.parker := by
  induction l generalizing t with
  | nil => rfl
  | cons o l ih => rw [List.foldl_cons, ih, Slot.report_parker]
@[simp] theorem Slot.foldl_report_openPark (l : List Op) (t : Slot) : (l.foldl Slot.report t).openPark = t.openPark := by
  induction l generalizing t with
  | nil => rfl
  | cons o l ih => rw [List.foldl_cons, ih, Slot.report_openPark]

@[simp] theorem Slot.complete_occupied (t : Slot) (k : Cls) (i : Nat) (r : Option (PredNo × Bool)) : (t.complete k i r).occupied = t.occupied := by simp [Slot.complete]
@[simp] theorem Slot.complete_used (t : Slot) (k : Cls) (i : Nat) (r : Option (PredNo × Bool)) : (t.complete k i r).used = t.used := by simp [Slot.complete]
@[simp] theorem Slot.complete_bind (t : Slot) (k : Cls) (i : Nat) (r : Option (PredNo × Bool)) : (t.complete k i r).bind = t.bind := by simp [Slot.complete]
@[simp] theorem Slot.complete_item (t : Slot) (k : Cls) (i : Nat) (r : Option (PredNo × Bool)) : (t.complete k i r).item = t.item := by simp [Slot.complete]
@[simp] theorem Slot.complete_fill (t : Slot) (k : Cls) (i : Nat) (r : Option (PredNo × Bool)) : (t.complete k i r).fill = t.fill := by simp [Slot.complete]
@[simp] theorem Slot.complete_pc (t : Slot) (k : Cls) (i : Nat) (r : Option (PredNo × Bool)) : (t.complete k i r).pc = t.pc := by simp [Slot.complete]
@[simp] theorem Slot.complete_regs (t : Slot) (k : Cls) (i : Nat) (r : Option (PredNo × Bool)) : (t.complete k i r).regs = t.regs := by simp [Slot.complete]
@[simp] theorem Slot.complete_bank (t : Slot) (k : Cls) (i : Nat) (r : Option (PredNo × Bool)) : (t.complete k i r).bank = t.bank := by simp [Slot.complete]
@[simp] theorem Slot.complete_poison (t : Slot) (k : Cls) (i : Nat) (r : Option (PredNo × Bool)) : (t.complete k i r).poison = t.poison := by simp [Slot.complete]
@[simp] theorem Slot.complete_bankPoison (t : Slot) (k : Cls) (i : Nat) (r : Option (PredNo × Bool)) : (t.complete k i r).bankPoison = t.bankPoison := by simp [Slot.complete]
@[simp] theorem Slot.complete_tcmp (t : Slot) (k : Cls) (i : Nat) (r : Option (PredNo × Bool)) : (t.complete k i r).tcmp = t.tcmp := by simp [Slot.complete]
@[simp] theorem Slot.complete_ostat (t : Slot) (k : Cls) (i : Nat) (r : Option (PredNo × Bool)) : (t.complete k i r).ostat = t.ostat := by simp [Slot.complete]
@[simp] theorem Slot.complete_tpc (t : Slot) (k : Cls) (i : Nat) (r : Option (PredNo × Bool)) : (t.complete k i r).tpc = t.tpc := by simp [Slot.complete]
@[simp] theorem Slot.complete_tcause (t : Slot) (k : Cls) (i : Nat) (r : Option (PredNo × Bool)) : (t.complete k i r).tcause = t.tcause := by simp [Slot.complete]
@[simp] theorem Slot.complete_tval (t : Slot) (k : Cls) (i : Nat) (r : Option (PredNo × Bool)) : (t.complete k i r).tval = t.tval := by simp [Slot.complete]
@[simp] theorem Slot.complete_masked (t : Slot) (k : Cls) (i : Nat) (r : Option (PredNo × Bool)) : (t.complete k i r).masked = t.masked := by simp [Slot.complete]
@[simp] theorem Slot.complete_retry (t : Slot) (k : Cls) (i : Nat) (r : Option (PredNo × Bool)) : (t.complete k i r).retry = t.retry := by simp [Slot.complete]
@[simp] theorem Slot.complete_hold (t : Slot) (k : Cls) (i : Nat) (r : Option (PredNo × Bool)) : (t.complete k i r).hold = t.hold := by simp [Slot.complete]
@[simp] theorem Slot.complete_notBefore (t : Slot) (k : Cls) (i : Nat) (r : Option (PredNo × Bool)) : (t.complete k i r).notBefore = t.notBefore := by simp [Slot.complete]
@[simp] theorem Slot.complete_stay (t : Slot) (k : Cls) (i : Nat) (r : Option (PredNo × Bool)) : (t.complete k i r).stay = t.stay := by simp [Slot.complete]
@[simp] theorem Slot.complete_recent (t : Slot) (k : Cls) (i : Nat) (r : Option (PredNo × Bool)) : (t.complete k i r).recent = t.recent := by simp [Slot.complete]
@[simp] theorem Slot.complete_seam (t : Slot) (k : Cls) (i : Nat) (r : Option (PredNo × Bool)) : (t.complete k i r).seam = t.seam := by simp [Slot.complete]
@[simp] theorem Slot.complete_parker (t : Slot) (k : Cls) (i : Nat) (r : Option (PredNo × Bool)) : (t.complete k i r).parker = t.parker := by simp [Slot.complete]
@[simp] theorem Slot.complete_openPark (t : Slot) (k : Cls) (i : Nat) (r : Option (PredNo × Bool)) : (t.complete k i r).openPark = t.openPark := by simp [Slot.complete]

@[simp] theorem Slot.goto_pc (t : Slot) (pc : W32) : (t.goto pc).pc = pc := rfl
@[simp] theorem Slot.goto_reg (t : Slot) (pc : W32) (r : Nat) : (t.goto pc).reg r = t.reg r := rfl
@[simp] theorem Slot.goto_pair (t : Slot) (pc : W32) (r : Nat) : (t.goto pc).pair r = t.pair r := rfl
@[simp] theorem Slot.goto_pred (t : Slot) (pc : W32) (p : PredNo) : (t.goto pc).pred p = t.pred p := rfl
@[simp] theorem Slot.goto_guard (t : Slot) (pc : W32) (g : Guard) : (t.goto pc).guard g = t.guard g := rfl
@[simp] theorem Slot.goto_poisoned (t : Slot) (pc : W32) (r : Nat) : (t.goto pc).poisoned r = t.poisoned r := rfl
@[simp] theorem Slot.setReg_banked (t : Slot) (r : Nat) (v : W32) (q : Nat) : (t.setReg r v).banked q = t.banked q := by
  simp [Slot.banked]
/-- A register reads what was written to it. -/
@[simp] theorem Slot.reg_setReg (t : Slot) (r : Nat) (v : W32) : (t.setReg r v).reg r = v := by
  have h := t.setReg_banked r v r
  unfold Slot.reg
  rw [h]
  unfold Slot.setReg
  split <;> simp
/-- Writing a register leaves every other alone. -/
theorem Slot.reg_setReg_ne (t : Slot) {r q : Nat} (v : W32) (h : q ≠ r) : (t.setReg r v).reg q = t.reg q := by
  have hb := t.setReg_banked r v q
  unfold Slot.reg
  rw [hb]
  unfold Slot.setReg
  split
  · split
    · exact AMap.get_put_ne _ _ _ h
    · rfl
  · split
    · rfl
    · exact AMap.get_put_ne _ _ _ h
/-- A pair reads what was written to it. -/
@[simp] theorem Slot.pair_setPair (t : Slot) (r : Nat) (v : W64) : (t.setPair r v).pair r = v := by
  unfold Slot.pair Slot.setPair
  rw [Slot.reg_setReg, Slot.reg_setReg_ne _ _ (Nat.ne_of_lt (Nat.lt_succ_self r)), Slot.reg_setReg]
  refine BitVec.eq_of_getLsbD_eq fun i hi => ?_
  rw [BitVec.getLsbD_append, BitVec.getLsbD_setWidth, BitVec.getLsbD_setWidth, BitVec.getLsbD_ushiftRight]
  by_cases h : i < 32
  · simp [h]
  · simp [h, show 32 + (i - 32) = i by omega, show i - 32 < 32 by omega]
/-- A predicate other than `p7` reads what was written to it (R26). -/
theorem Slot.pred_setPred (t : Slot) (p : PredNo) (v : Bool) (h : p ≠ 7) : (t.setPred p v).pred p = v := by
  have e : ∀ (x : BitVec 8) (p : PredNo) (v : Bool), p ≠ 7 →
      ((p == 7) || ((x &&& ~~~((1#8) <<< p.toNat)) ||| ((BitVec.ofBool v).setWidth 8 <<< p.toNat)).getLsbD p.toNat) = v := by
    decide +kernel
  simp only [Slot.setPred, if_neg h, Slot.pred]
  exact e t.preds p v h
/-- `p7` reads true, whatever is written to it (R26). -/
@[simp] theorem Slot.pred_seven (t : Slot) : t.pred 7 = true := by simp [Slot.pred]
@[simp] theorem Slot.setPred_seven (t : Slot) (v : Bool) : t.setPred 7 v = t := by simp [Slot.setPred]
@[simp] theorem Slot.guard_always (t : Slot) : t.guard .always = true := by
  show (t.pred 7 != false) = true
  rw [Slot.pred_seven]; rfl

/-! A slot that becomes vacant. -/

@[simp] theorem State.vacate_occupied (t : Slot) : (State.vacate t).occupied = false := rfl
@[simp] theorem State.vacate_used (t : Slot) : (State.vacate t).used = t.used := rfl
@[simp] theorem State.vacate_bind (t : Slot) : (State.vacate t).bind = t.bind := rfl
@[simp] theorem State.vacate_item (t : Slot) : (State.vacate t).item = t.item := rfl
@[simp] theorem State.vacate_fill (t : Slot) : (State.vacate t).fill = t.fill := rfl
@[simp] theorem State.vacate_pc (t : Slot) : (State.vacate t).pc = t.pc := rfl
@[simp] theorem State.vacate_regs (t : Slot) : (State.vacate t).regs = t.regs := rfl
@[simp] theorem State.vacate_bank (t : Slot) : (State.vacate t).bank = t.bank := rfl
@[simp] theorem State.vacate_poison (t : Slot) : (State.vacate t).poison = t.poison := rfl
@[simp] theorem State.vacate_bankPoison (t : Slot) : (State.vacate t).bankPoison = t.bankPoison := rfl
@[simp] theorem State.vacate_preds (t : Slot) : (State.vacate t).preds = t.preds := rfl
@[simp] theorem State.vacate_tcmp (t : Slot) : (State.vacate t).tcmp = t.tcmp := rfl
@[simp] theorem State.vacate_ostat (t : Slot) : (State.vacate t).ostat = t.ostat := rfl
@[simp] theorem State.vacate_tpc (t : Slot) : (State.vacate t).tpc = t.tpc := rfl
@[simp] theorem State.vacate_tcause (t : Slot) : (State.vacate t).tcause = t.tcause := rfl
@[simp] theorem State.vacate_tval (t : Slot) : (State.vacate t).tval = t.tval := rfl

end Sys2Proof.Machine
end

