-- ==== Sys2Proof/Laws/Ops.lean ====
section
/-! SUPPORT. What the shared operations of thread instructions do, each said once: updates of cores and slots, a lane's
step, the step of a whole bundle, and the entry into a handler. -/

namespace Sys2Proof.Machine
namespace State

@[simp] theorem bundle_setSlot (s : State) (c n : Nat) (t : Slot) : (s.setSlot c n t).bundle = s.bundle := rfl

theorem SlotsOnly.refl (s : State) (c : Nat) (l : List Nat) : s.SlotsOnly s c l :=
  ⟨rfl, fun _ _ => rfl, rfl, fun _ _ => rfl⟩
theorem SlotsOnly.trans {s t u : State} {c : Nat} {l : List Nat} (h : s.SlotsOnly t c l) (k : t.SlotsOnly u c l) :
    s.SlotsOnly u c l := by
  obtain ⟨h1, h2, h3, h4⟩ := h
  obtain ⟨k1, k2, k3, k4⟩ := k
  refine ⟨?_, fun d hd => (k2 d hd).trans (h2 d hd), ?_, fun n hn => (k4 n hn).trans (h4 n hn)⟩
  · rw [k1, h1]
  · rw [k3, h3]
theorem SlotsOnly.setSlot (s : State) (c n : Nat) (t : Slot) {l : List Nat} (h : n ∈ l) :
    s.SlotsOnly (s.setSlot c n t) c l := by
  refine ⟨rfl, fun d hd => core_setSlot_ne s n t hd, by rw [core_setSlot], fun m hm => slot_setSlot_ne s c t ?_⟩
  rintro rfl; exact hm h
theorem SlotsOnly.mono {s t : State} {c : Nat} {l m : List Nat} (h : s.SlotsOnly t c l) (hl : ∀ n ∈ l, n ∈ m) :
    s.SlotsOnly t c m :=
  ⟨h.1, h.2.1, h.2.2.1, fun n hn => h.2.2.2 n fun k => hn (hl n k)⟩

/-! The step of a bundle. -/

/-- A step over a list of slots, each of which changes its own slot by F. -/
theorem foldl_slots (c : Nat) (f : State → Nat → State) (F : Nat → Slot → Slot) (l : List Nat) (s : State)
    (hl : l.Nodup) (hf : ∀ u : State, s.SlotsOnly u c l → ∀ n ∈ l, u.slot c n = s.slot c n →
      f u n = u.setSlot c n (F n (s.slot c n))) :
    s.SlotsOnly (l.foldl f s) c l ∧ ∀ n ∈ l, (l.foldl f s).slot c n = F n (s.slot c n) := by
  have key : ∀ (r : List Nat) (u : State), r.Nodup → (∀ n ∈ r, n ∈ l) → s.SlotsOnly u c l →
      (∀ n ∈ r, u.slot c n = s.slot c n) →
      s.SlotsOnly (r.foldl f u) c l ∧ (∀ n ∈ r, (r.foldl f u).slot c n = F n (s.slot c n)) ∧
        ∀ n, n ∉ r → (r.foldl f u).slot c n = u.slot c n := by
    intro r
    induction r with
    | nil => intro u _ _ hu _; exact ⟨hu, by simp, fun _ _ => rfl⟩
    | cons m r ih =>
      intro u hr hm hu hs
      rw [List.nodup_cons] at hr
      have e := hf u hu m (hm m (by simp)) (hs m (by simp))
      have hu' : s.SlotsOnly (f u m) c l := by
        rw [e]; exact hu.trans (.setSlot u c m _ (hm m (by simp)))
      have := ih (f u m) hr.2 (fun n hn => hm n (by simp [hn])) hu' (fun n hn => by
        rw [e, slot_setSlot_ne _ _ _ (by rintro rfl; exact hr.1 hn)]; exact hs n (by simp [hn]))
      refine ⟨this.1, fun n hn => ?_, fun n hn => ?_⟩
      · rcases List.mem_cons.1 hn with rfl | hn
        · rw [List.foldl_cons, this.2.2 n hr.1, e, slot_setSlot]
        · exact this.2.1 n hn
      · rw [List.mem_cons, not_or] at hn
        rw [List.foldl_cons, this.2.2 n hn.2, e, slot_setSlot_ne _ _ _ hn.1]
  have := key l s hl (fun _ h => h) (.refl s c l) (fun _ _ => rfl)
  exact ⟨this.1, this.2.1⟩

end State

open State

/-- The search for a poisoned source finds none when none is. -/
theorem Slot.firstPoison_none {t : Slot} {rs : List Nat} (h : ∀ r ∈ rs, t.poisoned r = false) : t.firstPoison rs = none := by
  simpa [Slot.firstPoison] using h
/-- It finds one when one is. -/
theorem Slot.firstPoison_some {t : Slot} {rs : List Nat} {r : Nat} (h : t.firstPoison rs = some r) :
    r ∈ rs ∧ t.poisoned r = true := by
  unfold Slot.firstPoison at h
  exact ⟨List.mem_of_find?_eq_some h, by simpa using List.find?_some h⟩

/-- Every meaning built with `lanes` is lane-wise. -/
theorem lanes_spec (g : Guard) (srcs : List Nat) (f : Slot → Slot) (s : State) (hn : s.bundle.slots.Nodup)
    (hc : s.CleanFor g srcs) :
    ∃ t, lanes g srcs f s = .next t ∧ s.SlotsOnly t s.bundle.core s.bundle.slots ∧
      ∀ n ∈ s.bundle.slots,
        t.slot s.bundle.core n =
          ((if (s.slot s.bundle.core n).guard g then f (s.slot s.bundle.core n) else s.slot s.bundle.core n).goto
            (pcAdd (s.slot s.bundle.core n).pc s.bundle.len)) := by
  refine ⟨_, rfl, foldl_slots s.bundle.core (fun u n => u.laneStep g srcs f s.bundle.core n)
    (fun _ v => (if v.guard g then f v else v).goto (pcAdd v.pc s.bundle.len)) s.bundle.slots s hn ?_⟩
  intro u hu n hm hs
  have hb : u.bundle = s.bundle := by rw [hu.1]; rfl
  simp only [laneStep, hs, hb, advance, onSlot]
  cases hg : (s.slot s.bundle.core n).guard g with
  | false => simp
  | true => simp [Slot.firstPoison_none (hc n hm hg)]
/-- The state after a lane-wise instruction and its slots, for one lane alone. -/
theorem laneStep_clean (s : State) (g : Guard) (srcs : List Nat) (f : Slot → Slot) (c n : Nat)
    (h : (s.slot c n).firstPoison srcs = none) (hg : (s.slot c n).guard g = true) :
    s.laneStep g srcs f c n = s.setSlot c n ((f (s.slot c n)).goto (pcAdd (s.slot c n).pc s.bundle.len)) := by
  simp [laneStep, hg, h]

/-- An exception from a slot outside its handler enters the handler or parks; inside it the context is to be reset. -/
theorem takeTrap_cases (s : State) (c n : Nat) (t : Trap) :
    ((s.slot c n).masked = true ∧ s.takeTrap c n t = s.squallOf c n 2 (s.slot c n).pc t.record t.val) ∨
    ((s.slot c n).masked = false ∧ t.cause.parks = true ∧ s.takeTrap c n t = s.park c n t) ∨
    ((s.slot c n).masked = false ∧ t.cause.parks = false ∧
      s.takeTrap c n t = s.enterHandler c n (s.slot c n).pc t.record t.val) := by
  cases hm : (s.slot c n).masked <;> cases hp : t.cause.parks <;> simp [takeTrap, hm, hp]
/-- Entering the handler through a valid import entry 0, ready from a cycle on. -/
theorem enterHandlerAt_ok (s : State) (c n ready : Nat) (tpc tcause : W32) (tval : W64) (pc : W32)
    (h : s.importEntry c (s.bindOf c n).ctx 0 = .ok pc) :
    s.enterHandlerAt c n ready tpc tcause tval = s.onSlot c n fun t => { (t.goto pc) with
      masked := true, tpc := tpc, tcause := tcause, tval := tval, hold := .free, retry := false, seam := none,
      stay := none, notBefore := ready } := by
  simp [enterHandlerAt, h]
/-- From an instruction, the slot is ready in the next cycle. -/
theorem enterHandler_ok (s : State) (c n : Nat) (tpc tcause : W32) (tval : W64) (pc : W32)
    (h : s.importEntry c (s.bindOf c n).ctx 0 = .ok pc) :
    s.enterHandler c n tpc tcause tval = s.onSlot c n fun t => { (t.goto pc) with
      masked := true, tpc := tpc, tcause := tcause, tval := tval, hold := .free, retry := false, seam := none,
      stay := none, notBefore := s.clock + 1 } := enterHandlerAt_ok s c n _ tpc tcause tval pc h

/-! Errands of agents (R248). -/

namespace State

@[simp] theorem launchErrand_mem (s : State) (die : Nat) (e : Errand) : (s.launchErrand die e).mem = s.mem := by
  unfold launchErrand queueMsg onModule; split <;> rfl
@[simp] theorem launchErrand_cores (s : State) (die : Nat) (e : Errand) : (s.launchErrand die e).cores = s.cores := by
  unfold launchErrand queueMsg onModule; split <;> rfl
@[simp] theorem launchErrand_reqs (s : State) (die : Nat) (e : Errand) : (s.launchErrand die e).reqs = s.reqs := by
  unfold launchErrand queueMsg onModule; split <;> rfl
/-- An errand leaves numbered, or is held at its source. -/
theorem sendErrand_cases (s : State) (die agent : Nat) (code : Code) (pa data reply : Nat) :
    ∃ e : Errand, e.agent = BitVec.ofNat 7 agent ∧ e.kind = code.1 ∧ e.pa = pa ∧ e.data = data ∧ e.reply = some reply ∧
      (s.sendErrand die agent code pa data reply = s.launchErrand die e ∧
          s.unacknowledged e.agent die < Config.requestEntries ∨
        s.sendErrand die agent code pa data reply =
          { s with errands := s.errands ++ [{ die := die, errand := e, stage := .held, via := 0 }] }) := by
  refine ⟨{ agent := BitVec.ofNat 7 agent, kind := code.1, seq := 0, ty := code.2.1, op := code.2.2, data := data,
            pa := pa, reply := some reply }, rfl, rfl, rfl, rfl, rfl, ?_⟩
  simp only [sendErrand]
  split
  · exact .inr rfl
  · rename_i h
    rw [Bool.or_eq_true, decide_eq_true_eq, not_or] at h
    exact .inl ⟨rfl, Nat.lt_of_not_le h.2⟩
/-- Errands that leave change no memory. -/
@[simp] theorem releaseErrands_mem (s : State) : s.releaseErrands.mem = s.mem := by
  unfold releaseErrands
  generalize s.errands.filter (fun a => a.stage == .held) = l
  induction l generalizing s with
  | nil => rfl
  | cons a l ih =>
    rw [List.foldl_cons, ih]
    split
    · rfl
    · exact launchErrand_mem _ _ _

/-- A running bind that is spent drains, and nothing else changes (R269). -/
theorem drainSpent_cases (s : State) (c e : Nat) :
    s.drainSpent c e = s ∨ (((s.core c).bind e).state = .running ∧ ((s.core c).bind e).exh = true ∧ allVacant (s.core c) e = true ∧
      s.drainSpent c e = s.onCore c fun k => k.onBind e fun x => { x with state := .draining }) := by
  by_cases h : ((s.core c).bind e).state = .running ∧ ((s.core c).bind e).exh = true ∧ allVacant (s.core c) e = true
  · exact .inr ⟨h.1, h.2.1, h.2.2, if_pos h⟩
  · exact .inl (if_neg h)
/-- A message's request leaves exactly while the window of its source has room (R257). -/
theorem maySend_message (s : State) (w0 w1 : W64) :
    s.maySend (s.messageReq w0 w1).1 = decide (s.messagesOut < 1024) := by
  have h : ∀ a : Req, before a (s.messageReq w0 w1).1 = false := fun a => by
    simp [before, messageReq, newReqOf, atSlice, homeOrder, engineOf, isFill, neverHeld, sumRead]
  have h2 : s.mustCross (s.messageReq w0 w1).1 = false := rfl
  have h3 : s.unacknowledgedOut (s.messageReq w0 w1).1 = s.messagesOut := rfl
  have h4 : (s.messageReq w0 w1).1.dest = .host := rfl
  have h5 : ¬ (s.messageReq w0 w1).1.agent.toNat < 96 := by simp [messageReq, newReqOf]
  have h6 : (Dest.host == Dest.dev) = false := rfl
  have h7 : (Dest.host != Dest.dev) = true := rfl
  simp [maySend, h, h2, h3, h4, h5, h6, h7, Config.requestEntries, ← decide_not]
/-- What waits here is performed before a link is looked at (R326). -/
theorem outerStep_waits {s : State} {chan seq : Nat} {f : Result} {r : Req} {ch : Nat} {q : BitVec 16} {op : OuterOp}
    (h : s.outerReq chan seq = some r) (hp : s.performable r = true) (hk : r.kind = .outer ch q op) :
    s.outerStep chan seq f = .next (s.outerPerform r op) := by
  simp [outerStep, h, hp, hk, Option.filter]
theorem outerStep_new {s : State} {chan seq : Nat} {f : Result} (h : ∀ r, s.outerReq chan seq = some r → s.performable r = false) :
    s.outerStep chan seq f = f := by
  cases hr : s.outerReq chan seq with
  | none => simp [outerStep, hr]
  | some r => simp [outerStep, hr, h r hr, Option.filter]

end State

end Sys2Proof.Machine
end

