-- ==== Sys2Proof/Laws/PerInstr.lean ====
section
/-! SUPPORT. Statements made of every instruction, one lemma per constructor. -/

set_option Elab.async false
set_option linter.unusedSimpArgs false

namespace Sys2Proof.Laws.Fields

/-- The fields of a well-formed instruction's encoding decode to it, and those of a micro-op to the micro-op. -/
def Statement (i : Instr) : Prop :=
  i.wf = true → (∀ e, i.enc = some e → e.decode = .ok i) ∧ (∀ u, i.uFields = some u → decodeUFields u = some i)

theorem of_none {i : Instr} (he : i.enc = none) (hu : i.uFields = none) : Statement i := by
  intro _; simp [he, hu]
theorem of_enc {i : Instr} {e : Enc} (he : i.enc = some e) (hu : i.uFields = none) (h : i.wf = true → e.decode = .ok i) :
    Statement i := by
  intro w
  simpa [he, hu] using h w
theorem of_uop {i : Instr} {u : UFields} (he : i.enc = none) (hu : i.uFields = some u)
    (h : i.wf = true → decodeUFields u = some i) : Statement i := by
  intro w
  simpa [he, hu] using h w

theorem nopC : Statement .nopC := by
  refine of_enc rfl rfl fun h => ?_
  refine Enc.c0_ok rfl ((decodeC0_01 _ rfl).trans ?_)
  simp [chk, CFields.zA, CFields.zB, CFields.zD, extract_high, (Bool.and_eq_true_iff.1 h).2]
theorem movB32C (d : Reg) (b : Reg) : Statement (.movB32C d b) := by
  refine of_enc rfl rfl fun h => ?_
  refine Enc.c0_ok rfl ((decodeC0_02 _ rfl).trans ?_)
  simp [chk, CFields.zA, CFields.zB, CFields.zD, extract_high, (Bool.and_eq_true_iff.1 h).2]
theorem movB32Clit (d : Reg) (lit : W32) : Statement (.movB32Clit d lit) := by
  refine of_enc rfl rfl fun h => ?_
  refine Enc.cl_ok rfl ((decodeCLit_02 _ _ rfl).trans ?_)
  simp [chk, CFields.zA, CFields.zB, CFields.zD, extract_high, (Bool.and_eq_true_iff.1 h).2]
theorem movB32Imm8C (d : Reg) (i : BitVec 8) : Statement (.movB32Imm8C d i) := by
  refine of_enc rfl rfl fun h => ?_
  refine Enc.c0_ok rfl ((decodeC0_03 _ rfl).trans ?_)
  simp [chk, CFields.zA, CFields.zB, CFields.zD, extract_high, (Bool.and_eq_true_iff.1 h).2]
theorem addI32C (d : Reg) (a : Reg) (b : Reg) : Statement (.addI32C d a b) := by
  refine of_enc rfl rfl fun h => ?_
  refine Enc.c0_ok rfl ((decodeC0_04 _ rfl).trans ?_)
  simp [chk, CFields.zA, CFields.zB, CFields.zD, extract_high, (Bool.and_eq_true_iff.1 h).2]
theorem addI32Clit (d : Reg) (a : Reg) (lit : W32) : Statement (.addI32Clit d a lit) := by
  refine of_enc rfl rfl fun h => ?_
  refine Enc.cl_ok rfl ((decodeCLit_04 _ _ rfl).trans ?_)
  simp [chk, CFields.zA, CFields.zB, CFields.zD, extract_high, (Bool.and_eq_true_iff.1 h).2]
theorem addI32Imm8C (d : Reg) (a : Reg) (i : BitVec 8) : Statement (.addI32Imm8C d a i) := by
  refine of_enc rfl rfl fun h => ?_
  refine Enc.c0_ok rfl ((decodeC0_05 _ rfl).trans ?_)
  simp [chk, CFields.zA, CFields.zB, CFields.zD, extract_high, (Bool.and_eq_true_iff.1 h).2]
theorem subI32C (d : Reg) (a : Reg) (b : Reg) : Statement (.subI32C d a b) := by
  refine of_enc rfl rfl fun h => ?_
  refine Enc.c0_ok rfl ((decodeC0_06 _ rfl).trans ?_)
  simp [chk, CFields.zA, CFields.zB, CFields.zD, extract_high, (Bool.and_eq_true_iff.1 h).2]
theorem subI32Clit (d : Reg) (a : Reg) (lit : W32) : Statement (.subI32Clit d a lit) := by
  refine of_enc rfl rfl fun h => ?_
  refine Enc.cl_ok rfl ((decodeCLit_06 _ _ rfl).trans ?_)
  simp [chk, CFields.zA, CFields.zB, CFields.zD, extract_high, (Bool.and_eq_true_iff.1 h).2]
theorem mulI32C (d : Reg) (a : Reg) (b : Reg) : Statement (.mulI32C d a b) := by
  refine of_enc rfl rfl fun h => ?_
  refine Enc.c0_ok rfl ((decodeC0_07 _ rfl).trans ?_)
  simp [chk, CFields.zA, CFields.zB, CFields.zD, extract_high, (Bool.and_eq_true_iff.1 h).2]
theorem mulI32Clit (d : Reg) (a : Reg) (lit : W32) : Statement (.mulI32Clit d a lit) := by
  refine of_enc rfl rfl fun h => ?_
  refine Enc.cl_ok rfl ((decodeCLit_07 _ _ rfl).trans ?_)
  simp [chk, CFields.zA, CFields.zB, CFields.zD, extract_high, (Bool.and_eq_true_iff.1 h).2]
theorem andB32C (d : Reg) (a : Reg) (b : Reg) : Statement (.andB32C d a b) := by
  refine of_enc rfl rfl fun h => ?_
  refine Enc.c0_ok rfl ((decodeC0_08 _ rfl).trans ?_)
  simp [chk, CFields.zA, CFields.zB, CFields.zD, extract_high, (Bool.and_eq_true_iff.1 h).2]
theorem andB32Clit (d : Reg) (a : Reg) (lit : W32) : Statement (.andB32Clit d a lit) := by
  refine of_enc rfl rfl fun h => ?_
  refine Enc.cl_ok rfl ((decodeCLit_08 _ _ rfl).trans ?_)
  simp [chk, CFields.zA, CFields.zB, CFields.zD, extract_high, (Bool.and_eq_true_iff.1 h).2]
theorem andB32Imm8C (d : Reg) (a : Reg) (i : BitVec 8) : Statement (.andB32Imm8C d a i) := by
  refine of_enc rfl rfl fun h => ?_
  refine Enc.c0_ok rfl ((decodeC0_09 _ rfl).trans ?_)
  simp [chk, CFields.zA, CFields.zB, CFields.zD, extract_high, (Bool.and_eq_true_iff.1 h).2]
theorem orB32C (d : Reg) (a : Reg) (b : Reg) : Statement (.orB32C d a b) := by
  refine of_enc rfl rfl fun h => ?_
  refine Enc.c0_ok rfl ((decodeC0_0A _ rfl).trans ?_)
  simp [chk, CFields.zA, CFields.zB, CFields.zD, extract_high, (Bool.and_eq_true_iff.1 h).2]
theorem orB32Clit (d : Reg) (a : Reg) (lit : W32) : Statement (.orB32Clit d a lit) := by
  refine of_enc rfl rfl fun h => ?_
  refine Enc.cl_ok rfl ((decodeCLit_0A _ _ rfl).trans ?_)
  simp [chk, CFields.zA, CFields.zB, CFields.zD, extract_high, (Bool.and_eq_true_iff.1 h).2]
theorem xorB32C (d : Reg) (a : Reg) (b : Reg) : Statement (.xorB32C d a b) := by
  refine of_enc rfl rfl fun h => ?_
  refine Enc.c0_ok rfl ((decodeC0_0B _ rfl).trans ?_)
  simp [chk, CFields.zA, CFields.zB, CFields.zD, extract_high, (Bool.and_eq_true_iff.1 h).2]
theorem xorB32Clit (d : Reg) (a : Reg) (lit : W32) : Statement (.xorB32Clit d a lit) := by
  refine of_enc rfl rfl fun h => ?_
  refine Enc.cl_ok rfl ((decodeCLit_0B _ _ rfl).trans ?_)
  simp [chk, CFields.zA, CFields.zB, CFields.zD, extract_high, (Bool.and_eq_true_iff.1 h).2]
theorem shlB32Imm8C (d : Reg) (a : Reg) (i : BitVec 8) : Statement (.shlB32Imm8C d a i) := by
  refine of_enc rfl rfl fun h => ?_
  refine Enc.c0_ok rfl ((decodeC0_0C _ rfl).trans ?_)
  simp [chk, CFields.zA, CFields.zB, CFields.zD, extract_high, (Bool.and_eq_true_iff.1 h).2]
theorem shrB32Imm8C (d : Reg) (a : Reg) (i : BitVec 8) : Statement (.shrB32Imm8C d a i) := by
  refine of_enc rfl rfl fun h => ?_
  refine Enc.c0_ok rfl ((decodeC0_0D _ rfl).trans ?_)
  simp [chk, CFields.zA, CFields.zB, CFields.zD, extract_high, (Bool.and_eq_true_iff.1 h).2]
theorem shrI32Imm8C (d : Reg) (a : Reg) (i : BitVec 8) : Statement (.shrI32Imm8C d a i) := by
  refine of_enc rfl rfl fun h => ?_
  refine Enc.c0_ok rfl ((decodeC0_0E _ rfl).trans ?_)
  simp [chk, CFields.zA, CFields.zB, CFields.zD, extract_high, (Bool.and_eq_true_iff.1 h).2]
theorem shlB32C (d : Reg) (a : Reg) (b : Reg) : Statement (.shlB32C d a b) := by
  refine of_enc rfl rfl fun h => ?_
  refine Enc.c0_ok rfl ((decodeC0_0F _ rfl).trans ?_)
  simp [chk, CFields.zA, CFields.zB, CFields.zD, extract_high, (Bool.and_eq_true_iff.1 h).2]
theorem shlB32Clit (d : Reg) (a : Reg) (lit : W32) : Statement (.shlB32Clit d a lit) := by
  refine of_enc rfl rfl fun h => ?_
  refine Enc.cl_ok rfl ((decodeCLit_0F _ _ rfl).trans ?_)
  simp [chk, CFields.zA, CFields.zB, CFields.zD, extract_high, (Bool.and_eq_true_iff.1 h).2]
theorem shrB32C (d : Reg) (a : Reg) (b : Reg) : Statement (.shrB32C d a b) := by
  refine of_enc rfl rfl fun h => ?_
  refine Enc.c0_ok rfl ((decodeC0_10 _ rfl).trans ?_)
  simp [chk, CFields.zA, CFields.zB, CFields.zD, extract_high, (Bool.and_eq_true_iff.1 h).2]
theorem shrB32Clit (d : Reg) (a : Reg) (lit : W32) : Statement (.shrB32Clit d a lit) := by
  refine of_enc rfl rfl fun h => ?_
  refine Enc.cl_ok rfl ((decodeCLit_10 _ _ rfl).trans ?_)
  simp [chk, CFields.zA, CFields.zB, CFields.zD, extract_high, (Bool.and_eq_true_iff.1 h).2]
theorem minI32C (d : Reg) (a : Reg) (b : Reg) : Statement (.minI32C d a b) := by
  refine of_enc rfl rfl fun h => ?_
  refine Enc.c0_ok rfl ((decodeC0_11 _ rfl).trans ?_)
  simp [chk, CFields.zA, CFields.zB, CFields.zD, extract_high, (Bool.and_eq_true_iff.1 h).2]
theorem minI32Clit (d : Reg) (a : Reg) (lit : W32) : Statement (.minI32Clit d a lit) := by
  refine of_enc rfl rfl fun h => ?_
  refine Enc.cl_ok rfl ((decodeCLit_11 _ _ rfl).trans ?_)
  simp [chk, CFields.zA, CFields.zB, CFields.zD, extract_high, (Bool.and_eq_true_iff.1 h).2]
theorem maxI32C (d : Reg) (a : Reg) (b : Reg) : Statement (.maxI32C d a b) := by
  refine of_enc rfl rfl fun h => ?_
  refine Enc.c0_ok rfl ((decodeC0_12 _ rfl).trans ?_)
  simp [chk, CFields.zA, CFields.zB, CFields.zD, extract_high, (Bool.and_eq_true_iff.1 h).2]
theorem maxI32Clit (d : Reg) (a : Reg) (lit : W32) : Statement (.maxI32Clit d a lit) := by
  refine of_enc rfl rfl fun h => ?_
  refine Enc.cl_ok rfl ((decodeCLit_12 _ _ rfl).trans ?_)
  simp [chk, CFields.zA, CFields.zB, CFields.zD, extract_high, (Bool.and_eq_true_iff.1 h).2]
theorem popcB32C (d : Reg) (a : Reg) : Statement (.popcB32C d a) := by
  refine of_enc rfl rfl fun h => ?_
  refine Enc.c0_ok rfl ((decodeC0_13 _ rfl).trans ?_)
  simp [chk, CFields.zA, CFields.zB, CFields.zD, extract_high, (Bool.and_eq_true_iff.1 h).2]
theorem clzB32C (d : Reg) (a : Reg) : Statement (.clzB32C d a) := by
  refine of_enc rfl rfl fun h => ?_
  refine Enc.c0_ok rfl ((decodeC0_14 _ rfl).trans ?_)
  simp [chk, CFields.zA, CFields.zB, CFields.zD, extract_high, (Bool.and_eq_true_iff.1 h).2]
theorem leaN32C (d : Reg) (a : Reg) (b : Reg) : Statement (.leaN32C d a b) := by
  refine of_enc rfl rfl fun h => ?_
  refine Enc.c0_ok rfl ((decodeC0_15 _ rfl).trans ?_)
  simp [chk, CFields.zA, CFields.zB, CFields.zD, extract_high, (Bool.and_eq_true_iff.1 h).2]
theorem leaN32Clit (d : Reg) (a : Reg) (lit : W32) : Statement (.leaN32Clit d a lit) := by
  refine of_enc rfl rfl fun h => ?_
  refine Enc.cl_ok rfl ((decodeCLit_15 _ _ rfl).trans ?_)
  simp [chk, CFields.zA, CFields.zB, CFields.zD, extract_high, (Bool.and_eq_true_iff.1 h).2]
theorem faddFp32C (d : Reg) (a : Reg) (b : Reg) : Statement (.faddFp32C d a b) := by
  refine of_enc rfl rfl fun h => ?_
  refine Enc.c0_ok rfl ((decodeC0_16 _ rfl).trans ?_)
  simp [chk, CFields.zA, CFields.zB, CFields.zD, extract_high, (Bool.and_eq_true_iff.1 h).2]
theorem faddFp32Clit (d : Reg) (a : Reg) (lit : W32) : Statement (.faddFp32Clit d a lit) := by
  refine of_enc rfl rfl fun h => ?_
  refine Enc.cl_ok rfl ((decodeCLit_16 _ _ rfl).trans ?_)
  simp [chk, CFields.zA, CFields.zB, CFields.zD, extract_high, (Bool.and_eq_true_iff.1 h).2]
theorem fmulFp32C (d : Reg) (a : Reg) (b : Reg) : Statement (.fmulFp32C d a b) := by
  refine of_enc rfl rfl fun h => ?_
  refine Enc.c0_ok rfl ((decodeC0_17 _ rfl).trans ?_)
  simp [chk, CFields.zA, CFields.zB, CFields.zD, extract_high, (Bool.and_eq_true_iff.1 h).2]
theorem fmulFp32Clit (d : Reg) (a : Reg) (lit : W32) : Statement (.fmulFp32Clit d a lit) := by
  refine of_enc rfl rfl fun h => ?_
  refine Enc.cl_ok rfl ((decodeCLit_17 _ _ rfl).trans ?_)
  simp [chk, CFields.zA, CFields.zB, CFields.zD, extract_high, (Bool.and_eq_true_iff.1 h).2]
theorem fminFp32C (d : Reg) (a : Reg) (b : Reg) : Statement (.fminFp32C d a b) := by
  refine of_enc rfl rfl fun h => ?_
  refine Enc.c0_ok rfl ((decodeC0_18 _ rfl).trans ?_)
  simp [chk, CFields.zA, CFields.zB, CFields.zD, extract_high, (Bool.and_eq_true_iff.1 h).2]
theorem fminFp32Clit (d : Reg) (a : Reg) (lit : W32) : Statement (.fminFp32Clit d a lit) := by
  refine of_enc rfl rfl fun h => ?_
  refine Enc.cl_ok rfl ((decodeCLit_18 _ _ rfl).trans ?_)
  simp [chk, CFields.zA, CFields.zB, CFields.zD, extract_high, (Bool.and_eq_true_iff.1 h).2]
theorem fmaxFp32C (d : Reg) (a : Reg) (b : Reg) : Statement (.fmaxFp32C d a b) := by
  refine of_enc rfl rfl fun h => ?_
  refine Enc.c0_ok rfl ((decodeC0_19 _ rfl).trans ?_)
  simp [chk, CFields.zA, CFields.zB, CFields.zD, extract_high, (Bool.and_eq_true_iff.1 h).2]
theorem fmaxFp32Clit (d : Reg) (a : Reg) (lit : W32) : Statement (.fmaxFp32Clit d a lit) := by
  refine of_enc rfl rfl fun h => ?_
  refine Enc.cl_ok rfl ((decodeCLit_19 _ _ rfl).trans ?_)
  simp [chk, CFields.zA, CFields.zB, CFields.zD, extract_high, (Bool.and_eq_true_iff.1 h).2]
theorem faddBf16C (d : Reg) (a : Reg) (b : Reg) : Statement (.faddBf16C d a b) := by
  refine of_enc rfl rfl fun h => ?_
  refine Enc.c0_ok rfl ((decodeC0_1A _ rfl).trans ?_)
  simp [chk, CFields.zA, CFields.zB, CFields.zD, extract_high, (Bool.and_eq_true_iff.1 h).2]
theorem faddBf16Clit (d : Reg) (a : Reg) (lit : W32) : Statement (.faddBf16Clit d a lit) := by
  refine of_enc rfl rfl fun h => ?_
  refine Enc.cl_ok rfl ((decodeCLit_1A _ _ rfl).trans ?_)
  simp [chk, CFields.zA, CFields.zB, CFields.zD, extract_high, (Bool.and_eq_true_iff.1 h).2]
theorem fmulBf16C (d : Reg) (a : Reg) (b : Reg) : Statement (.fmulBf16C d a b) := by
  refine of_enc rfl rfl fun h => ?_
  refine Enc.c0_ok rfl ((decodeC0_1B _ rfl).trans ?_)
  simp [chk, CFields.zA, CFields.zB, CFields.zD, extract_high, (Bool.and_eq_true_iff.1 h).2]
theorem fmulBf16Clit (d : Reg) (a : Reg) (lit : W32) : Statement (.fmulBf16Clit d a lit) := by
  refine of_enc rfl rfl fun h => ?_
  refine Enc.cl_ok rfl ((decodeCLit_1B _ _ rfl).trans ?_)
  simp [chk, CFields.zA, CFields.zB, CFields.zD, extract_high, (Bool.and_eq_true_iff.1 h).2]
theorem cvtFp32I32C (d : Reg) (a : Reg) : Statement (.cvtFp32I32C d a) := by
  refine of_enc rfl rfl fun h => ?_
  refine Enc.c0_ok rfl ((decodeC0_1C _ rfl).trans ?_)
  simp [chk, CFields.zA, CFields.zB, CFields.zD, extract_high, (Bool.and_eq_true_iff.1 h).2]
theorem cvtI32Fp32C (d : Reg) (a : Reg) : Statement (.cvtI32Fp32C d a) := by
  refine of_enc rfl rfl fun h => ?_
  refine Enc.c0_ok rfl ((decodeC0_1D _ rfl).trans ?_)
  simp [chk, CFields.zA, CFields.zB, CFields.zD, extract_high, (Bool.and_eq_true_iff.1 h).2]
theorem setpEqB32C (p : PredNo) (a : Reg) (b : Reg) : Statement (.setpEqB32C p a b) := by
  refine of_enc rfl rfl fun h => ?_
  refine Enc.c0_ok rfl ((decodeC0_1E _ rfl).trans ?_)
  simp [chk, CFields.zA, CFields.zB, CFields.zD, extract_high, (Bool.and_eq_true_iff.1 h).2]
theorem setpEqB32Clit (p : PredNo) (a : Reg) (lit : W32) : Statement (.setpEqB32Clit p a lit) := by
  refine of_enc rfl rfl fun h => ?_
  refine Enc.cl_ok rfl ((decodeCLit_1E _ _ rfl).trans ?_)
  simp [chk, CFields.zA, CFields.zB, CFields.zD, extract_high, (Bool.and_eq_true_iff.1 h).2]
theorem setpNeB32C (p : PredNo) (a : Reg) (b : Reg) : Statement (.setpNeB32C p a b) := by
  refine of_enc rfl rfl fun h => ?_
  refine Enc.c0_ok rfl ((decodeC0_1F _ rfl).trans ?_)
  simp [chk, CFields.zA, CFields.zB, CFields.zD, extract_high, (Bool.and_eq_true_iff.1 h).2]
theorem setpNeB32Clit (p : PredNo) (a : Reg) (lit : W32) : Statement (.setpNeB32Clit p a lit) := by
  refine of_enc rfl rfl fun h => ?_
  refine Enc.cl_ok rfl ((decodeCLit_1F _ _ rfl).trans ?_)
  simp [chk, CFields.zA, CFields.zB, CFields.zD, extract_high, (Bool.and_eq_true_iff.1 h).2]
theorem setpLtI32C (p : PredNo) (a : Reg) (b : Reg) : Statement (.setpLtI32C p a b) := by
  refine of_enc rfl rfl fun h => ?_
  refine Enc.c0_ok rfl ((decodeC0_20 _ rfl).trans ?_)
  simp [chk, CFields.zA, CFields.zB, CFields.zD, extract_high, (Bool.and_eq_true_iff.1 h).2]
theorem setpLtI32Clit (p : PredNo) (a : Reg) (lit : W32) : Statement (.setpLtI32Clit p a lit) := by
  refine of_enc rfl rfl fun h => ?_
  refine Enc.cl_ok rfl ((decodeCLit_20 _ _ rfl).trans ?_)
  simp [chk, CFields.zA, CFields.zB, CFields.zD, extract_high, (Bool.and_eq_true_iff.1 h).2]
theorem setpGeI32C (p : PredNo) (a : Reg) (b : Reg) : Statement (.setpGeI32C p a b) := by
  refine of_enc rfl rfl fun h => ?_
  refine Enc.c0_ok rfl ((decodeC0_21 _ rfl).trans ?_)
  simp [chk, CFields.zA, CFields.zB, CFields.zD, extract_high, (Bool.and_eq_true_iff.1 h).2]
theorem setpGeI32Clit (p : PredNo) (a : Reg) (lit : W32) : Statement (.setpGeI32Clit p a lit) := by
  refine of_enc rfl rfl fun h => ?_
  refine Enc.cl_ok rfl ((decodeCLit_21 _ _ rfl).trans ?_)
  simp [chk, CFields.zA, CFields.zB, CFields.zD, extract_high, (Bool.and_eq_true_iff.1 h).2]
theorem setpLtN32C (p : PredNo) (a : Reg) (b : Reg) : Statement (.setpLtN32C p a b) := by
  refine of_enc rfl rfl fun h => ?_
  refine Enc.c0_ok rfl ((decodeC0_22 _ rfl).trans ?_)
  simp [chk, CFields.zA, CFields.zB, CFields.zD, extract_high, (Bool.and_eq_true_iff.1 h).2]
theorem setpLtN32Clit (p : PredNo) (a : Reg) (lit : W32) : Statement (.setpLtN32Clit p a lit) := by
  refine of_enc rfl rfl fun h => ?_
  refine Enc.cl_ok rfl ((decodeCLit_22 _ _ rfl).trans ?_)
  simp [chk, CFields.zA, CFields.zB, CFields.zD, extract_high, (Bool.and_eq_true_iff.1 h).2]
theorem setpGeN32C (p : PredNo) (a : Reg) (b : Reg) : Statement (.setpGeN32C p a b) := by
  refine of_enc rfl rfl fun h => ?_
  refine Enc.c0_ok rfl ((decodeC0_23 _ rfl).trans ?_)
  simp [chk, CFields.zA, CFields.zB, CFields.zD, extract_high, (Bool.and_eq_true_iff.1 h).2]
theorem setpGeN32Clit (p : PredNo) (a : Reg) (lit : W32) : Statement (.setpGeN32Clit p a lit) := by
  refine of_enc rfl rfl fun h => ?_
  refine Enc.cl_ok rfl ((decodeCLit_23 _ _ rfl).trans ?_)
  simp [chk, CFields.zA, CFields.zB, CFields.zD, extract_high, (Bool.and_eq_true_iff.1 h).2]
theorem setpLtFp32C (p : PredNo) (a : Reg) (b : Reg) : Statement (.setpLtFp32C p a b) := by
  refine of_enc rfl rfl fun h => ?_
  refine Enc.c0_ok rfl ((decodeC0_24 _ rfl).trans ?_)
  simp [chk, CFields.zA, CFields.zB, CFields.zD, extract_high, (Bool.and_eq_true_iff.1 h).2]
theorem setpLtFp32Clit (p : PredNo) (a : Reg) (lit : W32) : Statement (.setpLtFp32Clit p a lit) := by
  refine of_enc rfl rfl fun h => ?_
  refine Enc.cl_ok rfl ((decodeCLit_24 _ _ rfl).trans ?_)
  simp [chk, CFields.zA, CFields.zB, CFields.zD, extract_high, (Bool.and_eq_true_iff.1 h).2]
theorem setpGeFp32C (p : PredNo) (a : Reg) (b : Reg) : Statement (.setpGeFp32C p a b) := by
  refine of_enc rfl rfl fun h => ?_
  refine Enc.c0_ok rfl ((decodeC0_25 _ rfl).trans ?_)
  simp [chk, CFields.zA, CFields.zB, CFields.zD, extract_high, (Bool.and_eq_true_iff.1 h).2]
theorem setpGeFp32Clit (p : PredNo) (a : Reg) (lit : W32) : Statement (.setpGeFp32Clit p a lit) := by
  refine of_enc rfl rfl fun h => ?_
  refine Enc.cl_ok rfl ((decodeCLit_25 _ _ rfl).trans ?_)
  simp [chk, CFields.zA, CFields.zB, CFields.zD, extract_high, (Bool.and_eq_true_iff.1 h).2]
theorem pandC (d : PredNo) (a : PredNo) (b : PredNo) : Statement (.pandC d a b) := by
  refine of_enc rfl rfl fun h => ?_
  refine Enc.c0_ok rfl ((decodeC0_26 _ rfl).trans ?_)
  simp [chk, CFields.zA, CFields.zB, CFields.zD, extract_high, (Bool.and_eq_true_iff.1 h).2]
theorem porC (d : PredNo) (a : PredNo) (b : PredNo) : Statement (.porC d a b) := by
  refine of_enc rfl rfl fun h => ?_
  refine Enc.c0_ok rfl ((decodeC0_27 _ rfl).trans ?_)
  simp [chk, CFields.zA, CFields.zB, CFields.zD, extract_high, (Bool.and_eq_true_iff.1 h).2]
theorem pxorC (d : PredNo) (a : PredNo) (b : PredNo) : Statement (.pxorC d a b) := by
  refine of_enc rfl rfl fun h => ?_
  refine Enc.c0_ok rfl ((decodeC0_28 _ rfl).trans ?_)
  simp [chk, CFields.zA, CFields.zB, CFields.zD, extract_high, (Bool.and_eq_true_iff.1 h).2]
theorem pandnC (d : PredNo) (a : PredNo) (b : PredNo) : Statement (.pandnC d a b) := by
  refine of_enc rfl rfl fun h => ?_
  refine Enc.c0_ok rfl ((decodeC0_29 _ rfl).trans ?_)
  simp [chk, CFields.zA, CFields.zB, CFields.zD, extract_high, (Bool.and_eq_true_iff.1 h).2]
theorem pmovC (d : PredNo) (a : PredNo) : Statement (.pmovC d a) := by
  refine of_enc rfl rfl fun h => ?_
  refine Enc.c0_ok rfl ((decodeC0_2A _ rfl).trans ?_)
  simp [chk, CFields.zA, CFields.zB, CFields.zD, extract_high, (Bool.and_eq_true_iff.1 h).2]
theorem pnotC (d : PredNo) (a : PredNo) : Statement (.pnotC d a) := by
  refine of_enc rfl rfl fun h => ?_
  refine Enc.c0_ok rfl ((decodeC0_2B _ rfl).trans ?_)
  simp [chk, CFields.zA, CFields.zB, CFields.zD, extract_high, (Bool.and_eq_true_iff.1 h).2]
theorem ldBC (d : Reg) (la : LineOp) (b : Reg) : Statement (.ldBC d la b) := by
  refine of_enc rfl rfl fun h => ?_
  refine Enc.c0_ok rfl ((decodeC0_2C _ rfl).trans ?_)
  simp [chk, CFields.zA, CFields.zB, CFields.zD, extract_high, (Bool.and_eq_true_iff.1 h).2]
theorem ldHC (d : Reg) (la : LineOp) (b : Reg) : Statement (.ldHC d la b) := by
  refine of_enc rfl rfl fun h => ?_
  refine Enc.c0_ok rfl ((decodeC0_2D _ rfl).trans ?_)
  simp [chk, CFields.zA, CFields.zB, CFields.zD, extract_high, (Bool.and_eq_true_iff.1 h).2]
theorem ldWC (d : Reg) (la : LineOp) (b : Reg) : Statement (.ldWC d la b) := by
  refine of_enc rfl rfl fun h => ?_
  refine Enc.c0_ok rfl ((decodeC0_2E _ rfl).trans ?_)
  simp [chk, CFields.zA, CFields.zB, CFields.zD, extract_high, (Bool.and_eq_true_iff.1 h).2]
theorem ldDC (d : Reg) (la : LineOp) (b : Reg) : Statement (.ldDC d la b) := by
  refine of_enc rfl rfl fun h => ?_
  refine Enc.c0_ok rfl ((decodeC0_2F _ rfl).trans ?_)
  simp [chk, CFields.zA, CFields.zB, CFields.zD, extract_high, (Bool.and_eq_true_iff.1 h).2]
theorem stBC (la : LineOp) (b : Reg) (d : Reg) : Statement (.stBC la b d) := by
  refine of_enc rfl rfl fun h => ?_
  refine Enc.c0_ok rfl ((decodeC0_30 _ rfl).trans ?_)
  simp [chk, CFields.zA, CFields.zB, CFields.zD, extract_high, (Bool.and_eq_true_iff.1 h).2]
theorem stHC (la : LineOp) (b : Reg) (d : Reg) : Statement (.stHC la b d) := by
  refine of_enc rfl rfl fun h => ?_
  refine Enc.c0_ok rfl ((decodeC0_31 _ rfl).trans ?_)
  simp [chk, CFields.zA, CFields.zB, CFields.zD, extract_high, (Bool.and_eq_true_iff.1 h).2]
theorem stWC (la : LineOp) (b : Reg) (d : Reg) : Statement (.stWC la b d) := by
  refine of_enc rfl rfl fun h => ?_
  refine Enc.c0_ok rfl ((decodeC0_32 _ rfl).trans ?_)
  simp [chk, CFields.zA, CFields.zB, CFields.zD, extract_high, (Bool.and_eq_true_iff.1 h).2]
theorem stDC (la : LineOp) (b : Reg) (d : Reg) : Statement (.stDC la b d) := by
  refine of_enc rfl rfl fun h => ?_
  refine Enc.c0_ok rfl ((decodeC0_33 _ rfl).trans ?_)
  simp [chk, CFields.zA, CFields.zB, CFields.zD, extract_high, (Bool.and_eq_true_iff.1 h).2]
theorem recallC (la : LineOp) : Statement (.recallC la) := by
  refine of_enc rfl rfl fun h => ?_
  refine Enc.c0_ok rfl ((decodeC0_34 _ rfl).trans ?_)
  simp [chk, CFields.zA, CFields.zB, CFields.zD, extract_high, (Bool.and_eq_true_iff.1 h).2]
theorem flushC (la : LineOp) : Statement (.flushC la) := by
  refine of_enc rfl rfl fun h => ?_
  refine Enc.c0_ok rfl ((decodeC0_35 _ rfl).trans ?_)
  simp [chk, CFields.zA, CFields.zB, CFields.zD, extract_high, (Bool.and_eq_true_iff.1 h).2]
theorem exitC : Statement .exitC := by
  refine of_enc rfl rfl fun h => ?_
  refine Enc.c0_ok rfl ((decodeC0_36 _ rfl).trans ?_)
  simp [chk, CFields.zA, CFields.zB, CFields.zD, extract_high, (Bool.and_eq_true_iff.1 h).2]
theorem retC (a : Reg) : Statement (.retC a) := by
  refine of_enc rfl rfl fun h => ?_
  refine Enc.c0_ok rfl ((decodeC0_37 _ rfl).trans ?_)
  simp [chk, CFields.zA, CFields.zB, CFields.zD, extract_high, (Bool.and_eq_true_iff.1 h).2]
theorem voteAnyC (d : PredNo) (a : PredNo) : Statement (.voteAnyC d a) := by
  refine of_enc rfl rfl fun h => ?_
  refine Enc.c0_ok rfl ((decodeC0_38 _ rfl).trans ?_)
  simp [chk, CFields.zA, CFields.zB, CFields.zD, extract_high, (Bool.and_eq_true_iff.1 h).2]
theorem voteAllC (d : PredNo) (a : PredNo) : Statement (.voteAllC d a) := by
  refine of_enc rfl rfl fun h => ?_
  refine Enc.c0_ok rfl ((decodeC0_39 _ rfl).trans ?_)
  simp [chk, CFields.zA, CFields.zB, CFields.zD, extract_high, (Bool.and_eq_true_iff.1 h).2]
theorem voteBallC (d : Reg) (a : PredNo) : Statement (.voteBallC d a) := by
  refine of_enc rfl rfl fun h => ?_
  refine Enc.c0_ok rfl ((decodeC0_3A _ rfl).trans ?_)
  simp [chk, CFields.zA, CFields.zB, CFields.zD, extract_high, (Bool.and_eq_true_iff.1 h).2]
theorem electC (d : PredNo) : Statement (.electC d) := by
  refine of_enc rfl rfl fun h => ?_
  refine Enc.c0_ok rfl ((decodeC0_3B _ rfl).trans ?_)
  simp [chk, CFields.zA, CFields.zB, CFields.zD, extract_high, (Bool.and_eq_true_iff.1 h).2]
theorem shflIdxC (d : Reg) (a : Reg) (b : Reg) : Statement (.shflIdxC d a b) := by
  refine of_enc rfl rfl fun h => ?_
  refine Enc.c0_ok rfl ((decodeC0_3C _ rfl).trans ?_)
  simp [chk, CFields.zA, CFields.zB, CFields.zD, extract_high, (Bool.and_eq_true_iff.1 h).2]
theorem shflXorC (d : Reg) (a : Reg) (i : BitVec 8) : Statement (.shflXorC d a i) := by
  refine of_enc rfl rfl fun h => ?_
  refine Enc.c0_ok rfl ((decodeC0_3D _ rfl).trans ?_)
  simp [chk, CFields.zA, CFields.zB, CFields.zD, extract_high, (Bool.and_eq_true_iff.1 h).2]
theorem mfsC (d : Reg) (sr : SReg) : Statement (.mfsC d sr) := by
  refine of_enc rfl rfl fun h => ?_
  refine Enc.c0_ok rfl ((decodeC0_3E _ rfl).trans ?_)
  simp [chk, withSReg, CFields.zA, CFields.zB, CFields.zD, extract_high, (Bool.and_eq_true_iff.1 h).2]
theorem pauseC : Statement .pauseC := by
  refine of_enc rfl rfl fun h => ?_
  refine Enc.c0_ok rfl ((decodeC0_3F _ rfl).trans ?_)
  simp [chk, CFields.zA, CFields.zB, CFields.zD, extract_high, (Bool.and_eq_true_iff.1 h).2]
theorem illegalInstruction (why : Detail) : Statement (.illegalInstruction why) := of_none rfl rfl
theorem add (g : Guard) (t : IntTy) (d : Reg) (a : Reg) (b : OpB) : Statement (.add g t d a b) := by
  refine of_enc rfl rfl fun h => ?_
  simp only [Instr.wf, Bool.and_eq_true, Instr.fieldsOk] at h
  obtain ⟨h1, h2⟩ := h
  refine decodeX_ok (by rw [XFields.withB_g]; exact h1.1) (by rw [XFields.withB_xop]; rfl) (XFields.formBad_withB rfl (by show (0x000#10).toNat ≠ 0xC1; decide) rfl) ((decodeXBody_000 _ (by rw [XFields.withB_xop]; rfl)).trans ?_)
  simp [XFields.opB_withB, XFields.bOk_withB, h1.2, chk, withTy, withSReg, XFields.zA, XFields.zB, XFields.zC, XFields.zD, XFields.zI, XFields.mod0, XFields.modTO,
    extract_high, shift_high, h2]
theorem sub (g : Guard) (t : IntTy) (d : Reg) (a : Reg) (b : OpB) : Statement (.sub g t d a b) := by
  refine of_enc rfl rfl fun h => ?_
  simp only [Instr.wf, Bool.and_eq_true, Instr.fieldsOk] at h
  obtain ⟨h1, h2⟩ := h
  refine decodeX_ok (by rw [XFields.withB_g]; exact h1.1) (by rw [XFields.withB_xop]; rfl) (XFields.formBad_withB rfl (by show (0x001#10).toNat ≠ 0xC1; decide) rfl) ((decodeXBody_001 _ (by rw [XFields.withB_xop]; rfl)).trans ?_)
  simp [XFields.opB_withB, XFields.bOk_withB, h1.2, chk, withTy, withSReg, XFields.zA, XFields.zB, XFields.zC, XFields.zD, XFields.zI, XFields.mod0, XFields.modTO,
    extract_high, shift_high, h2]
theorem mul (g : Guard) (t : IntTy) (d : Reg) (a : Reg) (b : OpB) : Statement (.mul g t d a b) := by
  refine of_enc rfl rfl fun h => ?_
  simp only [Instr.wf, Bool.and_eq_true, Instr.fieldsOk] at h
  obtain ⟨h1, h2⟩ := h
  refine decodeX_ok (by rw [XFields.withB_g]; exact h1.1) (by rw [XFields.withB_xop]; rfl) (XFields.formBad_withB rfl (by show (0x002#10).toNat ≠ 0xC1; decide) rfl) ((decodeXBody_002 _ (by rw [XFields.withB_xop]; rfl)).trans ?_)
  simp [XFields.opB_withB, XFields.bOk_withB, h1.2, chk, withTy, withSReg, XFields.zA, XFields.zB, XFields.zC, XFields.zD, XFields.zI, XFields.mod0, XFields.modTO,
    extract_high, shift_high, h2]
theorem mulhi (g : Guard) (t : I32Ty) (d : Reg) (a : Reg) (b : OpB) : Statement (.mulhi g t d a b) := by
  refine of_enc rfl rfl fun h => ?_
  simp only [Instr.wf, Bool.and_eq_true, Instr.fieldsOk] at h
  obtain ⟨h1, h2⟩ := h
  refine decodeX_ok (by rw [XFields.withB_g]; exact h1.1) (by rw [XFields.withB_xop]; rfl) (XFields.formBad_withB rfl (by show (0x003#10).toNat ≠ 0xC1; decide) rfl) ((decodeXBody_003 _ (by rw [XFields.withB_xop]; rfl)).trans ?_)
  simp [XFields.opB_withB, XFields.bOk_withB, h1.2, chk, withTy, withSReg, XFields.zA, XFields.zB, XFields.zC, XFields.zD, XFields.zI, XFields.mod0, XFields.modTO,
    extract_high, shift_high, h2]
theorem mad (g : Guard) (t : IntTy) (d : Reg) (a : Reg) (b : OpB) (c : Reg) : Statement (.mad g t d a b c) := by
  refine of_enc rfl rfl fun h => ?_
  simp only [Instr.wf, Bool.and_eq_true, Instr.fieldsOk] at h
  obtain ⟨h1, h2⟩ := h
  refine decodeX_ok (by rw [XFields.withB_g]; exact h1.1) (by rw [XFields.withB_xop]; rfl) (XFields.formBad_withB rfl (by show (0x004#10).toNat ≠ 0xC1; decide) rfl) ((decodeXBody_004 _ (by rw [XFields.withB_xop]; rfl)).trans ?_)
  simp [XFields.opB_withB, XFields.bOk_withB, h1.2, chk, withTy, withSReg, XFields.zA, XFields.zB, XFields.zC, XFields.zD, XFields.zI, XFields.mod0, XFields.modTO,
    extract_high, shift_high, h2]
theorem madw (g : Guard) (t : I32Ty) (d : Reg) (a : Reg) (b : OpB) (c : Reg) : Statement (.madw g t d a b c) := by
  refine of_enc rfl rfl fun h => ?_
  simp only [Instr.wf, Bool.and_eq_true, Instr.fieldsOk] at h
  obtain ⟨h1, h2⟩ := h
  refine decodeX_ok (by rw [XFields.withB_g]; exact h1.1) (by rw [XFields.withB_xop]; rfl) (XFields.formBad_withB rfl (by show (0x005#10).toNat ≠ 0xC1; decide) rfl) ((decodeXBody_005 _ (by rw [XFields.withB_xop]; rfl)).trans ?_)
  simp [XFields.opB_withB, XFields.bOk_withB, h1.2, chk, withTy, withSReg, XFields.zA, XFields.zB, XFields.zC, XFields.zD, XFields.zI, XFields.mod0, XFields.modTO,
    extract_high, shift_high, h2]
theorem min (g : Guard) (t : IntTy) (d : Reg) (a : Reg) (b : OpB) : Statement (.min g t d a b) := by
  refine of_enc rfl rfl fun h => ?_
  simp only [Instr.wf, Bool.and_eq_true, Instr.fieldsOk] at h
  obtain ⟨h1, h2⟩ := h
  refine decodeX_ok (by rw [XFields.withB_g]; exact h1.1) (by rw [XFields.withB_xop]; rfl) (XFields.formBad_withB rfl (by show (0x006#10).toNat ≠ 0xC1; decide) rfl) ((decodeXBody_006 _ (by rw [XFields.withB_xop]; rfl)).trans ?_)
  simp [XFields.opB_withB, XFields.bOk_withB, h1.2, chk, withTy, withSReg, XFields.zA, XFields.zB, XFields.zC, XFields.zD, XFields.zI, XFields.mod0, XFields.modTO,
    extract_high, shift_high, h2]
theorem max (g : Guard) (t : IntTy) (d : Reg) (a : Reg) (b : OpB) : Statement (.max g t d a b) := by
  refine of_enc rfl rfl fun h => ?_
  simp only [Instr.wf, Bool.and_eq_true, Instr.fieldsOk] at h
  obtain ⟨h1, h2⟩ := h
  refine decodeX_ok (by rw [XFields.withB_g]; exact h1.1) (by rw [XFields.withB_xop]; rfl) (XFields.formBad_withB rfl (by show (0x007#10).toNat ≠ 0xC1; decide) rfl) ((decodeXBody_007 _ (by rw [XFields.withB_xop]; rfl)).trans ?_)
  simp [XFields.opB_withB, XFields.bOk_withB, h1.2, chk, withTy, withSReg, XFields.zA, XFields.zB, XFields.zC, XFields.zD, XFields.zI, XFields.mod0, XFields.modTO,
    extract_high, shift_high, h2]
theorem abs (g : Guard) (t : SgnTy) (d : Reg) (a : Reg) : Statement (.abs g t d a) := by
  refine of_enc rfl rfl fun h => ?_
  simp only [Instr.wf, Bool.and_eq_true, Instr.fieldsOk] at h
  obtain ⟨h1, h2⟩ := h
  refine decodeX_ok h1 rfl (XFields.formBad_none rfl (.inl (by show (0x008#10).toNat ≠ 0xC1; decide))) ((decodeXBody_008 _ rfl).trans ?_)
  simp [chk, withTy, withSReg, XFields.zA, XFields.zB, XFields.zC, XFields.zD, XFields.zI, XFields.mod0, XFields.modTO,
    extract_high, shift_high, h2]
theorem neg (g : Guard) (t : SgnTy) (d : Reg) (a : Reg) : Statement (.neg g t d a) := by
  refine of_enc rfl rfl fun h => ?_
  simp only [Instr.wf, Bool.and_eq_true, Instr.fieldsOk] at h
  obtain ⟨h1, h2⟩ := h
  refine decodeX_ok h1 rfl (XFields.formBad_none rfl (.inl (by show (0x009#10).toNat ≠ 0xC1; decide))) ((decodeXBody_009 _ rfl).trans ?_)
  simp [chk, withTy, withSReg, XFields.zA, XFields.zB, XFields.zC, XFields.zD, XFields.zI, XFields.mod0, XFields.modTO,
    extract_high, shift_high, h2]
theorem lea (g : Guard) (t : NatTy) (d : Reg) (a : Reg) (b : OpB) (sh : BitVec 3) : Statement (.lea g t d a b sh) := by
  refine of_enc rfl rfl fun h => ?_
  simp only [Instr.wf, Bool.and_eq_true, Instr.fieldsOk] at h
  obtain ⟨h1, h2⟩ := h
  refine decodeX_ok (by rw [XFields.withB_g]; exact h1.1) (by rw [XFields.withB_xop]; rfl) (XFields.formBad_withB rfl (by show (0x00A#10).toNat ≠ 0xC1; decide) rfl) ((decodeXBody_00A _ (by rw [XFields.withB_xop]; rfl)).trans ?_)
  simp [XFields.opB_withB, XFields.bOk_withB, h1.2, chk, withTy, withSReg, XFields.zA, XFields.zB, XFields.zC, XFields.zD, XFields.zI, XFields.mod0, XFields.modTO,
    extract_high, shift_high, h2]
theorem and (g : Guard) (t : BtTy) (d : Reg) (a : Reg) (b : OpB) : Statement (.and g t d a b) := by
  refine of_enc rfl rfl fun h => ?_
  simp only [Instr.wf, Bool.and_eq_true, Instr.fieldsOk] at h
  obtain ⟨h1, h2⟩ := h
  refine decodeX_ok (by rw [XFields.withB_g]; exact h1.1) (by rw [XFields.withB_xop]; rfl) (XFields.formBad_withB rfl (by show (0x010#10).toNat ≠ 0xC1; decide) rfl) ((decodeXBody_010 _ (by rw [XFields.withB_xop]; rfl)).trans ?_)
  simp [XFields.opB_withB, XFields.bOk_withB, h1.2, chk, withTy, withSReg, XFields.zA, XFields.zB, XFields.zC, XFields.zD, XFields.zI, XFields.mod0, XFields.modTO,
    extract_high, shift_high, h2]
theorem or (g : Guard) (t : BtTy) (d : Reg) (a : Reg) (b : OpB) : Statement (.or g t d a b) := by
  refine of_enc rfl rfl fun h => ?_
  simp only [Instr.wf, Bool.and_eq_true, Instr.fieldsOk] at h
  obtain ⟨h1, h2⟩ := h
  refine decodeX_ok (by rw [XFields.withB_g]; exact h1.1) (by rw [XFields.withB_xop]; rfl) (XFields.formBad_withB rfl (by show (0x011#10).toNat ≠ 0xC1; decide) rfl) ((decodeXBody_011 _ (by rw [XFields.withB_xop]; rfl)).trans ?_)
  simp [XFields.opB_withB, XFields.bOk_withB, h1.2, chk, withTy, withSReg, XFields.zA, XFields.zB, XFields.zC, XFields.zD, XFields.zI, XFields.mod0, XFields.modTO,
    extract_high, shift_high, h2]
theorem xor (g : Guard) (t : BtTy) (d : Reg) (a : Reg) (b : OpB) : Statement (.xor g t d a b) := by
  refine of_enc rfl rfl fun h => ?_
  simp only [Instr.wf, Bool.and_eq_true, Instr.fieldsOk] at h
  obtain ⟨h1, h2⟩ := h
  refine decodeX_ok (by rw [XFields.withB_g]; exact h1.1) (by rw [XFields.withB_xop]; rfl) (XFields.formBad_withB rfl (by show (0x012#10).toNat ≠ 0xC1; decide) rfl) ((decodeXBody_012 _ (by rw [XFields.withB_xop]; rfl)).trans ?_)
  simp [XFields.opB_withB, XFields.bOk_withB, h1.2, chk, withTy, withSReg, XFields.zA, XFields.zB, XFields.zC, XFields.zD, XFields.zI, XFields.mod0, XFields.modTO,
    extract_high, shift_high, h2]
theorem not (g : Guard) (t : BtTy) (d : Reg) (a : Reg) : Statement (.not g t d a) := by
  refine of_enc rfl rfl fun h => ?_
  simp only [Instr.wf, Bool.and_eq_true, Instr.fieldsOk] at h
  obtain ⟨h1, h2⟩ := h
  refine decodeX_ok h1 rfl (XFields.formBad_none rfl (.inl (by show (0x013#10).toNat ≠ 0xC1; decide))) ((decodeXBody_013 _ rfl).trans ?_)
  simp [chk, withTy, withSReg, XFields.zA, XFields.zB, XFields.zC, XFields.zD, XFields.zI, XFields.mod0, XFields.modTO,
    extract_high, shift_high, h2]
theorem andn (g : Guard) (t : BtTy) (d : Reg) (a : Reg) (b : OpB) : Statement (.andn g t d a b) := by
  refine of_enc rfl rfl fun h => ?_
  simp only [Instr.wf, Bool.and_eq_true, Instr.fieldsOk] at h
  obtain ⟨h1, h2⟩ := h
  refine decodeX_ok (by rw [XFields.withB_g]; exact h1.1) (by rw [XFields.withB_xop]; rfl) (XFields.formBad_withB rfl (by show (0x014#10).toNat ≠ 0xC1; decide) rfl) ((decodeXBody_014 _ (by rw [XFields.withB_xop]; rfl)).trans ?_)
  simp [XFields.opB_withB, XFields.bOk_withB, h1.2, chk, withTy, withSReg, XFields.zA, XFields.zB, XFields.zC, XFields.zD, XFields.zI, XFields.mod0, XFields.modTO,
    extract_high, shift_high, h2]
theorem shl (g : Guard) (t : BtTy) (d : Reg) (a : Reg) (b : OpB) : Statement (.shl g t d a b) := by
  refine of_enc rfl rfl fun h => ?_
  simp only [Instr.wf, Bool.and_eq_true, Instr.fieldsOk] at h
  obtain ⟨h1, h2⟩ := h
  refine decodeX_ok (by rw [XFields.withB_g]; exact h1.1) (by rw [XFields.withB_xop]; rfl) (XFields.formBad_withB rfl (by show (0x015#10).toNat ≠ 0xC1; decide) rfl) ((decodeXBody_015 _ (by rw [XFields.withB_xop]; rfl)).trans ?_)
  simp [XFields.opB_withB, XFields.bOk_withB, h1.2, chk, withTy, withSReg, XFields.zA, XFields.zB, XFields.zC, XFields.zD, XFields.zI, XFields.mod0, XFields.modTO,
    extract_high, shift_high, h2]
theorem shr (g : Guard) (t : ShrTy) (d : Reg) (a : Reg) (b : OpB) : Statement (.shr g t d a b) := by
  refine of_enc rfl rfl fun h => ?_
  simp only [Instr.wf, Bool.and_eq_true, Instr.fieldsOk] at h
  obtain ⟨h1, h2⟩ := h
  refine decodeX_ok (by rw [XFields.withB_g]; exact h1.1) (by rw [XFields.withB_xop]; rfl) (XFields.formBad_withB rfl (by show (0x016#10).toNat ≠ 0xC1; decide) rfl) ((decodeXBody_016 _ (by rw [XFields.withB_xop]; rfl)).trans ?_)
  simp [XFields.opB_withB, XFields.bOk_withB, h1.2, chk, withTy, withSReg, XFields.zA, XFields.zB, XFields.zC, XFields.zD, XFields.zI, XFields.mod0, XFields.modTO,
    extract_high, shift_high, h2]
theorem rot (g : Guard) (d : Reg) (a : Reg) (b : OpB) : Statement (.rot g d a b) := by
  refine of_enc rfl rfl fun h => ?_
  simp only [Instr.wf, Bool.and_eq_true, Instr.fieldsOk] at h
  obtain ⟨h1, h2⟩ := h
  refine decodeX_ok (by rw [XFields.withB_g]; exact h1.1) (by rw [XFields.withB_xop]; rfl) (XFields.formBad_withB rfl (by show (0x017#10).toNat ≠ 0xC1; decide) rfl) ((decodeXBody_017 _ (by rw [XFields.withB_xop]; rfl)).trans ?_)
  simp [XFields.opB_withB, XFields.bOk_withB, h1.2, chk, withTy, withSReg, XFields.zA, XFields.zB, XFields.zC, XFields.zD, XFields.zI, XFields.mod0, XFields.modTO,
    extract_high, shift_high, h2]
theorem popc (g : Guard) (t : BtTy) (d : Reg) (a : Reg) : Statement (.popc g t d a) := by
  refine of_enc rfl rfl fun h => ?_
  simp only [Instr.wf, Bool.and_eq_true, Instr.fieldsOk] at h
  obtain ⟨h1, h2⟩ := h
  refine decodeX_ok h1 rfl (XFields.formBad_none rfl (.inl (by show (0x018#10).toNat ≠ 0xC1; decide))) ((decodeXBody_018 _ rfl).trans ?_)
  simp [chk, withTy, withSReg, XFields.zA, XFields.zB, XFields.zC, XFields.zD, XFields.zI, XFields.mod0, XFields.modTO,
    extract_high, shift_high, h2]
theorem clz (g : Guard) (t : BtTy) (d : Reg) (a : Reg) : Statement (.clz g t d a) := by
  refine of_enc rfl rfl fun h => ?_
  simp only [Instr.wf, Bool.and_eq_true, Instr.fieldsOk] at h
  obtain ⟨h1, h2⟩ := h
  refine decodeX_ok h1 rfl (XFields.formBad_none rfl (.inl (by show (0x019#10).toNat ≠ 0xC1; decide))) ((decodeXBody_019 _ rfl).trans ?_)
  simp [chk, withTy, withSReg, XFields.zA, XFields.zB, XFields.zC, XFields.zD, XFields.zI, XFields.mod0, XFields.modTO,
    extract_high, shift_high, h2]
theorem brev (g : Guard) (d : Reg) (a : Reg) : Statement (.brev g d a) := by
  refine of_enc rfl rfl fun h => ?_
  simp only [Instr.wf, Bool.and_eq_true, Instr.fieldsOk] at h
  obtain ⟨h1, h2⟩ := h
  refine decodeX_ok h1 rfl (XFields.formBad_none rfl (.inl (by show (0x01A#10).toNat ≠ 0xC1; decide))) ((decodeXBody_01A _ rfl).trans ?_)
  simp [chk, withTy, withSReg, XFields.zA, XFields.zB, XFields.zC, XFields.zD, XFields.zI, XFields.mod0, XFields.modTO,
    extract_high, shift_high, h2]
theorem bfe (g : Guard) (t : I32Ty) (d : Reg) (a : Reg) (b : OpB) (c : Reg) : Statement (.bfe g t d a b c) := by
  refine of_enc rfl rfl fun h => ?_
  simp only [Instr.wf, Bool.and_eq_true, Instr.fieldsOk] at h
  obtain ⟨h1, h2⟩ := h
  refine decodeX_ok (by rw [XFields.withB_g]; exact h1.1) (by rw [XFields.withB_xop]; rfl) (XFields.formBad_withB rfl (by show (0x01B#10).toNat ≠ 0xC1; decide) rfl) ((decodeXBody_01B _ (by rw [XFields.withB_xop]; rfl)).trans ?_)
  simp [XFields.opB_withB, XFields.bOk_withB, h1.2, chk, withTy, withSReg, XFields.zA, XFields.zB, XFields.zC, XFields.zD, XFields.zI, XFields.mod0, XFields.modTO,
    extract_high, shift_high, h2]
theorem bfi (g : Guard) (d : Reg) (a : Reg) (b : OpB) (c : Reg) : Statement (.bfi g d a b c) := by
  refine of_enc rfl rfl fun h => ?_
  simp only [Instr.wf, Bool.and_eq_true, Instr.fieldsOk] at h
  obtain ⟨h1, h2⟩ := h
  refine decodeX_ok (by rw [XFields.withB_g]; exact h1.1) (by rw [XFields.withB_xop]; rfl) (XFields.formBad_withB rfl (by show (0x01C#10).toNat ≠ 0xC1; decide) rfl) ((decodeXBody_01C _ (by rw [XFields.withB_xop]; rfl)).trans ?_)
  simp [XFields.opB_withB, XFields.bOk_withB, h1.2, chk, withTy, withSReg, XFields.zA, XFields.zB, XFields.zC, XFields.zD, XFields.zI, XFields.mod0, XFields.modTO,
    extract_high, shift_high, h2]
theorem sel (g : Guard) (t : BtTy) (d : Reg) (a : Reg) (b : OpB) (c : PredNo) : Statement (.sel g t d a b c) := by
  refine of_enc rfl rfl fun h => ?_
  simp only [Instr.wf, Bool.and_eq_true, Instr.fieldsOk] at h
  obtain ⟨h1, h2⟩ := h
  refine decodeX_ok (by rw [XFields.withB_g]; exact h1.1) (by rw [XFields.withB_xop]; rfl) (XFields.formBad_withB rfl (by show (0x01D#10).toNat ≠ 0xC1; decide) rfl) ((decodeXBody_01D _ (by rw [XFields.withB_xop]; rfl)).trans ?_)
  simp [XFields.opB_withB, XFields.bOk_withB, h1.2, chk, withTy, withSReg, XFields.zA, XFields.zB, XFields.zC, XFields.zD, XFields.zI, XFields.mod0, XFields.modTO,
    extract_high, shift_high, h2]
theorem mov (g : Guard) (t : BtTy) (d : Reg) (b : OpB) : Statement (.mov g t d b) := by
  refine of_enc rfl rfl fun h => ?_
  simp only [Instr.wf, Bool.and_eq_true, Instr.fieldsOk] at h
  obtain ⟨h1, h2⟩ := h
  refine decodeX_ok (by rw [XFields.withB_g]; exact h1.1) (by rw [XFields.withB_xop]; rfl) (XFields.formBad_withB rfl (by show (0x01E#10).toNat ≠ 0xC1; decide) rfl) ((decodeXBody_01E _ (by rw [XFields.withB_xop]; rfl)).trans ?_)
  simp [XFields.opB_withB, XFields.bOk_withB, h1.2, chk, withTy, withSReg, XFields.zA, XFields.zB, XFields.zC, XFields.zD, XFields.zI, XFields.mod0, XFields.modTO,
    extract_high, shift_high, h2]
theorem setp (g : Guard) (test : SetpTest) (p : PredNo) (a : Reg) (b : OpB) : Statement (.setp g test p a b) := by
  refine of_enc rfl rfl fun h => ?_
  simp only [Instr.wf, Bool.and_eq_true, Instr.fieldsOk] at h
  obtain ⟨h1, h2⟩ := h
  refine decodeX_ok (by rw [XFields.withB_g]; exact h1.1) (by rw [XFields.withB_xop]; rfl) (XFields.formBad_withB rfl (by show (0x01F#10).toNat ≠ 0xC1; decide) rfl) ((decodeXBody_01F _ (by rw [XFields.withB_xop]; rfl)).trans ?_)
  simp [XFields.opB_withB, XFields.bOk_withB, h1.2, chk, withTy, withSReg, XFields.zA, XFields.zB, XFields.zC, XFields.zD, XFields.zI, XFields.mod0, XFields.modTO,
    extract_high, shift_high, h2]
theorem pand (g : Guard) (d : PredNo) (a : PredNo) (b : PredNo) : Statement (.pand g d a b) := by
  refine of_enc rfl rfl fun h => ?_
  simp only [Instr.wf, Bool.and_eq_true, Instr.fieldsOk] at h
  obtain ⟨h1, h2⟩ := h
  refine decodeX_ok h1 rfl (XFields.formBad_none rfl (.inl (by show (0x028#10).toNat ≠ 0xC1; decide))) ((decodeXBody_028 _ rfl).trans ?_)
  simp [chk, withTy, withSReg, XFields.zA, XFields.zB, XFields.zC, XFields.zD, XFields.zI, XFields.mod0, XFields.modTO,
    extract_high, shift_high, h2]
theorem por (g : Guard) (d : PredNo) (a : PredNo) (b : PredNo) : Statement (.por g d a b) := by
  refine of_enc rfl rfl fun h => ?_
  simp only [Instr.wf, Bool.and_eq_true, Instr.fieldsOk] at h
  obtain ⟨h1, h2⟩ := h
  refine decodeX_ok h1 rfl (XFields.formBad_none rfl (.inl (by show (0x029#10).toNat ≠ 0xC1; decide))) ((decodeXBody_029 _ rfl).trans ?_)
  simp [chk, withTy, withSReg, XFields.zA, XFields.zB, XFields.zC, XFields.zD, XFields.zI, XFields.mod0, XFields.modTO,
    extract_high, shift_high, h2]
theorem pxor (g : Guard) (d : PredNo) (a : PredNo) (b : PredNo) : Statement (.pxor g d a b) := by
  refine of_enc rfl rfl fun h => ?_
  simp only [Instr.wf, Bool.and_eq_true, Instr.fieldsOk] at h
  obtain ⟨h1, h2⟩ := h
  refine decodeX_ok h1 rfl (XFields.formBad_none rfl (.inl (by show (0x02A#10).toNat ≠ 0xC1; decide))) ((decodeXBody_02A _ rfl).trans ?_)
  simp [chk, withTy, withSReg, XFields.zA, XFields.zB, XFields.zC, XFields.zD, XFields.zI, XFields.mod0, XFields.modTO,
    extract_high, shift_high, h2]
theorem pandn (g : Guard) (d : PredNo) (a : PredNo) (b : PredNo) : Statement (.pandn g d a b) := by
  refine of_enc rfl rfl fun h => ?_
  simp only [Instr.wf, Bool.and_eq_true, Instr.fieldsOk] at h
  obtain ⟨h1, h2⟩ := h
  refine decodeX_ok h1 rfl (XFields.formBad_none rfl (.inl (by show (0x02B#10).toNat ≠ 0xC1; decide))) ((decodeXBody_02B _ rfl).trans ?_)
  simp [chk, withTy, withSReg, XFields.zA, XFields.zB, XFields.zC, XFields.zD, XFields.zI, XFields.mod0, XFields.modTO,
    extract_high, shift_high, h2]
theorem pmov (g : Guard) (d : PredNo) (a : PredNo) : Statement (.pmov g d a) := by
  refine of_enc rfl rfl fun h => ?_
  simp only [Instr.wf, Bool.and_eq_true, Instr.fieldsOk] at h
  obtain ⟨h1, h2⟩ := h
  refine decodeX_ok h1 rfl (XFields.formBad_none rfl (.inl (by show (0x02C#10).toNat ≠ 0xC1; decide))) ((decodeXBody_02C _ rfl).trans ?_)
  simp [chk, withTy, withSReg, XFields.zA, XFields.zB, XFields.zC, XFields.zD, XFields.zI, XFields.mod0, XFields.modTO,
    extract_high, shift_high, h2]
theorem pnot (g : Guard) (d : PredNo) (a : PredNo) : Statement (.pnot g d a) := by
  refine of_enc rfl rfl fun h => ?_
  simp only [Instr.wf, Bool.and_eq_true, Instr.fieldsOk] at h
  obtain ⟨h1, h2⟩ := h
  refine decodeX_ok h1 rfl (XFields.formBad_none rfl (.inl (by show (0x02D#10).toNat ≠ 0xC1; decide))) ((decodeXBody_02D _ rfl).trans ?_)
  simp [chk, withTy, withSReg, XFields.zA, XFields.zB, XFields.zC, XFields.zD, XFields.zI, XFields.mod0, XFields.modTO,
    extract_high, shift_high, h2]
theorem fadd (g : Guard) (t : FTy) (rm : RM) (d : Reg) (a : Reg) (b : OpB) : Statement (.fadd g t rm d a b) := by
  refine of_enc rfl rfl fun h => ?_
  simp only [Instr.wf, Bool.and_eq_true, Instr.fieldsOk] at h
  obtain ⟨h1, h2⟩ := h
  refine decodeX_ok (by rw [XFields.withB_g]; exact h1.1) (by rw [XFields.withB_xop]; rfl) (XFields.formBad_withB rfl (by show (0x040#10).toNat ≠ 0xC1; decide) rfl) ((decodeXBody_040 _ (by rw [XFields.withB_xop]; rfl)).trans ?_)
  simp [XFields.opB_withB, XFields.bOk_withB, h1.2, chk, withTy, withSReg, XFields.zA, XFields.zB, XFields.zC, XFields.zD, XFields.zI, XFields.mod0, XFields.modTO,
    extract_high, shift_high, h2]
theorem fsub (g : Guard) (t : FTy) (rm : RM) (d : Reg) (a : Reg) (b : OpB) : Statement (.fsub g t rm d a b) := by
  refine of_enc rfl rfl fun h => ?_
  simp only [Instr.wf, Bool.and_eq_true, Instr.fieldsOk] at h
  obtain ⟨h1, h2⟩ := h
  refine decodeX_ok (by rw [XFields.withB_g]; exact h1.1) (by rw [XFields.withB_xop]; rfl) (XFields.formBad_withB rfl (by show (0x041#10).toNat ≠ 0xC1; decide) rfl) ((decodeXBody_041 _ (by rw [XFields.withB_xop]; rfl)).trans ?_)
  simp [XFields.opB_withB, XFields.bOk_withB, h1.2, chk, withTy, withSReg, XFields.zA, XFields.zB, XFields.zC, XFields.zD, XFields.zI, XFields.mod0, XFields.modTO,
    extract_high, shift_high, h2]
theorem fmul (g : Guard) (t : FTy) (rm : RM) (d : Reg) (a : Reg) (b : OpB) : Statement (.fmul g t rm d a b) := by
  refine of_enc rfl rfl fun h => ?_
  simp only [Instr.wf, Bool.and_eq_true, Instr.fieldsOk] at h
  obtain ⟨h1, h2⟩ := h
  refine decodeX_ok (by rw [XFields.withB_g]; exact h1.1) (by rw [XFields.withB_xop]; rfl) (XFields.formBad_withB rfl (by show (0x042#10).toNat ≠ 0xC1; decide) rfl) ((decodeXBody_042 _ (by rw [XFields.withB_xop]; rfl)).trans ?_)
  simp [XFields.opB_withB, XFields.bOk_withB, h1.2, chk, withTy, withSReg, XFields.zA, XFields.zB, XFields.zC, XFields.zD, XFields.zI, XFields.mod0, XFields.modTO,
    extract_high, shift_high, h2]
theorem fma (g : Guard) (t : FTy) (rm : RM) (d : Reg) (a : Reg) (b : OpB) (c : Reg) : Statement (.fma g t rm d a b c) := by
  refine of_enc rfl rfl fun h => ?_
  simp only [Instr.wf, Bool.and_eq_true, Instr.fieldsOk] at h
  obtain ⟨h1, h2⟩ := h
  refine decodeX_ok (by rw [XFields.withB_g]; exact h1.1) (by rw [XFields.withB_xop]; rfl) (XFields.formBad_withB rfl (by show (0x043#10).toNat ≠ 0xC1; decide) rfl) ((decodeXBody_043 _ (by rw [XFields.withB_xop]; rfl)).trans ?_)
  simp [XFields.opB_withB, XFields.bOk_withB, h1.2, chk, withTy, withSReg, XFields.zA, XFields.zB, XFields.zC, XFields.zD, XFields.zI, XFields.mod0, XFields.modTO,
    extract_high, shift_high, h2]
theorem fmin (g : Guard) (t : FTy) (d : Reg) (a : Reg) (b : OpB) : Statement (.fmin g t d a b) := by
  refine of_enc rfl rfl fun h => ?_
  simp only [Instr.wf, Bool.and_eq_true, Instr.fieldsOk] at h
  obtain ⟨h1, h2⟩ := h
  refine decodeX_ok (by rw [XFields.withB_g]; exact h1.1) (by rw [XFields.withB_xop]; rfl) (XFields.formBad_withB rfl (by show (0x044#10).toNat ≠ 0xC1; decide) rfl) ((decodeXBody_044 _ (by rw [XFields.withB_xop]; rfl)).trans ?_)
  simp [XFields.opB_withB, XFields.bOk_withB, h1.2, chk, withTy, withSReg, XFields.zA, XFields.zB, XFields.zC, XFields.zD, XFields.zI, XFields.mod0, XFields.modTO,
    extract_high, shift_high, h2]
theorem fmax (g : Guard) (t : FTy) (d : Reg) (a : Reg) (b : OpB) : Statement (.fmax g t d a b) := by
  refine of_enc rfl rfl fun h => ?_
  simp only [Instr.wf, Bool.and_eq_true, Instr.fieldsOk] at h
  obtain ⟨h1, h2⟩ := h
  refine decodeX_ok (by rw [XFields.withB_g]; exact h1.1) (by rw [XFields.withB_xop]; rfl) (XFields.formBad_withB rfl (by show (0x045#10).toNat ≠ 0xC1; decide) rfl) ((decodeXBody_045 _ (by rw [XFields.withB_xop]; rfl)).trans ?_)
  simp [XFields.opB_withB, XFields.bOk_withB, h1.2, chk, withTy, withSReg, XFields.zA, XFields.zB, XFields.zC, XFields.zD, XFields.zI, XFields.mod0, XFields.modTO,
    extract_high, shift_high, h2]
theorem fabs (g : Guard) (t : FTy) (d : Reg) (a : Reg) : Statement (.fabs g t d a) := by
  refine of_enc rfl rfl fun h => ?_
  simp only [Instr.wf, Bool.and_eq_true, Instr.fieldsOk] at h
  obtain ⟨h1, h2⟩ := h
  refine decodeX_ok h1 rfl (XFields.formBad_none rfl (.inl (by show (0x046#10).toNat ≠ 0xC1; decide))) ((decodeXBody_046 _ rfl).trans ?_)
  simp [chk, withTy, withSReg, XFields.zA, XFields.zB, XFields.zC, XFields.zD, XFields.zI, XFields.mod0, XFields.modTO,
    extract_high, shift_high, h2]
theorem fneg (g : Guard) (t : FTy) (d : Reg) (a : Reg) : Statement (.fneg g t d a) := by
  refine of_enc rfl rfl fun h => ?_
  simp only [Instr.wf, Bool.and_eq_true, Instr.fieldsOk] at h
  obtain ⟨h1, h2⟩ := h
  refine decodeX_ok h1 rfl (XFields.formBad_none rfl (.inl (by show (0x047#10).toNat ≠ 0xC1; decide))) ((decodeXBody_047 _ rfl).trans ?_)
  simp [chk, withTy, withSReg, XFields.zA, XFields.zB, XFields.zC, XFields.zD, XFields.zI, XFields.mod0, XFields.modTO,
    extract_high, shift_high, h2]
theorem fcsgn (g : Guard) (t : FTy) (d : Reg) (a : Reg) (b : OpB) : Statement (.fcsgn g t d a b) := by
  refine of_enc rfl rfl fun h => ?_
  simp only [Instr.wf, Bool.and_eq_true, Instr.fieldsOk] at h
  obtain ⟨h1, h2⟩ := h
  refine decodeX_ok (by rw [XFields.withB_g]; exact h1.1) (by rw [XFields.withB_xop]; rfl) (XFields.formBad_withB rfl (by show (0x048#10).toNat ≠ 0xC1; decide) rfl) ((decodeXBody_048 _ (by rw [XFields.withB_xop]; rfl)).trans ?_)
  simp [XFields.opB_withB, XFields.bOk_withB, h1.2, chk, withTy, withSReg, XFields.zA, XFields.zB, XFields.zC, XFields.zD, XFields.zI, XFields.mod0, XFields.modTO,
    extract_high, shift_high, h2]
theorem fscale (g : Guard) (rm : RM) (d : Reg) (a : Reg) (b : OpB) : Statement (.fscale g rm d a b) := by
  refine of_enc rfl rfl fun h => ?_
  simp only [Instr.wf, Bool.and_eq_true, Instr.fieldsOk] at h
  obtain ⟨h1, h2⟩ := h
  refine decodeX_ok (by rw [XFields.withB_g]; exact h1.1) (by rw [XFields.withB_xop]; rfl) (XFields.formBad_withB rfl (by show (0x049#10).toNat ≠ 0xC1; decide) rfl) ((decodeXBody_049 _ (by rw [XFields.withB_xop]; rfl)).trans ?_)
  simp [XFields.opB_withB, XFields.bOk_withB, h1.2, chk, withTy, withSReg, XFields.zA, XFields.zB, XFields.zC, XFields.zD, XFields.zI, XFields.mod0, XFields.modTO,
    extract_high, shift_high, h2]
theorem fclamp (g : Guard) (t : FTy) (rm : RM) (d : Reg) (a : Reg) (b : OpB) (c : Reg) : Statement (.fclamp g t rm d a b c) := by
  refine of_enc rfl rfl fun h => ?_
  simp only [Instr.wf, Bool.and_eq_true, Instr.fieldsOk] at h
  obtain ⟨h1, h2⟩ := h
  refine decodeX_ok (by rw [XFields.withB_g]; exact h1.1) (by rw [XFields.withB_xop]; rfl) (XFields.formBad_withB rfl (by show (0x04A#10).toNat ≠ 0xC1; decide) rfl) ((decodeXBody_04A _ (by rw [XFields.withB_xop]; rfl)).trans ?_)
  simp [XFields.opB_withB, XFields.bOk_withB, h1.2, chk, withTy, withSReg, XFields.zA, XFields.zB, XFields.zC, XFields.zD, XFields.zI, XFields.mod0, XFields.modTO,
    extract_high, shift_high, h2]
theorem frnd (g : Guard) (t : FTy) (rm : RM) (d : Reg) (a : Reg) : Statement (.frnd g t rm d a) := by
  refine of_enc rfl rfl fun h => ?_
  simp only [Instr.wf, Bool.and_eq_true, Instr.fieldsOk] at h
  obtain ⟨h1, h2⟩ := h
  refine decodeX_ok h1 rfl (XFields.formBad_none rfl (.inl (by show (0x04B#10).toNat ≠ 0xC1; decide))) ((decodeXBody_04B _ rfl).trans ?_)
  simp [chk, withTy, withSReg, XFields.zA, XFields.zB, XFields.zC, XFields.zD, XFields.zI, XFields.mod0, XFields.modTO,
    extract_high, shift_high, h2]
theorem frcp (g : Guard) (rm : RM) (d : Reg) (a : Reg) : Statement (.frcp g rm d a) := by
  refine of_enc rfl rfl fun h => ?_
  simp only [Instr.wf, Bool.and_eq_true, Instr.fieldsOk] at h
  obtain ⟨h1, h2⟩ := h
  refine decodeX_ok h1 rfl (XFields.formBad_none rfl (.inl (by show (0x04C#10).toNat ≠ 0xC1; decide))) ((decodeXBody_04C _ rfl).trans ?_)
  simp [chk, withTy, withSReg, XFields.zA, XFields.zB, XFields.zC, XFields.zD, XFields.zI, XFields.mod0, XFields.modTO,
    extract_high, shift_high, h2]
theorem fsqrt (g : Guard) (rm : RM) (d : Reg) (a : Reg) : Statement (.fsqrt g rm d a) := by
  refine of_enc rfl rfl fun h => ?_
  simp only [Instr.wf, Bool.and_eq_true, Instr.fieldsOk] at h
  obtain ⟨h1, h2⟩ := h
  refine decodeX_ok h1 rfl (XFields.formBad_none rfl (.inl (by show (0x04D#10).toNat ≠ 0xC1; decide))) ((decodeXBody_04D _ rfl).trans ?_)
  simp [chk, withTy, withSReg, XFields.zA, XFields.zB, XFields.zC, XFields.zD, XFields.zI, XFields.mod0, XFields.modTO,
    extract_high, shift_high, h2]
theorem frsqrt (g : Guard) (rm : RM) (d : Reg) (a : Reg) : Statement (.frsqrt g rm d a) := by
  refine of_enc rfl rfl fun h => ?_
  simp only [Instr.wf, Bool.and_eq_true, Instr.fieldsOk] at h
  obtain ⟨h1, h2⟩ := h
  refine decodeX_ok h1 rfl (XFields.formBad_none rfl (.inl (by show (0x04E#10).toNat ≠ 0xC1; decide))) ((decodeXBody_04E _ rfl).trans ?_)
  simp [chk, withTy, withSReg, XFields.zA, XFields.zB, XFields.zC, XFields.zD, XFields.zI, XFields.mod0, XFields.modTO,
    extract_high, shift_high, h2]
theorem fexp2 (g : Guard) (rm : RM) (d : Reg) (a : Reg) : Statement (.fexp2 g rm d a) := by
  refine of_enc rfl rfl fun h => ?_
  simp only [Instr.wf, Bool.and_eq_true, Instr.fieldsOk] at h
  obtain ⟨h1, h2⟩ := h
  refine decodeX_ok h1 rfl (XFields.formBad_none rfl (.inl (by show (0x04F#10).toNat ≠ 0xC1; decide))) ((decodeXBody_04F _ rfl).trans ?_)
  simp [chk, withTy, withSReg, XFields.zA, XFields.zB, XFields.zC, XFields.zD, XFields.zI, XFields.mod0, XFields.modTO,
    extract_high, shift_high, h2]
theorem flog2 (g : Guard) (rm : RM) (d : Reg) (a : Reg) : Statement (.flog2 g rm d a) := by
  refine of_enc rfl rfl fun h => ?_
  simp only [Instr.wf, Bool.and_eq_true, Instr.fieldsOk] at h
  obtain ⟨h1, h2⟩ := h
  refine decodeX_ok h1 rfl (XFields.formBad_none rfl (.inl (by show (0x050#10).toNat ≠ 0xC1; decide))) ((decodeXBody_050 _ rfl).trans ?_)
  simp [chk, withTy, withSReg, XFields.zA, XFields.zB, XFields.zC, XFields.zD, XFields.zI, XFields.mod0, XFields.modTO,
    extract_high, shift_high, h2]
theorem fsin (g : Guard) (rm : RM) (d : Reg) (a : Reg) : Statement (.fsin g rm d a) := by
  refine of_enc rfl rfl fun h => ?_
  simp only [Instr.wf, Bool.and_eq_true, Instr.fieldsOk] at h
  obtain ⟨h1, h2⟩ := h
  refine decodeX_ok h1 rfl (XFields.formBad_none rfl (.inl (by show (0x051#10).toNat ≠ 0xC1; decide))) ((decodeXBody_051 _ rfl).trans ?_)
  simp [chk, withTy, withSReg, XFields.zA, XFields.zB, XFields.zC, XFields.zD, XFields.zI, XFields.mod0, XFields.modTO,
    extract_high, shift_high, h2]
theorem fcos (g : Guard) (rm : RM) (d : Reg) (a : Reg) : Statement (.fcos g rm d a) := by
  refine of_enc rfl rfl fun h => ?_
  simp only [Instr.wf, Bool.and_eq_true, Instr.fieldsOk] at h
  obtain ⟨h1, h2⟩ := h
  refine decodeX_ok h1 rfl (XFields.formBad_none rfl (.inl (by show (0x052#10).toNat ≠ 0xC1; decide))) ((decodeXBody_052 _ rfl).trans ?_)
  simp [chk, withTy, withSReg, XFields.zA, XFields.zB, XFields.zC, XFields.zD, XFields.zI, XFields.mod0, XFields.modTO,
    extract_high, shift_high, h2]
theorem fdot2 (g : Guard) (t : F16Ty) (rm : RM) (d : Reg) (a : Reg) (b : OpB) (c : Reg) : Statement (.fdot2 g t rm d a b c) := by
  refine of_enc rfl rfl fun h => ?_
  simp only [Instr.wf, Bool.and_eq_true, Instr.fieldsOk] at h
  obtain ⟨h1, h2⟩ := h
  refine decodeX_ok (by rw [XFields.withB_g]; exact h1.1) (by rw [XFields.withB_xop]; rfl) (XFields.formBad_withB rfl (by show (0x053#10).toNat ≠ 0xC1; decide) rfl) ((decodeXBody_053 _ (by rw [XFields.withB_xop]; rfl)).trans ?_)
  simp [XFields.opB_withB, XFields.bOk_withB, h1.2, chk, withTy, withSReg, XFields.zA, XFields.zB, XFields.zC, XFields.zD, XFields.zI, XFields.mod0, XFields.modTO,
    extract_high, shift_high, h2]
theorem lmul (g : Guard) (t : LnTy) (rm : RM) (d : Reg) (a : Reg) (b : OpB) : Statement (.lmul g t rm d a b) := by
  refine of_enc rfl rfl fun h => ?_
  simp only [Instr.wf, Bool.and_eq_true, Instr.fieldsOk] at h
  obtain ⟨h1, h2⟩ := h
  refine decodeX_ok (by rw [XFields.withB_g]; exact h1.1) (by rw [XFields.withB_xop]; rfl) (XFields.formBad_withB rfl (by show (0x058#10).toNat ≠ 0xC1; decide) rfl) ((decodeXBody_058 _ (by rw [XFields.withB_xop]; rfl)).trans ?_)
  simp [XFields.opB_withB, XFields.bOk_withB, h1.2, chk, withTy, withSReg, XFields.zA, XFields.zB, XFields.zC, XFields.zD, XFields.zI, XFields.mod0, XFields.modTO,
    extract_high, shift_high, h2]
theorem lmac (g : Guard) (t : LnTy) (rm : RM) (d : Reg) (a : Reg) (b : OpB) (c : Reg) : Statement (.lmac g t rm d a b c) := by
  refine of_enc rfl rfl fun h => ?_
  simp only [Instr.wf, Bool.and_eq_true, Instr.fieldsOk] at h
  obtain ⟨h1, h2⟩ := h
  refine decodeX_ok (by rw [XFields.withB_g]; exact h1.1) (by rw [XFields.withB_xop]; rfl) (XFields.formBad_withB rfl (by show (0x059#10).toNat ≠ 0xC1; decide) rfl) ((decodeXBody_059 _ (by rw [XFields.withB_xop]; rfl)).trans ?_)
  simp [XFields.opB_withB, XFields.bOk_withB, h1.2, chk, withTy, withSReg, XFields.zA, XFields.zB, XFields.zC, XFields.zD, XFields.zI, XFields.mod0, XFields.modTO,
    extract_high, shift_high, h2]
theorem cvt (g : Guard) (dst : CvtTy) (src : CvtTy) (rm : RM) (d : Reg) (a : Reg) : Statement (.cvt g dst src rm d a) := by
  refine of_enc rfl rfl fun h => ?_
  simp only [Instr.wf, Bool.and_eq_true, Instr.fieldsOk] at h
  obtain ⟨h1, h2⟩ := h
  refine decodeX_ok h1.1 rfl (XFields.formBad_none rfl (.inl (by show (0x060#10).toNat ≠ 0xC1; decide))) ((decodeXBody_060 _ rfl).trans ?_)
  simp [chk, withTy, withSReg, XFields.zA, XFields.zB, XFields.zC, XFields.zD, XFields.zI, XFields.mod0, XFields.modTO,
    extract_high, shift_high, h2, h1.2]
theorem cvtp (g : Guard) (t : F16Ty) (rm : RM) (d : Reg) (a : Reg) (b : OpB) : Statement (.cvtp g t rm d a b) := by
  refine of_enc rfl rfl fun h => ?_
  simp only [Instr.wf, Bool.and_eq_true, Instr.fieldsOk] at h
  obtain ⟨h1, h2⟩ := h
  refine decodeX_ok (by rw [XFields.withB_g]; exact h1.1) (by rw [XFields.withB_xop]; rfl) (XFields.formBad_withB rfl (by show (0x061#10).toNat ≠ 0xC1; decide) rfl) ((decodeXBody_061 _ (by rw [XFields.withB_xop]; rfl)).trans ?_)
  simp [XFields.opB_withB, XFields.bOk_withB, h1.2, chk, withTy, withSReg, XFields.zA, XFields.zB, XFields.zC, XFields.zD, XFields.zI, XFields.mod0, XFields.modTO,
    extract_high, shift_high, h2]
theorem cvtx (g : Guard) (t : F16Ty) (rm : RM) (d : Reg) (a : Reg) (k : BitVec 1) : Statement (.cvtx g t rm d a k) := by
  refine of_enc rfl rfl fun h => ?_
  simp only [Instr.wf, Bool.and_eq_true, Instr.fieldsOk] at h
  obtain ⟨h1, h2⟩ := h
  refine decodeX_ok h1 rfl (XFields.formBad_none rfl (.inl (by show (0x062#10).toNat ≠ 0xC1; decide))) ((decodeXBody_062 _ rfl).trans ?_)
  simp [chk, withTy, withSReg, XFields.zA, XFields.zB, XFields.zC, XFields.zD, XFields.zI, XFields.mod0, XFields.modTO,
    extract_high, shift_high, h2]
  all_goals (have := k.isLt; omega)
theorem pk8 (g : Guard) (t : Pk8Ty) (rm : RM) (d : Reg) (a : Reg) (b : OpB) (h : BitVec 1) : Statement (.pk8 g t rm d a b h) := by
  refine of_enc rfl rfl fun h => ?_
  simp only [Instr.wf, Bool.and_eq_true, Instr.fieldsOk] at h
  obtain ⟨h1, h2⟩ := h
  refine decodeX_ok (by rw [XFields.withB_g]; exact h1.1) (by rw [XFields.withB_xop]; rfl) (XFields.formBad_withB rfl (by show (0x063#10).toNat ≠ 0xC1; decide) rfl) ((decodeXBody_063 _ (by rw [XFields.withB_xop]; rfl)).trans ?_)
  simp [XFields.opB_withB, XFields.bOk_withB, h1.2, chk, withTy, withSReg, XFields.zA, XFields.zB, XFields.zC, XFields.zD, XFields.zI, XFields.mod0, XFields.modTO,
    extract_high, shift_high, h2]
  all_goals (have := h.isLt; omega)
theorem unp8 (g : Guard) (t : Pk8Ty) (d : Reg) (a : Reg) (k : BitVec 2) : Statement (.unp8 g t d a k) := by
  refine of_enc rfl rfl fun h => ?_
  simp only [Instr.wf, Bool.and_eq_true, Instr.fieldsOk] at h
  obtain ⟨h1, h2⟩ := h
  refine decodeX_ok h1 rfl (XFields.formBad_none rfl (.inl (by show (0x064#10).toNat ≠ 0xC1; decide))) ((decodeXBody_064 _ rfl).trans ?_)
  simp [chk, withTy, withSReg, XFields.zA, XFields.zB, XFields.zC, XFields.zD, XFields.zI, XFields.mod0, XFields.modTO,
    extract_high, shift_high, h2]
theorem pk4 (g : Guard) (t : Pk4Ty) (rm : RM) (d : Reg) (a : Reg) (b : OpB) (h : BitVec 2) : Statement (.pk4 g t rm d a b h) := by
  refine of_enc rfl rfl fun h => ?_
  simp only [Instr.wf, Bool.and_eq_true, Instr.fieldsOk] at h
  obtain ⟨h1, h2⟩ := h
  refine decodeX_ok (by rw [XFields.withB_g]; exact h1.1) (by rw [XFields.withB_xop]; rfl) (XFields.formBad_withB rfl (by show (0x065#10).toNat ≠ 0xC1; decide) rfl) ((decodeXBody_065 _ (by rw [XFields.withB_xop]; rfl)).trans ?_)
  simp [XFields.opB_withB, XFields.bOk_withB, h1.2, chk, withTy, withSReg, XFields.zA, XFields.zB, XFields.zC, XFields.zD, XFields.zI, XFields.mod0, XFields.modTO,
    extract_high, shift_high, h2]
theorem unp4 (g : Guard) (t : Pk4Ty) (d : Reg) (a : Reg) (n : BitVec 3) : Statement (.unp4 g t d a n) := by
  refine of_enc rfl rfl fun h => ?_
  simp only [Instr.wf, Bool.and_eq_true, Instr.fieldsOk] at h
  obtain ⟨h1, h2⟩ := h
  refine decodeX_ok h1 rfl (XFields.formBad_none rfl (.inl (by show (0x066#10).toNat ≠ 0xC1; decide))) ((decodeXBody_066 _ rfl).trans ?_)
  simp [chk, withTy, withSReg, XFields.zA, XFields.zB, XFields.zC, XFields.zD, XFields.zI, XFields.mod0, XFields.modTO,
    extract_high, shift_high, h2]
theorem lenc (g : Guard) (t : LnTy) (d : Reg) (a : Reg) : Statement (.lenc g t d a) := by
  refine of_enc rfl rfl fun h => ?_
  simp only [Instr.wf, Bool.and_eq_true, Instr.fieldsOk] at h
  obtain ⟨h1, h2⟩ := h
  refine decodeX_ok h1 rfl (XFields.formBad_none rfl (.inl (by show (0x067#10).toNat ≠ 0xC1; decide))) ((decodeXBody_067 _ rfl).trans ?_)
  simp [chk, withTy, withSReg, XFields.zA, XFields.zB, XFields.zC, XFields.zD, XFields.zI, XFields.mod0, XFields.modTO,
    extract_high, shift_high, h2]
theorem ldec (g : Guard) (t : LnTy) (d : Reg) (a : Reg) : Statement (.ldec g t d a) := by
  refine of_enc rfl rfl fun h => ?_
  simp only [Instr.wf, Bool.and_eq_true, Instr.fieldsOk] at h
  obtain ⟨h1, h2⟩ := h
  refine decodeX_ok h1 rfl (XFields.formBad_none rfl (.inl (by show (0x068#10).toNat ≠ 0xC1; decide))) ((decodeXBody_068 _ rfl).trans ?_)
  simp [chk, withTy, withSReg, XFields.zA, XFields.zB, XFields.zC, XFields.zD, XFields.zI, XFields.mod0, XFields.modTO,
    extract_high, shift_high, h2]
theorem scal (g : Guard) (t : ScalTy) (d : Reg) (a : Reg) : Statement (.scal g t d a) := by
  refine of_enc rfl rfl fun h => ?_
  simp only [Instr.wf, Bool.and_eq_true, Instr.fieldsOk] at h
  obtain ⟨h1, h2⟩ := h
  refine decodeX_ok h1 rfl (XFields.formBad_none rfl (.inl (by show (0x069#10).toNat ≠ 0xC1; decide))) ((decodeXBody_069 _ rfl).trans ?_)
  simp [chk, withTy, withSReg, XFields.zA, XFields.zB, XFields.zC, XFields.zD, XFields.zI, XFields.mod0, XFields.modTO,
    extract_high, shift_high, h2]
theorem perm (g : Guard) (d : Reg) (a : Reg) (b : OpB) (c : Reg) : Statement (.perm g d a b c) := by
  refine of_enc rfl rfl fun h => ?_
  simp only [Instr.wf, Bool.and_eq_true, Instr.fieldsOk] at h
  obtain ⟨h1, h2⟩ := h
  refine decodeX_ok (by rw [XFields.withB_g]; exact h1.1) (by rw [XFields.withB_xop]; rfl) (XFields.formBad_withB rfl (by show (0x070#10).toNat ≠ 0xC1; decide) rfl) ((decodeXBody_070 _ (by rw [XFields.withB_xop]; rfl)).trans ?_)
  simp [XFields.opB_withB, XFields.bOk_withB, h1.2, chk, withTy, withSReg, XFields.zA, XFields.zB, XFields.zC, XFields.zD, XFields.zI, XFields.mod0, XFields.modTO,
    extract_high, shift_high, h2]
theorem prmt (g : Guard) (d : Reg) (a : Reg) (b : OpB) (c : Reg) : Statement (.prmt g d a b c) := by
  refine of_enc rfl rfl fun h => ?_
  simp only [Instr.wf, Bool.and_eq_true, Instr.fieldsOk] at h
  obtain ⟨h1, h2⟩ := h
  refine decodeX_ok (by rw [XFields.withB_g]; exact h1.1) (by rw [XFields.withB_xop]; rfl) (XFields.formBad_withB rfl (by show (0x071#10).toNat ≠ 0xC1; decide) rfl) ((decodeXBody_071 _ (by rw [XFields.withB_xop]; rfl)).trans ?_)
  simp [XFields.opB_withB, XFields.bOk_withB, h1.2, chk, withTy, withSReg, XFields.zA, XFields.zB, XFields.zC, XFields.zD, XFields.zI, XFields.mod0, XFields.modTO,
    extract_high, shift_high, h2]
theorem bswp (g : Guard) (d : Reg) (a : Reg) : Statement (.bswp g d a) := by
  refine of_enc rfl rfl fun h => ?_
  simp only [Instr.wf, Bool.and_eq_true, Instr.fieldsOk] at h
  obtain ⟨h1, h2⟩ := h
  refine decodeX_ok h1 rfl (XFields.formBad_none rfl (.inl (by show (0x072#10).toNat ≠ 0xC1; decide))) ((decodeXBody_072 _ rfl).trans ?_)
  simp [chk, withTy, withSReg, XFields.zA, XFields.zB, XFields.zC, XFields.zD, XFields.zI, XFields.mod0, XFields.modTO,
    extract_high, shift_high, h2]
theorem bcmp (g : Guard) (c : Cond) (d : Reg) (a : Reg) (b : OpB) : Statement (.bcmp g c d a b) := by
  refine of_enc rfl rfl fun h => ?_
  simp only [Instr.wf, Bool.and_eq_true, Instr.fieldsOk] at h
  obtain ⟨h1, h2⟩ := h
  refine decodeX_ok (by rw [XFields.withB_g]; exact h1.1) (by rw [XFields.withB_xop]; rfl) (XFields.formBad_withB rfl (by show (0x073#10).toNat ≠ 0xC1; decide) rfl) ((decodeXBody_073 _ (by rw [XFields.withB_xop]; rfl)).trans ?_)
  simp [XFields.opB_withB, XFields.bOk_withB, h1.2, chk, withTy, withSReg, XFields.zA, XFields.zB, XFields.zC, XFields.zD, XFields.zI, XFields.mod0, XFields.modTO,
    extract_high, shift_high, h2]
theorem bsub (g : Guard) (d : Reg) (a : Reg) (b : OpB) : Statement (.bsub g d a b) := by
  refine of_enc rfl rfl fun h => ?_
  simp only [Instr.wf, Bool.and_eq_true, Instr.fieldsOk] at h
  obtain ⟨h1, h2⟩ := h
  refine decodeX_ok (by rw [XFields.withB_g]; exact h1.1) (by rw [XFields.withB_xop]; rfl) (XFields.formBad_withB rfl (by show (0x074#10).toNat ≠ 0xC1; decide) rfl) ((decodeXBody_074 _ (by rw [XFields.withB_xop]; rfl)).trans ?_)
  simp [XFields.opB_withB, XFields.bOk_withB, h1.2, chk, withTy, withSReg, XFields.zA, XFields.zB, XFields.zC, XFields.zD, XFields.zI, XFields.mod0, XFields.modTO,
    extract_high, shift_high, h2]
theorem openLine (g : Guard) (mode : OpenMode) (sc : BitVec 2) (l : BitVec 4) (p : PredNo) (h : BitVec 12) (a : Reg) : Statement (.openLine g mode sc l p h a) := by
  refine of_enc rfl rfl fun h => ?_
  simp only [Instr.wf, Bool.and_eq_true, Instr.fieldsOk] at h
  obtain ⟨h1, h2⟩ := h
  refine decodeX_ok h1 rfl (XFields.formBad_none rfl (.inl (by show (0x080#10).toNat ≠ 0xC1; decide))) ((decodeXBody_080 _ rfl).trans ?_)
  simp [chk, withTy, withSReg, XFields.zA, XFields.zB, XFields.zC, XFields.zD, XFields.zI, XFields.mod0, XFields.modTO,
    extract_high, shift_high, h2]
theorem sopen (g : Guard) (l : BitVec 4) (p : PredNo) (a : Reg) : Statement (.sopen g l p a) := by
  refine of_enc rfl rfl fun h => ?_
  simp only [Instr.wf, Bool.and_eq_true, Instr.fieldsOk] at h
  obtain ⟨h1, h2⟩ := h
  refine decodeX_ok h1 rfl (XFields.formBad_none rfl (.inl (by show (0x081#10).toNat ≠ 0xC1; decide))) ((decodeXBody_081 _ rfl).trans ?_)
  simp [chk, withTy, withSReg, XFields.zA, XFields.zB, XFields.zC, XFields.zD, XFields.zI, XFields.mod0, XFields.modTO,
    extract_high, shift_high, h2]
theorem recallLine (g : Guard) (la : LineOp) : Statement (.recallLine g la) := by
  refine of_enc rfl rfl fun h => ?_
  simp only [Instr.wf, Bool.and_eq_true, Instr.fieldsOk] at h
  obtain ⟨h1, h2⟩ := h
  refine decodeX_ok h1 rfl (XFields.formBad_none rfl (.inl (by show (0x082#10).toNat ≠ 0xC1; decide))) ((decodeXBody_082 _ rfl).trans ?_)
  simp [chk, withTy, withSReg, XFields.zA, XFields.zB, XFields.zC, XFields.zD, XFields.zI, XFields.mod0, XFields.modTO,
    extract_high, shift_high, h2]
theorem flush (g : Guard) (la : LineOp) : Statement (.flush g la) := by
  refine of_enc rfl rfl fun h => ?_
  simp only [Instr.wf, Bool.and_eq_true, Instr.fieldsOk] at h
  obtain ⟨h1, h2⟩ := h
  refine decodeX_ok h1 rfl (XFields.formBad_none rfl (.inl (by show (0x083#10).toNat ≠ 0xC1; decide))) ((decodeXBody_083 _ rfl).trans ?_)
  simp [chk, withTy, withSReg, XFields.zA, XFields.zB, XFields.zC, XFields.zD, XFields.zI, XFields.mod0, XFields.modTO,
    extract_high, shift_high, h2]
theorem ld (g : Guard) (sz : Size) (d : Reg) (la : LineOp) (b : Reg) (off : BitVec 7) : Statement (.ld g sz d la b off) := by
  refine of_enc rfl rfl fun h => ?_
  simp only [Instr.wf, Bool.and_eq_true, Instr.fieldsOk] at h
  obtain ⟨h1, h2⟩ := h
  refine decodeX_ok h1 rfl (XFields.formBad_none rfl (.inl (by show (0x084#10).toNat ≠ 0xC1; decide))) ((decodeXBody_084 _ rfl).trans ?_)
  simp [chk, withTy, withSReg, XFields.zA, XFields.zB, XFields.zC, XFields.zD, XFields.zI, XFields.mod0, XFields.modTO,
    extract_high, shift_high, h2]
theorem st (g : Guard) (sz : Size) (la : LineOp) (b : Reg) (d : Reg) (off : BitVec 7) : Statement (.st g sz la b d off) := by
  refine of_enc rfl rfl fun h => ?_
  simp only [Instr.wf, Bool.and_eq_true, Instr.fieldsOk] at h
  obtain ⟨h1, h2⟩ := h
  refine decodeX_ok h1 rfl (XFields.formBad_none rfl (.inl (by show (0x085#10).toNat ≠ 0xC1; decide))) ((decodeXBody_085 _ rfl).trans ?_)
  simp [chk, withTy, withSReg, XFields.zA, XFields.zB, XFields.zC, XFields.zD, XFields.zI, XFields.mod0, XFields.modTO,
    extract_high, shift_high, h2]
theorem lde (g : Guard) (t : ElTy) (d : Reg) (la : LineOp) (b : Reg) (off : BitVec 7) : Statement (.lde g t d la b off) := by
  refine of_enc rfl rfl fun h => ?_
  simp only [Instr.wf, Bool.and_eq_true, Instr.fieldsOk] at h
  obtain ⟨h1, h2⟩ := h
  refine decodeX_ok h1 rfl (XFields.formBad_none rfl (.inl (by show (0x086#10).toNat ≠ 0xC1; decide))) ((decodeXBody_086 _ rfl).trans ?_)
  simp [chk, withTy, withSReg, XFields.zA, XFields.zB, XFields.zC, XFields.zD, XFields.zI, XFields.mod0, XFields.modTO,
    extract_high, shift_high, h2]
theorem ste (g : Guard) (t : ElTy) (la : LineOp) (b : Reg) (d : Reg) (off : BitVec 7) : Statement (.ste g t la b d off) := by
  refine of_enc rfl rfl fun h => ?_
  simp only [Instr.wf, Bool.and_eq_true, Instr.fieldsOk] at h
  obtain ⟨h1, h2⟩ := h
  refine decodeX_ok h1 rfl (XFields.formBad_none rfl (.inl (by show (0x087#10).toNat ≠ 0xC1; decide))) ((decodeXBody_087 _ rfl).trans ?_)
  simp [chk, withTy, withSReg, XFields.zA, XFields.zB, XFields.zC, XFields.zD, XFields.zI, XFields.mod0, XFields.modTO,
    extract_high, shift_high, h2]
theorem atom (g : Guard) (op : AtomOp) (d : Reg) (la : LineOp) (b : Reg) (c : Reg) : Statement (.atom g op d la b c) := by
  refine of_enc rfl rfl fun h => ?_
  simp only [Instr.wf, Bool.and_eq_true, Instr.fieldsOk] at h
  obtain ⟨h1, h2⟩ := h
  refine decodeX_ok h1 rfl (XFields.formBad_none rfl (.inl (by show (0x088#10).toNat ≠ 0xC1; decide))) ((decodeXBody_088 _ rfl).trans ?_)
  simp [chk, withTy, withSReg, XFields.zA, XFields.zB, XFields.zC, XFields.zD, XFields.zI, XFields.mod0, XFields.modTO,
    extract_high, shift_high, h2]
theorem red (g : Guard) (op : RedOp) (la : LineOp) (b : Reg) (d : Reg) : Statement (.red g op la b d) := by
  refine of_enc rfl rfl fun h => ?_
  simp only [Instr.wf, Bool.and_eq_true, Instr.fieldsOk] at h
  obtain ⟨h1, h2⟩ := h
  refine decodeX_ok h1 rfl (XFields.formBad_none rfl (.inl (by show (0x089#10).toNat ≠ 0xC1; decide))) ((decodeXBody_089 _ rfl).trans ?_)
  simp [chk, withTy, withSReg, XFields.zA, XFields.zB, XFields.zC, XFields.zD, XFields.zI, XFields.mod0, XFields.modTO,
    extract_high, shift_high, h2]
theorem pfd (g : Guard) (h : BitVec 12) (a : Reg) : Statement (.pfd g h a) := by
  refine of_enc rfl rfl fun h => ?_
  simp only [Instr.wf, Bool.and_eq_true, Instr.fieldsOk] at h
  obtain ⟨h1, h2⟩ := h
  refine decodeX_ok h1 rfl (XFields.formBad_none rfl (.inl (by show (0x08A#10).toNat ≠ 0xC1; decide))) ((decodeXBody_08A _ rfl).trans ?_)
  simp [chk, withTy, withSReg, XFields.zA, XFields.zB, XFields.zC, XFields.zD, XFields.zI, XFields.mod0, XFields.modTO,
    extract_high, shift_high, h2]
theorem bra (g : Guard) (off : W32) : Statement (.bra g off) := by
  refine of_enc rfl rfl fun h => ?_
  simp only [Instr.wf, Bool.and_eq_true, Instr.fieldsOk] at h
  obtain ⟨h1, h2⟩ := h
  refine decodeX_ok h1.1 rfl (XFields.formBad_none rfl (.inl (by show (0x0C0#10).toNat ≠ 0xC1; decide))) ((decodeXBody_0C0 _ rfl).trans ?_)
  simp [chk, withTy, withSReg, XFields.zA, XFields.zB, XFields.zC, XFields.zD, XFields.zI, XFields.mod0, XFields.modTO,
    extract_high, shift_high, h2, show off &&& 3#32 = 0#32 by simpa using h1.2]
theorem call (g : Guard) (off : W32) : Statement (.call g off) := by
  refine of_enc rfl rfl fun h => ?_
  simp only [Instr.wf, Bool.and_eq_true, Instr.fieldsOk] at h
  obtain ⟨h1, h2⟩ := h
  refine decodeX_ok h1.1 rfl (XFields.formBad_none rfl (.inr rfl)) ((decodeXBody_0C1 _ rfl).trans ?_)
  simp [chk, withTy, withSReg, XFields.zA, XFields.zB, XFields.zC, XFields.zD, XFields.zI, XFields.mod0, XFields.modTO,
    extract_high, shift_high, h2, low2_zero (x := off) (by simpa using h1.2)]
theorem callImport (g : Guard) (entry : BitVec 12) : Statement (.callImport g entry) := by
  refine of_enc rfl rfl fun h => ?_
  simp only [Instr.wf, Bool.and_eq_true, Instr.fieldsOk] at h
  obtain ⟨h1, h2⟩ := h
  refine decodeX_ok h1 rfl (rfl) ((decodeXBody_0C1 _ rfl).trans ?_)
  simp [chk, withTy, withSReg, XFields.zA, XFields.zB, XFields.zC, XFields.zD, XFields.zI, XFields.mod0, XFields.modTO,
    extract_high, shift_high, h2]
theorem callx (g : Guard) (a : Reg) : Statement (.callx g a) := by
  refine of_enc rfl rfl fun h => ?_
  simp only [Instr.wf, Bool.and_eq_true, Instr.fieldsOk] at h
  obtain ⟨h1, h2⟩ := h
  refine decodeX_ok h1 rfl (XFields.formBad_none rfl (.inl (by show (0x0C2#10).toNat ≠ 0xC1; decide))) ((decodeXBody_0C2 _ rfl).trans ?_)
  simp [chk, withTy, withSReg, XFields.zA, XFields.zB, XFields.zC, XFields.zD, XFields.zI, XFields.mod0, XFields.modTO,
    extract_high, shift_high, h2]
theorem jmpx (g : Guard) (a : Reg) : Statement (.jmpx g a) := by
  refine of_enc rfl rfl fun h => ?_
  simp only [Instr.wf, Bool.and_eq_true, Instr.fieldsOk] at h
  obtain ⟨h1, h2⟩ := h
  refine decodeX_ok h1 rfl (XFields.formBad_none rfl (.inl (by show (0x0C3#10).toNat ≠ 0xC1; decide))) ((decodeXBody_0C3 _ rfl).trans ?_)
  simp [chk, withTy, withSReg, XFields.zA, XFields.zB, XFields.zC, XFields.zD, XFields.zI, XFields.mod0, XFields.modTO,
    extract_high, shift_high, h2]
theorem ret (g : Guard) (a : Reg) : Statement (.ret g a) := by
  refine of_enc rfl rfl fun h => ?_
  simp only [Instr.wf, Bool.and_eq_true, Instr.fieldsOk] at h
  obtain ⟨h1, h2⟩ := h
  refine decodeX_ok h1 rfl (XFields.formBad_none rfl (.inl (by show (0x0C4#10).toNat ≠ 0xC1; decide))) ((decodeXBody_0C4 _ rfl).trans ?_)
  simp [chk, withTy, withSReg, XFields.zA, XFields.zB, XFields.zC, XFields.zD, XFields.zI, XFields.mod0, XFields.modTO,
    extract_high, shift_high, h2]
theorem exit (g : Guard) : Statement (.exit g) := by
  refine of_enc rfl rfl fun h => ?_
  simp only [Instr.wf, Bool.and_eq_true, Instr.fieldsOk] at h
  obtain ⟨h1, h2⟩ := h
  refine decodeX_ok h1 rfl (XFields.formBad_none rfl (.inl (by show (0x0C5#10).toNat ≠ 0xC1; decide))) ((decodeXBody_0C5 _ rfl).trans ?_)
  simp [chk, withTy, withSReg, XFields.zA, XFields.zB, XFields.zC, XFields.zD, XFields.zI, XFields.mod0, XFields.modTO,
    extract_high, shift_high, h2]
theorem nop (g : Guard) : Statement (.nop g) := by
  refine of_enc rfl rfl fun h => ?_
  simp only [Instr.wf, Bool.and_eq_true, Instr.fieldsOk] at h
  obtain ⟨h1, h2⟩ := h
  refine decodeX_ok h1 rfl (XFields.formBad_none rfl (.inl (by show (0x0C6#10).toNat ≠ 0xC1; decide))) ((decodeXBody_0C6 _ rfl).trans ?_)
  simp [chk, withTy, withSReg, XFields.zA, XFields.zB, XFields.zC, XFields.zD, XFields.zI, XFields.mod0, XFields.modTO,
    extract_high, shift_high, h2]
theorem join (g : Guard) (p : PredNo) (b : OpB) : Statement (.join g p b) := by
  refine of_enc rfl rfl fun h => ?_
  simp only [Instr.wf, Bool.and_eq_true, Instr.fieldsOk] at h
  obtain ⟨h1, h2⟩ := h
  refine decodeX_ok (by rw [XFields.withB_g]; exact h1.1) (by rw [XFields.withB_xop]; rfl) (XFields.formBad_withB rfl (by show (0x0C7#10).toNat ≠ 0xC1; decide) rfl) ((decodeXBody_0C7 _ (by rw [XFields.withB_xop]; rfl)).trans ?_)
  simp [XFields.opB_withB, XFields.bOk_withB, h1.2, chk, withTy, withSReg, XFields.zA, XFields.zB, XFields.zC, XFields.zD, XFields.zI, XFields.mod0, XFields.modTO,
    extract_high, shift_high, h2]
theorem leave (g : Guard) (p : PredNo) (b : OpB) : Statement (.leave g p b) := by
  refine of_enc rfl rfl fun h => ?_
  simp only [Instr.wf, Bool.and_eq_true, Instr.fieldsOk] at h
  obtain ⟨h1, h2⟩ := h
  refine decodeX_ok (by rw [XFields.withB_g]; exact h1.1) (by rw [XFields.withB_xop]; rfl) (XFields.formBad_withB rfl (by show (0x0C8#10).toNat ≠ 0xC1; decide) rfl) ((decodeXBody_0C8 _ (by rw [XFields.withB_xop]; rfl)).trans ?_)
  simp [XFields.opB_withB, XFields.bOk_withB, h1.2, chk, withTy, withSReg, XFields.zA, XFields.zB, XFields.zC, XFields.zD, XFields.zI, XFields.mod0, XFields.modTO,
    extract_high, shift_high, h2]
theorem tbar (g : Guard) (p : PredNo) (a : Reg) (b : OpB) : Statement (.tbar g p a b) := by
  refine of_enc rfl rfl fun h => ?_
  simp only [Instr.wf, Bool.and_eq_true, Instr.fieldsOk] at h
  obtain ⟨h1, h2⟩ := h
  refine decodeX_ok (by rw [XFields.withB_g]; exact h1.1) (by rw [XFields.withB_xop]; rfl) (XFields.formBad_withB rfl (by show (0x0C9#10).toNat ≠ 0xC1; decide) rfl) ((decodeXBody_0C9 _ (by rw [XFields.withB_xop]; rfl)).trans ?_)
  simp [XFields.opB_withB, XFields.bOk_withB, h1.2, chk, withTy, withSReg, XFields.zA, XFields.zB, XFields.zC, XFields.zD, XFields.zI, XFields.mod0, XFields.modTO,
    extract_high, shift_high, h2]
theorem tred (g : Guard) (op : TredOp) (d : Reg) (a : Reg) (b : OpB) : Statement (.tred g op d a b) := by
  refine of_enc rfl rfl fun h => ?_
  simp only [Instr.wf, Bool.and_eq_true, Instr.fieldsOk] at h
  obtain ⟨h1, h2⟩ := h
  refine decodeX_ok (by rw [XFields.withB_g]; exact h1.1) (by rw [XFields.withB_xop]; rfl) (XFields.formBad_withB rfl (by show (0x0CA#10).toNat ≠ 0xC1; decide) rfl) ((decodeXBody_0CA _ (by rw [XFields.withB_xop]; rfl)).trans ?_)
  simp [XFields.opB_withB, XFields.bOk_withB, h1.2, chk, withTy, withSReg, XFields.zA, XFields.zB, XFields.zC, XFields.zD, XFields.zI, XFields.mod0, XFields.modTO,
    extract_high, shift_high, h2]
theorem tbcast (g : Guard) (d : Reg) (a : Reg) (b : OpB) (c : Reg) : Statement (.tbcast g d a b c) := by
  refine of_enc rfl rfl fun h => ?_
  simp only [Instr.wf, Bool.and_eq_true, Instr.fieldsOk] at h
  obtain ⟨h1, h2⟩ := h
  refine decodeX_ok (by rw [XFields.withB_g]; exact h1.1) (by rw [XFields.withB_xop]; rfl) (XFields.formBad_withB rfl (by show (0x0CB#10).toNat ≠ 0xC1; decide) rfl) ((decodeXBody_0CB _ (by rw [XFields.withB_xop]; rfl)).trans ?_)
  simp [XFields.opB_withB, XFields.bOk_withB, h1.2, chk, withTy, withSReg, XFields.zA, XFields.zB, XFields.zC, XFields.zD, XFields.zI, XFields.mod0, XFields.modTO,
    extract_high, shift_high, h2]
theorem shfl (g : Guard) (mode : ShflMode) (d : Reg) (a : Reg) (b : OpB) (c : PredNo) : Statement (.shfl g mode d a b c) := by
  refine of_enc rfl rfl fun h => ?_
  simp only [Instr.wf, Bool.and_eq_true, Instr.fieldsOk] at h
  obtain ⟨h1, h2⟩ := h
  refine decodeX_ok (by rw [XFields.withB_g]; exact h1.1) (by rw [XFields.withB_xop]; rfl) (XFields.formBad_withB rfl (by show (0x0E0#10).toNat ≠ 0xC1; decide) rfl) ((decodeXBody_0E0 _ (by rw [XFields.withB_xop]; rfl)).trans ?_)
  simp [XFields.opB_withB, XFields.bOk_withB, h1.2, chk, withTy, withSReg, XFields.zA, XFields.zB, XFields.zC, XFields.zD, XFields.zI, XFields.mod0, XFields.modTO,
    extract_high, shift_high, h2]
theorem vote (g : Guard) (dst : VoteDst) (a : PredNo) : Statement (.vote g dst a) := by
  cases dst <;> refine of_enc rfl rfl fun h => ?_ <;> (simp only [Instr.wf, Bool.and_eq_true, Instr.fieldsOk] at h; obtain ⟨h1, h2⟩ := h) <;> refine decodeX_ok h1 rfl rfl ?_ <;> rw [decodeXBody_0E1 _ rfl] <;>
    exact (chk_ok rfl (by simp [XFields.zB, XFields.zC, XFields.zI]) (by simpa using h2)).trans (by simp)
theorem matchLanes (g : Guard) (t : MatchTy) (d : Reg) (a : Reg) : Statement (.matchLanes g t d a) := by
  refine of_enc rfl rfl fun h => ?_
  simp only [Instr.wf, Bool.and_eq_true, Instr.fieldsOk] at h
  obtain ⟨h1, h2⟩ := h
  refine decodeX_ok h1 rfl (XFields.formBad_none rfl (.inl (by show (0x0E2#10).toNat ≠ 0xC1; decide))) ((decodeXBody_0E2 _ rfl).trans ?_)
  simp [chk, withTy, withSReg, XFields.zA, XFields.zB, XFields.zC, XFields.zD, XFields.zI, XFields.mod0, XFields.modTO,
    extract_high, shift_high, h2]
theorem confl (g : Guard) (d : Reg) (a : Reg) : Statement (.confl g d a) := by
  refine of_enc rfl rfl fun h => ?_
  simp only [Instr.wf, Bool.and_eq_true, Instr.fieldsOk] at h
  obtain ⟨h1, h2⟩ := h
  refine decodeX_ok h1 rfl (XFields.formBad_none rfl (.inl (by show (0x0E3#10).toNat ≠ 0xC1; decide))) ((decodeXBody_0E3 _ rfl).trans ?_)
  simp [chk, withTy, withSReg, XFields.zA, XFields.zB, XFields.zC, XFields.zD, XFields.zI, XFields.mod0, XFields.modTO,
    extract_high, shift_high, h2]
theorem cred (g : Guard) (op : CrOp) (d : Reg) (a : Reg) : Statement (.cred g op d a) := by
  refine of_enc rfl rfl fun h => ?_
  simp only [Instr.wf, Bool.and_eq_true, Instr.fieldsOk] at h
  obtain ⟨h1, h2⟩ := h
  refine decodeX_ok h1 rfl (XFields.formBad_none rfl (.inl (by show (0x0E4#10).toNat ≠ 0xC1; decide))) ((decodeXBody_0E4 _ rfl).trans ?_)
  simp [chk, withTy, withSReg, XFields.zA, XFields.zB, XFields.zC, XFields.zD, XFields.zI, XFields.mod0, XFields.modTO,
    extract_high, shift_high, h2]
theorem cscan (g : Guard) (op : CrOp) (excl : Bool) (d : Reg) (a : Reg) : Statement (.cscan g op excl d a) := by
  refine of_enc rfl rfl fun h => ?_
  simp only [Instr.wf, Bool.and_eq_true, Instr.fieldsOk] at h
  obtain ⟨h1, h2⟩ := h
  refine decodeX_ok h1 rfl (XFields.formBad_none rfl (.inl (by show (0x0E5#10).toNat ≠ 0xC1; decide))) ((decodeXBody_0E5 _ rfl).trans ?_)
  simp [chk, withTy, withSReg, XFields.zA, XFields.zB, XFields.zC, XFields.zD, XFields.zI, XFields.mod0, XFields.modTO,
    extract_high, shift_high, h2]
theorem elect (g : Guard) (p : PredNo) : Statement (.elect g p) := by
  refine of_enc rfl rfl fun h => ?_
  simp only [Instr.wf, Bool.and_eq_true, Instr.fieldsOk] at h
  obtain ⟨h1, h2⟩ := h
  refine decodeX_ok h1 rfl (XFields.formBad_none rfl (.inl (by show (0x0E6#10).toNat ≠ 0xC1; decide))) ((decodeXBody_0E6 _ rfl).trans ?_)
  simp [chk, withTy, withSReg, XFields.zA, XFields.zB, XFields.zC, XFields.zD, XFields.zI, XFields.mod0, XFields.modTO,
    extract_high, shift_high, h2]
theorem mma (g : Guard) (a : Reg) : Statement (.mma g a) := by
  refine of_enc rfl rfl fun h => ?_
  simp only [Instr.wf, Bool.and_eq_true, Instr.fieldsOk] at h
  obtain ⟨h1, h2⟩ := h
  refine decodeX_ok h1 rfl (XFields.formBad_none rfl (.inl (by show (0x100#10).toNat ≠ 0xC1; decide))) ((decodeXBody_100 _ rfl).trans ?_)
  simp [chk, withTy, withSReg, XFields.zA, XFields.zB, XFields.zC, XFields.zD, XFields.zI, XFields.mod0, XFields.modTO,
    extract_high, shift_high, h2]
theorem mload (g : Guard) (a : Reg) : Statement (.mload g a) := by
  refine of_enc rfl rfl fun h => ?_
  simp only [Instr.wf, Bool.and_eq_true, Instr.fieldsOk] at h
  obtain ⟨h1, h2⟩ := h
  refine decodeX_ok h1 rfl (XFields.formBad_none rfl (.inl (by show (0x101#10).toNat ≠ 0xC1; decide))) ((decodeXBody_101 _ rfl).trans ?_)
  simp [chk, withTy, withSReg, XFields.zA, XFields.zB, XFields.zC, XFields.zD, XFields.zI, XFields.mod0, XFields.modTO,
    extract_high, shift_high, h2]
theorem talloc (g : Guard) (t : BitVec 6) (a : Reg) : Statement (.talloc g t a) := by
  refine of_enc rfl rfl fun h => ?_
  simp only [Instr.wf, Bool.and_eq_true, Instr.fieldsOk] at h
  obtain ⟨h1, h2⟩ := h
  refine decodeX_ok h1 rfl (XFields.formBad_none rfl (.inl (by show (0x102#10).toNat ≠ 0xC1; decide))) ((decodeXBody_102 _ rfl).trans ?_)
  simp [chk, withTy, withSReg, XFields.zA, XFields.zB, XFields.zC, XFields.zD, XFields.zI, XFields.mod0, XFields.modTO,
    extract_high, shift_high, h2]
theorem tfree (g : Guard) (t : BitVec 6) : Statement (.tfree g t) := by
  refine of_enc rfl rfl fun h => ?_
  simp only [Instr.wf, Bool.and_eq_true, Instr.fieldsOk] at h
  obtain ⟨h1, h2⟩ := h
  refine decodeX_ok h1 rfl (XFields.formBad_none rfl (.inl (by show (0x103#10).toNat ≠ 0xC1; decide))) ((decodeXBody_103 _ rfl).trans ?_)
  simp [chk, withTy, withSReg, XFields.zA, XFields.zB, XFields.zC, XFields.zD, XFields.zI, XFields.mod0, XFields.modTO,
    extract_high, shift_high, h2]
theorem tstat (g : Guard) (d : Reg) (t : BitVec 6) : Statement (.tstat g d t) := by
  refine of_enc rfl rfl fun h => ?_
  simp only [Instr.wf, Bool.and_eq_true, Instr.fieldsOk] at h
  obtain ⟨h1, h2⟩ := h
  refine decodeX_ok h1 rfl (XFields.formBad_none rfl (.inl (by show (0x104#10).toNat ≠ 0xC1; decide))) ((decodeXBody_104 _ rfl).trans ?_)
  simp [chk, withTy, withSReg, XFields.zA, XFields.zB, XFields.zC, XFields.zD, XFields.zI, XFields.mod0, XFields.modTO,
    extract_high, shift_high, h2]
theorem copy (g : Guard) (a : Reg) : Statement (.copy g a) := by
  refine of_enc rfl rfl fun h => ?_
  simp only [Instr.wf, Bool.and_eq_true, Instr.fieldsOk] at h
  obtain ⟨h1, h2⟩ := h
  refine decodeX_ok h1 rfl (XFields.formBad_none rfl (.inl (by show (0x105#10).toNat ≠ 0xC1; decide))) ((decodeXBody_105 _ rfl).trans ?_)
  simp [chk, withTy, withSReg, XFields.zA, XFields.zB, XFields.zC, XFields.zD, XFields.zI, XFields.mod0, XFields.modTO,
    extract_high, shift_high, h2]
theorem wait (g : Guard) (w : WaitSet) : Statement (.wait g w) := by
  refine of_enc rfl rfl fun h => ?_
  simp only [Instr.wf, Bool.and_eq_true, Instr.fieldsOk] at h
  obtain ⟨h1, h2⟩ := h
  refine decodeX_ok h1.1 rfl (XFields.formBad_none rfl (.inl (by show (0x106#10).toNat ≠ 0xC1; decide))) ((decodeXBody_106 _ rfl).trans ?_)
  simp [chk, withTy, withSReg, XFields.zA, XFields.zB, XFields.zC, XFields.zD, XFields.zI, XFields.mod0, XFields.modTO,
    extract_high, shift_high, h2, show ¬ w.cField.extractLsb' 0 5 = 0#5 by simpa using WaitSet.enables_ne w h1.2]
theorem sig (g : Guard) (t : NatTy) (la : LineOp) (b : Reg) (d : Reg) : Statement (.sig g t la b d) := by
  refine of_enc rfl rfl fun h => ?_
  simp only [Instr.wf, Bool.and_eq_true, Instr.fieldsOk] at h
  obtain ⟨h1, h2⟩ := h
  refine decodeX_ok h1 rfl (XFields.formBad_none rfl (.inl (by show (0x107#10).toNat ≠ 0xC1; decide))) ((decodeXBody_107 _ rfl).trans ?_)
  simp [chk, withTy, withSReg, XFields.zA, XFields.zB, XFields.zC, XFields.zD, XFields.zI, XFields.mod0, XFields.modTO,
    extract_high, shift_high, h2]
theorem sigw (g : Guard) (t : NatTy) (la : LineOp) (b : Reg) (d : Reg) : Statement (.sigw g t la b d) := by
  refine of_enc rfl rfl fun h => ?_
  simp only [Instr.wf, Bool.and_eq_true, Instr.fieldsOk] at h
  obtain ⟨h1, h2⟩ := h
  refine decodeX_ok h1 rfl (XFields.formBad_none rfl (.inl (by show (0x108#10).toNat ≠ 0xC1; decide))) ((decodeXBody_108 _ rfl).trans ?_)
  simp [chk, withTy, withSReg, XFields.zA, XFields.zB, XFields.zC, XFields.zD, XFields.zI, XFields.mod0, XFields.modTO,
    extract_high, shift_high, h2]
theorem stkgive (g : Guard) (p : PredNo) (a : Reg) (b : OpB) : Statement (.stkgive g p a b) := by
  refine of_enc rfl rfl fun h => ?_
  simp only [Instr.wf, Bool.and_eq_true, Instr.fieldsOk] at h
  obtain ⟨h1, h2⟩ := h
  refine decodeX_ok (by rw [XFields.withB_g]; exact h1.1) (by rw [XFields.withB_xop]; rfl) (XFields.formBad_withB rfl (by show (0x109#10).toNat ≠ 0xC1; decide) rfl) ((decodeXBody_109 _ (by rw [XFields.withB_xop]; rfl)).trans ?_)
  simp [XFields.opB_withB, XFields.bOk_withB, h1.2, chk, withTy, withSReg, XFields.zA, XFields.zB, XFields.zC, XFields.zD, XFields.zI, XFields.mod0, XFields.modTO,
    extract_high, shift_high, h2]
theorem stkown (g : Guard) (p : PredNo) (a : Reg) : Statement (.stkown g p a) := by
  refine of_enc rfl rfl fun h => ?_
  simp only [Instr.wf, Bool.and_eq_true, Instr.fieldsOk] at h
  obtain ⟨h1, h2⟩ := h
  refine decodeX_ok h1 rfl (XFields.formBad_none rfl (.inl (by show (0x10A#10).toNat ≠ 0xC1; decide))) ((decodeXBody_10A _ rfl).trans ?_)
  simp [chk, withTy, withSReg, XFields.zA, XFields.zB, XFields.zC, XFields.zD, XFields.zI, XFields.mod0, XFields.modTO,
    extract_high, shift_high, h2]
theorem tmset (g : Guard) (a : Reg) : Statement (.tmset g a) := by
  refine of_enc rfl rfl fun h => ?_
  simp only [Instr.wf, Bool.and_eq_true, Instr.fieldsOk] at h
  obtain ⟨h1, h2⟩ := h
  refine decodeX_ok h1 rfl (XFields.formBad_none rfl (.inl (by show (0x10B#10).toNat ≠ 0xC1; decide))) ((decodeXBody_10B _ rfl).trans ?_)
  simp [chk, withTy, withSReg, XFields.zA, XFields.zB, XFields.zC, XFields.zD, XFields.zI, XFields.mod0, XFields.modTO,
    extract_high, shift_high, h2]
theorem trap (g : Guard) (code : W32) : Statement (.trap g code) := by
  refine of_enc rfl rfl fun h => ?_
  simp only [Instr.wf, Bool.and_eq_true, Instr.fieldsOk] at h
  obtain ⟨h1, h2⟩ := h
  refine decodeX_ok h1 rfl (XFields.formBad_none rfl (.inl (by show (0x120#10).toNat ≠ 0xC1; decide))) ((decodeXBody_120 _ rfl).trans ?_)
  simp [chk, withTy, withSReg, XFields.zA, XFields.zB, XFields.zC, XFields.zD, XFields.zI, XFields.mod0, XFields.modTO,
    extract_high, shift_high, h2]
theorem bkpt (g : Guard) (tag : W32) : Statement (.bkpt g tag) := by
  refine of_enc rfl rfl fun h => ?_
  simp only [Instr.wf, Bool.and_eq_true, Instr.fieldsOk] at h
  obtain ⟨h1, h2⟩ := h
  refine decodeX_ok h1 rfl (XFields.formBad_none rfl (.inl (by show (0x122#10).toNat ≠ 0xC1; decide))) ((decodeXBody_122 _ rfl).trans ?_)
  simp [chk, withTy, withSReg, XFields.zA, XFields.zB, XFields.zC, XFields.zD, XFields.zI, XFields.mod0, XFields.modTO,
    extract_high, shift_high, h2]
theorem rteRetry (g : Guard) : Statement (.rteRetry g) := by
  refine of_enc rfl rfl fun h => ?_
  simp only [Instr.wf, Bool.and_eq_true, Instr.fieldsOk] at h
  obtain ⟨h1, h2⟩ := h
  refine decodeX_ok h1 rfl (XFields.formBad_none rfl (.inl (by show (0x121#10).toNat ≠ 0xC1; decide))) ((decodeXBody_121 _ rfl).trans ?_)
  simp [chk, withTy, withSReg, XFields.zA, XFields.zB, XFields.zC, XFields.zD, XFields.zI, XFields.mod0, XFields.modTO,
    extract_high, shift_high, h2]
theorem rteSkip (g : Guard) : Statement (.rteSkip g) := by
  refine of_enc rfl rfl fun h => ?_
  simp only [Instr.wf, Bool.and_eq_true, Instr.fieldsOk] at h
  obtain ⟨h1, h2⟩ := h
  refine decodeX_ok h1 rfl (XFields.formBad_none rfl (.inl (by show (0x121#10).toNat ≠ 0xC1; decide))) ((decodeXBody_121 _ rfl).trans ?_)
  simp [chk, withTy, withSReg, XFields.zA, XFields.zB, XFields.zC, XFields.zD, XFields.zI, XFields.mod0, XFields.modTO,
    extract_high, shift_high, h2]
theorem rteExit (g : Guard) : Statement (.rteExit g) := by
  refine of_enc rfl rfl fun h => ?_
  simp only [Instr.wf, Bool.and_eq_true, Instr.fieldsOk] at h
  obtain ⟨h1, h2⟩ := h
  refine decodeX_ok h1 rfl (XFields.formBad_none rfl (.inl (by show (0x121#10).toNat ≠ 0xC1; decide))) ((decodeXBody_121 _ rfl).trans ?_)
  simp [chk, withTy, withSReg, XFields.zA, XFields.zB, XFields.zC, XFields.zD, XFields.zI, XFields.mod0, XFields.modTO,
    extract_high, shift_high, h2]
theorem mfs (g : Guard) (d : Reg) (sr : SReg) : Statement (.mfs g d sr) := by
  refine of_enc rfl rfl fun h => ?_
  simp only [Instr.wf, Bool.and_eq_true, Instr.fieldsOk] at h
  obtain ⟨h1, h2⟩ := h
  refine decodeX_ok h1 rfl (XFields.formBad_none rfl (.inl (by show (0x123#10).toNat ≠ 0xC1; decide))) ((decodeXBody_123 _ rfl).trans ?_)
  simp [chk, withTy, withSReg, XFields.zA, XFields.zB, XFields.zC, XFields.zD, XFields.zI, XFields.mod0, XFields.modTO,
    extract_high, shift_high, h2]
theorem mts (g : Guard) (sr : SReg) (a : Reg) : Statement (.mts g sr a) := by
  refine of_enc rfl rfl fun h => ?_
  simp only [Instr.wf, Bool.and_eq_true, Instr.fieldsOk] at h
  obtain ⟨h1, h2⟩ := h
  refine decodeX_ok h1.1 rfl (XFields.formBad_none rfl (.inl (by show (0x124#10).toNat ≠ 0xC1; decide))) ((decodeXBody_124 _ rfl).trans ?_)
  simp [chk, withTy, withSReg, XFields.zA, XFields.zB, XFields.zC, XFields.zD, XFields.zI, XFields.mod0, XFields.modTO,
    extract_high, shift_high, h2, h1.2]
theorem icinv (g : Guard) (a : Reg) : Statement (.icinv g a) := by
  refine of_enc rfl rfl fun h => ?_
  simp only [Instr.wf, Bool.and_eq_true, Instr.fieldsOk] at h
  obtain ⟨h1, h2⟩ := h
  refine decodeX_ok h1 rfl (XFields.formBad_none rfl (.inl (by show (0x125#10).toNat ≠ 0xC1; decide))) ((decodeXBody_125 _ rfl).trans ?_)
  simp [chk, withTy, withSReg, XFields.zA, XFields.zB, XFields.zC, XFields.zD, XFields.zI, XFields.mod0, XFields.modTO,
    extract_high, shift_high, h2]
theorem pfi (g : Guard) (a : Reg) : Statement (.pfi g a) := by
  refine of_enc rfl rfl fun h => ?_
  simp only [Instr.wf, Bool.and_eq_true, Instr.fieldsOk] at h
  obtain ⟨h1, h2⟩ := h
  refine decodeX_ok h1 rfl (XFields.formBad_none rfl (.inl (by show (0x126#10).toNat ≠ 0xC1; decide))) ((decodeXBody_126 _ rfl).trans ?_)
  simp [chk, withTy, withSReg, XFields.zA, XFields.zB, XFields.zC, XFields.zD, XFields.zI, XFields.mod0, XFields.modTO,
    extract_high, shift_high, h2]
theorem pause (g : Guard) : Statement (.pause g) := by
  refine of_enc rfl rfl fun h => ?_
  simp only [Instr.wf, Bool.and_eq_true, Instr.fieldsOk] at h
  obtain ⟨h1, h2⟩ := h
  refine decodeX_ok h1 rfl (XFields.formBad_none rfl (.inl (by show (0x127#10).toNat ≠ 0xC1; decide))) ((decodeXBody_127 _ rfl).trans ?_)
  simp [chk, withTy, withSReg, XFields.zA, XFields.zB, XFields.zC, XFields.zD, XFields.zI, XFields.mod0, XFields.modTO,
    extract_high, shift_high, h2]
theorem hld (g : Guard) (f : HldField) (d : Reg) (h : BitVec 12) : Statement (.hld g f d h) := by
  refine of_enc rfl rfl fun h => ?_
  simp only [Instr.wf, Bool.and_eq_true, Instr.fieldsOk] at h
  obtain ⟨h1, h2⟩ := h
  refine decodeX_ok h1 rfl (XFields.formBad_none rfl (.inl (by show (0x128#10).toNat ≠ 0xC1; decide))) ((decodeXBody_128 _ rfl).trans ?_)
  simp [chk, withTy, withSReg, XFields.zA, XFields.zB, XFields.zC, XFields.zD, XFields.zI, XFields.mod0, XFields.modTO,
    extract_high, shift_high, h2]
theorem seamld (g : Guard) (a : Reg) (b : Reg) : Statement (.seamld g a b) := by
  refine of_enc rfl rfl fun h => ?_
  simp only [Instr.wf, Bool.and_eq_true, Instr.fieldsOk] at h
  obtain ⟨h1, h2⟩ := h
  refine decodeX_ok h1 rfl (XFields.formBad_none rfl (.inl (by show (0x129#10).toNat ≠ 0xC1; decide))) ((decodeXBody_129 _ rfl).trans ?_)
  simp [chk, withTy, withSReg, XFields.zA, XFields.zB, XFields.zC, XFields.zD, XFields.zI, XFields.mod0, XFields.modTO,
    extract_high, shift_high, h2]
theorem xseam (g : Guard) (n : BitVec 6) (d : Reg) (a : Reg) (b : Reg) (c : Reg) (p : PredNo) (imm : W32) : Statement (.xseam g n d a b c p imm) := by
  refine of_enc rfl rfl fun h => ?_
  simp only [Instr.wf, Bool.and_eq_true, Instr.fieldsOk] at h
  obtain ⟨h1, h2⟩ := h
  obtain ⟨hx, ha, hn, hp1, hp2⟩ := xseam_parts n p
  refine decodeX_ok h1 (by rw [hx]; exact ha) (XFields.formBad_none rfl (.inl (by rw [hx]; omega))) ?_
  rw [decodeXBody_high _ (by rw [hx]; omega)]
  simp only [BitVec.ofNat_eq_ofNat] at hn hp1 hp2
  simp [decodeXseam, chk, hp1, hp2, hn, h2]
theorem uopEnd : Statement .uopEnd := by
  refine of_uop rfl rfl fun h => ?_
  simp only [Instr.wf, Bool.and_eq_true, Instr.fieldsOk] at h
  simp_all [decodeUFields]
theorem uopAdd (q : QReg) (a : Sel) (b : Sel) (k : W32) : Statement (.uopAdd q a b k) := by
  refine of_uop rfl rfl fun h => ?_
  simp only [Instr.wf, Bool.and_eq_true, Instr.fieldsOk] at h
  simp_all [decodeUFields]
theorem uopSub (q : QReg) (a : Sel) (b : Sel) (k : W32) : Statement (.uopSub q a b k) := by
  refine of_uop rfl rfl fun h => ?_
  simp only [Instr.wf, Bool.and_eq_true, Instr.fieldsOk] at h
  simp_all [decodeUFields]
theorem uopMul (q : QReg) (a : Sel) (b : Sel) (k : W32) : Statement (.uopMul q a b k) := by
  refine of_uop rfl rfl fun h => ?_
  simp only [Instr.wf, Bool.and_eq_true, Instr.fieldsOk] at h
  simp_all [decodeUFields]
theorem uopMad (q : QReg) (a : Sel) (b : Sel) (c : Sel) (k : W32) : Statement (.uopMad q a b c k) := by
  refine of_uop rfl rfl fun h => ?_
  simp only [Instr.wf, Bool.and_eq_true, Instr.fieldsOk] at h
  simp_all [decodeUFields]
theorem uopAnd (q : QReg) (a : Sel) (b : Sel) (k : W32) : Statement (.uopAnd q a b k) := by
  refine of_uop rfl rfl fun h => ?_
  simp only [Instr.wf, Bool.and_eq_true, Instr.fieldsOk] at h
  simp_all [decodeUFields]
theorem uopOr (q : QReg) (a : Sel) (b : Sel) (k : W32) : Statement (.uopOr q a b k) := by
  refine of_uop rfl rfl fun h => ?_
  simp only [Instr.wf, Bool.and_eq_true, Instr.fieldsOk] at h
  simp_all [decodeUFields]
theorem uopXor (q : QReg) (a : Sel) (b : Sel) (k : W32) : Statement (.uopXor q a b k) := by
  refine of_uop rfl rfl fun h => ?_
  simp only [Instr.wf, Bool.and_eq_true, Instr.fieldsOk] at h
  simp_all [decodeUFields]
theorem uopShl (q : QReg) (a : Sel) (b : Sel) (k : W32) : Statement (.uopShl q a b k) := by
  refine of_uop rfl rfl fun h => ?_
  simp only [Instr.wf, Bool.and_eq_true, Instr.fieldsOk] at h
  simp_all [decodeUFields]
theorem uopShr (arith : Bool) (q : QReg) (a : Sel) (b : Sel) (k : W32) : Statement (.uopShr arith q a b k) := by
  refine of_uop rfl rfl fun h => ?_
  simp only [Instr.wf, Bool.and_eq_true, Instr.fieldsOk] at h
  cases arith <;> simp_all [decodeUFields]
theorem uopSel (q : QReg) (a : Sel) (b : Sel) (c : Sel) (k : W32) : Statement (.uopSel q a b c k) := by
  refine of_uop rfl rfl fun h => ?_
  simp only [Instr.wf, Bool.and_eq_true, Instr.fieldsOk] at h
  simp_all [decodeUFields]
theorem uopCmp (t : UCmp) (q : QReg) (a : Sel) (b : Sel) (k : W32) : Statement (.uopCmp t q a b k) := by
  refine of_uop rfl rfl fun h => ?_
  simp only [Instr.wf, Bool.and_eq_true, Instr.fieldsOk] at h
  simp_all [decodeUFields]
theorem uopFadd (rm : RM) (q : QReg) (a : Sel) (b : Sel) (k : W32) : Statement (.uopFadd rm q a b k) := by
  refine of_uop rfl rfl fun h => ?_
  simp only [Instr.wf, Bool.and_eq_true, Instr.fieldsOk] at h
  simp_all [decodeUFields]
theorem uopFmul (rm : RM) (q : QReg) (a : Sel) (b : Sel) (k : W32) : Statement (.uopFmul rm q a b k) := by
  refine of_uop rfl rfl fun h => ?_
  simp only [Instr.wf, Bool.and_eq_true, Instr.fieldsOk] at h
  simp_all [decodeUFields]
theorem uopFma (rm : RM) (q : QReg) (a : Sel) (b : Sel) (c : Sel) (k : W32) : Statement (.uopFma rm q a b c k) := by
  refine of_uop rfl rfl fun h => ?_
  simp only [Instr.wf, Bool.and_eq_true, Instr.fieldsOk] at h
  simp_all [decodeUFields]
theorem uopFmin (q : QReg) (a : Sel) (b : Sel) (k : W32) : Statement (.uopFmin q a b k) := by
  refine of_uop rfl rfl fun h => ?_
  simp only [Instr.wf, Bool.and_eq_true, Instr.fieldsOk] at h
  simp_all [decodeUFields]
theorem uopFmax (q : QReg) (a : Sel) (b : Sel) (k : W32) : Statement (.uopFmax q a b k) := by
  refine of_uop rfl rfl fun h => ?_
  simp only [Instr.wf, Bool.and_eq_true, Instr.fieldsOk] at h
  simp_all [decodeUFields]
theorem uopLmul (t : LnTy) (q : QReg) (a : Sel) (b : Sel) (k : W32) : Statement (.uopLmul t q a b k) := by
  refine of_uop rfl rfl fun h => ?_
  simp only [Instr.wf, Bool.and_eq_true, Instr.fieldsOk] at h
  cases t <;> simp_all [decodeUFields]
theorem uopLtab (t : LnTy) (el : BitVec 2) (q : QReg) (a : Sel) (k : W32) : Statement (.uopLtab t el q a k) := by
  refine of_uop rfl rfl fun h => ?_
  simp only [Instr.wf, Bool.and_eq_true, Instr.fieldsOk] at h
  cases t
  · simp [decodeUFields, h.1.1, ltab6 el, show (LnTy.lns6 == LnTy.lns12) = false from rfl]
  · simp [decodeUFields, h.1.1, ltab12 el (by simpa using h.1.2)]
theorem uopCvt (f : UCvt) (q : QReg) (a : Sel) (b : Sel) (k : W32) : Statement (.uopCvt f q a b k) := by
  refine of_uop rfl rfl fun h => ?_
  simp only [Instr.wf, Bool.and_eq_true, Instr.fieldsOk] at h
  simp_all [decodeUFields]
theorem uopPack (f : UPack) (rm : RM) (q : QReg) (a : Sel) (b : Sel) (k : W32) : Statement (.uopPack f rm q a b k) := by
  refine of_uop rfl rfl fun h => ?_
  simp only [Instr.wf, Bool.and_eq_true, Instr.fieldsOk] at h
  simp_all [decodeUFields]
theorem uopLld (q : QReg) (a : Sel) (off : BitVec 7) (la : LineOp) : Statement (.uopLld q a off la) := by
  refine of_uop rfl rfl fun h => ?_
  simp only [Instr.wf, Bool.and_eq_true, Instr.fieldsOk] at h
  simp_all [decodeUFields]
theorem uopLst (a : Sel) (b : Sel) (off : BitVec 7) (la : LineOp) : Statement (.uopLst a b off la) := by
  refine of_uop rfl rfl fun h => ?_
  simp only [Instr.wf, Bool.and_eq_true, Instr.fieldsOk] at h
  simp_all [decodeUFields]
theorem uopShfl (mode : ShflMode) (q : QReg) (a : Sel) (b : Sel) (k : W32) : Statement (.uopShfl mode q a b k) := by
  refine of_uop rfl rfl fun h => ?_
  simp only [Instr.wf, Bool.and_eq_true, Instr.fieldsOk] at h
  simp_all [decodeUFields]
theorem uopBrf (z : Bool) (a : Sel) (t : BitVec 6) : Statement (.uopBrf z a t) := by
  refine of_uop rfl rfl fun h => ?_
  simp only [Instr.wf, Bool.and_eq_true, Instr.fieldsOk] at h
  cases z <;> simp_all [decodeUFields]
theorem uopLoop (bounded : Bool) (a : Sel) (last : BitVec 6) (cnt : BitVec 5) : Statement (.uopLoop bounded a last cnt) := by
  refine of_uop rfl rfl fun h => ?_
  simp only [Instr.wf, Bool.and_eq_true, Instr.fieldsOk] at h
  cases bounded <;> simp_all [decodeUFields]
theorem uopWr (t : UWr) (a : Sel) (k : W32) : Statement (.uopWr t a k) := by
  refine of_uop rfl rfl fun h => ?_
  simp only [Instr.wf, Bool.and_eq_true, Instr.fieldsOk] at h
  simp_all [decodeUFields]
theorem parkedHandlerEntry (core : Nat) (slot : Nat) : Statement (.parkedHandlerEntry core slot) := of_none rfl rfl
theorem haltReachesMember (core : Nat) (parked : Nat) (member : Nat) : Statement (.haltReachesMember core parked member) := of_none rfl rfl
theorem timerTrap (core : Nat) (slot : Nat) : Statement (.timerTrap core slot) := of_none rfl rfl
theorem pauseExpiry (core : Nat) (slot : Nat) : Statement (.pauseExpiry core slot) := of_none rfl rfl
theorem exitRetire (core : Nat) (slot : Nat) : Statement (.exitRetire core slot) := of_none rfl rfl
theorem fillArrives (core : Nat) (frame : Nat) : Statement (.fillArrives core frame) := of_none rfl rfl
theorem abandonedFillArrives (core : Nat) (frame : Nat) : Statement (.abandonedFillArrives core frame) := of_none rfl rfl
theorem tokenWaitMet (core : Nat) (wid : Nat) : Statement (.tokenWaitMet core wid) := of_none rfl rfl
theorem detectorFire (core : Nat) : Statement (.detectorFire core) := of_none rfl rfl
theorem instructionFetch (core : Nat) (slot : Nat) (again : Bool) : Statement (.instructionFetch core slot again) := of_none rfl rfl
theorem fillRead (id : Nat) : Statement (.fillRead id) := of_none rfl rfl
theorem writeBack (id : Nat) : Statement (.writeBack id) := of_none rfl rfl
theorem homeRead (id : Nat) : Statement (.homeRead id) := of_none rfl rfl
theorem homeWrite (id : Nat) : Statement (.homeWrite id) := of_none rfl rfl
theorem atomicRequest (id : Nat) : Statement (.atomicRequest id) := of_none rfl rfl
theorem reductionRequest (id : Nat) : Statement (.reductionRequest id) := of_none rfl rfl
theorem sigRequest (id : Nat) : Statement (.sigRequest id) := of_none rfl rfl
theorem sigwRead (id : Nat) : Statement (.sigwRead id) := of_none rfl rfl
theorem sigwResend (id : Nat) : Statement (.sigwResend id) := of_none rfl rfl
theorem engineLineRead (core : Nat) (op : Nat) (line : Nat) : Statement (.engineLineRead core op line) := of_none rfl rfl
theorem engineLineWrite (core : Nat) (op : Nat) (line : Nat) : Statement (.engineLineWrite core op line) := of_none rfl rfl
theorem walkRead (core : Nat) (wid : Nat) : Statement (.walkRead core wid) := of_none rfl rfl
theorem sumDelivery (id : Nat) : Statement (.sumDelivery id) := of_none rfl rfl
theorem requestEntryFree (id : Nat) : Statement (.requestEntryFree id) := of_none rfl rfl
theorem reply (id : Nat) (outer : Option (List Byte)) : Statement (.reply id outer) := of_none rfl rfl
theorem windowAcknowledge (die : Nat) (agent : Nat) (seq : Nat) : Statement (.windowAcknowledge die agent seq) := of_none rfl rfl
theorem flitReceive (m : Nat) (dir : Nat) (crcOk : Bool) (formOk : Bool) : Statement (.flitReceive m dir crcOk formOk) := of_none rfl rfl
theorem retryRequest (m : Nat) (dir : Nat) : Statement (.retryRequest m dir) := of_none rfl rfl
theorem ackTimeout (m : Nat) (dir : Nat) : Statement (.ackTimeout m dir) := of_none rfl rfl
theorem moduleRetrainComplete (m : Nat) (lowOk : Bool) (highOk : Bool) : Statement (.moduleRetrainComplete m lowOk highOk) := of_none rfl rfl
theorem handOverControl (stack : Nat) : Statement (.handOverControl stack) := of_none rfl rfl
theorem handoverDrain (stack : Nat) : Statement (.handoverDrain stack) := of_none rfl rfl
theorem handoverClose (stack : Nat) : Statement (.handoverClose stack) := of_none rfl rfl
theorem handoverSwitch (stack : Nat) : Statement (.handoverSwitch stack) := of_none rfl rfl
theorem peerRequest (peer : Nat) (src : PeerSource) (seq : Nat) (pa : Nat) (op : OuterOp) : Statement (.peerRequest peer src seq pa op) := of_none rfl rfl
theorem peerTimeout (id : Nat) : Statement (.peerTimeout id) := of_none rfl rfl
theorem hostMemoryRead (chan : Nat) (seq : Nat) (pa : Nat) (op : OuterOp) : Statement (.hostMemoryRead chan seq pa op) := of_none rfl rfl
theorem hostMemoryWrite (chan : Nat) (seq : Nat) (pa : Nat) (op : OuterOp) : Statement (.hostMemoryWrite chan seq pa op) := of_none rfl rfl
theorem hostRegisterRead (chan : Nat) (seq : Nat) (off : Nat) : Statement (.hostRegisterRead chan seq off) := of_none rfl rfl
theorem hostRegisterWrite (off : Nat) (v : RegWrite) : Statement (.hostRegisterWrite off v) := of_none rfl rfl
theorem dclLinkLoss : Statement .dclLinkLoss := of_none rfl rfl
theorem deviceReset (v : RegWrite) : Statement (.deviceReset v) := of_none rfl rfl
theorem msgbaseWrite (v : RegWrite) : Statement (.msgbaseWrite v) := of_none rfl rfl
theorem msgidxConsWrite (v : RegWrite) : Statement (.msgidxConsWrite v) := of_none rfl rfl
theorem plimWrite (v : RegWrite) : Statement (.plimWrite v) := of_none rfl rfl
theorem tlimWrite (v : RegWrite) : Statement (.tlimWrite v) := of_none rfl rfl
theorem dlineWrite (v : RegWrite) : Statement (.dlineWrite v) := of_none rfl rfl
theorem powerOn : Statement .powerOn := of_none rfl rfl
theorem stackTraining (failed : Option Nat) : Statement (.stackTraining failed) := of_none rfl rfl
theorem d2dTraining (lowBad : List Nat) (highBad : List Nat) : Statement (.d2dTraining lowBad highBad) := of_none rfl rfl
theorem knanosStart (moved : Option (BitVec 8)) : Statement (.knanosStart moved) := of_none rfl rfl
theorem thermalTrip (die : Nat) : Statement (.thermalTrip die) := of_none rfl rfl
theorem fatalError (kind : Nat) (die : Nat) (part : Nat) : Statement (.fatalError kind die part) := of_none rfl rfl
theorem managementCoreTimeout (die : Nat) : Statement (.managementCoreTimeout die) := of_none rfl rfl
theorem registerLaunchQueue : Statement .registerLaunchQueue := of_none rfl rfl
theorem registerContext : Statement .registerContext := of_none rfl rfl
theorem preEmpt : Statement .preEmpt := of_none rfl rfl
theorem squallResetCommand : Statement .squallResetCommand := of_none rfl rfl
theorem installObject (images : List (Nat × List W64)) : Statement (.installObject images) := of_none rfl rfl
theorem importSwitch : Statement .importSwitch := of_none rfl rfl
theorem writeDomainTable : Statement .writeDomainTable := of_none rfl rfl
theorem moduleUp (lowOk : Bool) (highOk : Bool) : Statement (.moduleUp lowOk highOk) := of_none rfl rfl
theorem getVersion : Statement .getVersion := of_none rfl rfl
theorem getCapabilities : Statement .getCapabilities := of_none rfl rfl
theorem negotiateAlgorithms : Statement .negotiateAlgorithms := of_none rfl rfl
theorem getDigests : Statement .getDigests := of_none rfl rfl
theorem getCertificate : Statement .getCertificate := of_none rfl rfl
theorem challenge : Statement .challenge := of_none rfl rfl
theorem getMeasurements : Statement .getMeasurements := of_none rfl rfl
theorem spdmUnsupportedRequest : Statement .spdmUnsupportedRequest := of_none rfl rfl
theorem commandUnknown : Statement .commandUnknown := of_none rfl rfl
theorem commandReply : Statement .commandReply := of_none rfl rfl
theorem messageWrite : Statement .messageWrite := of_none rfl rfl
theorem launchQueuePoll (queue : Nat) : Statement (.launchQueuePoll queue) := of_none rfl rfl
theorem launchRecordRead (queue : Nat) : Statement (.launchRecordRead queue) := of_none rfl rfl
theorem quiesceMoves (lrec : Nat) : Statement (.quiesceMoves lrec) := of_none rfl rfl
theorem knanosBind (lrec : Nat) (core : Nat) (entry : Nat) (crews : List Nat) (macros : BitVec 16) : Statement (.knanosBind lrec core entry crews macros) := of_none rfl rfl
theorem bindSetupDone (core : Nat) (entry : Nat) : Statement (.bindSetupDone core entry) := of_none rfl rfl
theorem powerThermalReading (power : Nat) (energy : Nat) (temp0 : Nat) (temp1 : Nat) : Statement (.powerThermalReading power energy temp0 temp1) := of_none rfl rfl
theorem claim (core : Nat) : Statement (.claim core) := of_none rfl rfl
theorem claimPerform (core : Nat) (entry : Nat) : Statement (.claimPerform core entry) := of_none rfl rfl
theorem claimReply (core : Nat) (entry : Nat) : Statement (.claimReply core entry) := of_none rfl rfl
theorem preEmption (lrec : Nat) : Statement (.preEmption lrec) := of_none rfl rfl
theorem deadlineExpiry (lrec : Nat) : Statement (.deadlineExpiry lrec) := of_none rfl rfl
theorem unbind (core : Nat) (entry : Nat) : Statement (.unbind core entry) := of_none rfl rfl
theorem launchCounterZero (core : Nat) (entry : Nat) : Statement (.launchCounterZero core entry) := of_none rfl rfl
theorem preEmptionSave (lrec : Nat) : Statement (.preEmptionSave lrec) := of_none rfl rfl
theorem launchCompletion (lrec : Nat) : Statement (.launchCompletion lrec) := of_none rfl rfl
theorem completionWordAdd (lrec : Nat) : Statement (.completionWordAdd lrec) := of_none rfl rfl
theorem completionMessage (lrec : Nat) : Statement (.completionMessage lrec) := of_none rfl rfl
theorem squallReset (ctx : Nat) : Statement (.squallReset ctx) := of_none rfl rfl
theorem resetRecordWrite (ctx : Nat) : Statement (.resetRecordWrite ctx) := of_none rfl rfl
theorem copyComplete (core : Nat) (op : Nat) : Statement (.copyComplete core op) := of_none rfl rfl
theorem mloadComplete (core : Nat) (op : Nat) : Statement (.mloadComplete core op) := of_none rfl rfl
theorem mmaComplete (core : Nat) (op : Nat) : Statement (.mmaComplete core op) := of_none rfl rfl
theorem tfreeEffect (core : Nat) (op : Nat) : Statement (.tfreeEffect core op) := of_none rfl rfl
theorem macroSelfTest (core : Nat) (mac : Nat) (good : Bool) : Statement (.macroSelfTest core mac good) := of_none rfl rfl
theorem importAdopt (core : Nat) (ctx : Nat) : Statement (.importAdopt core ctx) := of_none rfl rfl
theorem importSwitchComplete (ctx : Nat) : Statement (.importSwitchComplete ctx) := of_none rfl rfl
theorem objectFree (ctx : Nat) (idx : Nat) : Statement (.objectFree ctx idx) := of_none rfl rfl
theorem cmdpaWrite (v : RegWrite) : Statement (.cmdpaWrite v) := of_none rfl rfl
theorem combinedRequestLeaves (core : Nat) (quad : Nat) : Statement (.combinedRequestLeaves core quad) := of_none rfl rfl
theorem uncorrectableError (site : ErrorSite) : Statement (.uncorrectableError site) := of_none rfl rfl
theorem macroFenceClear (core : Nat) (mac : Nat) : Statement (.macroFenceClear core mac) := of_none rfl rfl
theorem dclRecovery (x8 : Bool) : Statement (.dclRecovery x8) := of_none rfl rfl

end Sys2Proof.Laws.Fields
end

