-- ==== Sys2Proof/Tests/Slice0.lean ====
section
/-! SUPPORT. Tests of the model: words written out from the spec decode to their instructions, ill-formed terms are refused,
single steps on small states, and for each statement of Obligations.lean states that meet its hypotheses. -/

set_option Elab.async false

namespace Sys2Proof.Tests
open Sys2Proof Sys2Proof.Machine

/-! Words written out from the tables of chapters 04 and 09: every operand field holds another value. -/

/-- Each list of words decodes to the instruction beside it. -/
def decodesTo (l : List (List W32 × Instr)) : Bool := l.all fun e => match decodeWords e.1 with
  | .ok i => i == e.2
  | .error _ => false
/-- R74: COP 0x01 to 0x1D. -/
theorem test_decode_cForms_a : decodesTo [
    ([0x00000004], .nopC),
    ([0x33001108], .movB32C 17 51),
    ([0x00001109, 0x9ABCDEF0, 0x00000000], .movB32Clit 17 0x9ABCDEF0),
    ([0x8500110C], .movB32Imm8C 17 0x85),
    ([0x33221110], .addI32C 17 34 51),
    ([0x00221111, 0x9ABCDEF0, 0x00000000], .addI32Clit 17 34 0x9ABCDEF0),
    ([0x85221114], .addI32Imm8C 17 34 0x85),
    ([0x33221118], .subI32C 17 34 51),
    ([0x00221119, 0x9ABCDEF0, 0x00000000], .subI32Clit 17 34 0x9ABCDEF0),
    ([0x3322111C], .mulI32C 17 34 51),
    ([0x0022111D, 0x9ABCDEF0, 0x00000000], .mulI32Clit 17 34 0x9ABCDEF0),
    ([0x33221120], .andB32C 17 34 51),
    ([0x00221121, 0x9ABCDEF0, 0x00000000], .andB32Clit 17 34 0x9ABCDEF0),
    ([0x85221124], .andB32Imm8C 17 34 0x85),
    ([0x33221128], .orB32C 17 34 51),
    ([0x00221129, 0x9ABCDEF0, 0x00000000], .orB32Clit 17 34 0x9ABCDEF0),
    ([0x3322112C], .xorB32C 17 34 51),
    ([0x0022112D, 0x9ABCDEF0, 0x00000000], .xorB32Clit 17 34 0x9ABCDEF0),
    ([0x85221130], .shlB32Imm8C 17 34 0x85),
    ([0x85221134], .shrB32Imm8C 17 34 0x85),
    ([0x85221138], .shrI32Imm8C 17 34 0x85),
    ([0x3322113C], .shlB32C 17 34 51),
    ([0x0022113D, 0x9ABCDEF0, 0x00000000], .shlB32Clit 17 34 0x9ABCDEF0)] = true := by decide +kernel

/-- R74: COP 0x01 to 0x1D. -/
theorem test_decode_cForms_b : decodesTo [
    ([0x33221140], .shrB32C 17 34 51),
    ([0x00221141, 0x9ABCDEF0, 0x00000000], .shrB32Clit 17 34 0x9ABCDEF0),
    ([0x33221144], .minI32C 17 34 51),
    ([0x00221145, 0x9ABCDEF0, 0x00000000], .minI32Clit 17 34 0x9ABCDEF0),
    ([0x33221148], .maxI32C 17 34 51),
    ([0x00221149, 0x9ABCDEF0, 0x00000000], .maxI32Clit 17 34 0x9ABCDEF0),
    ([0x0022114C], .popcB32C 17 34),
    ([0x00221150], .clzB32C 17 34),
    ([0x33221154], .leaN32C 17 34 51),
    ([0x00221155, 0x9ABCDEF0, 0x00000000], .leaN32Clit 17 34 0x9ABCDEF0),
    ([0x33221158], .faddFp32C 17 34 51),
    ([0x00221159, 0x9ABCDEF0, 0x00000000], .faddFp32Clit 17 34 0x9ABCDEF0),
    ([0x3322115C], .fmulFp32C 17 34 51),
    ([0x0022115D, 0x9ABCDEF0, 0x00000000], .fmulFp32Clit 17 34 0x9ABCDEF0),
    ([0x33221160], .fminFp32C 17 34 51),
    ([0x00221161, 0x9ABCDEF0, 0x00000000], .fminFp32Clit 17 34 0x9ABCDEF0),
    ([0x33221164], .fmaxFp32C 17 34 51),
    ([0x00221165, 0x9ABCDEF0, 0x00000000], .fmaxFp32Clit 17 34 0x9ABCDEF0),
    ([0x33221168], .faddBf16C 17 34 51),
    ([0x00221169, 0x9ABCDEF0, 0x00000000], .faddBf16Clit 17 34 0x9ABCDEF0),
    ([0x3322116C], .fmulBf16C 17 34 51),
    ([0x0022116D, 0x9ABCDEF0, 0x00000000], .fmulBf16Clit 17 34 0x9ABCDEF0),
    ([0x00221170], .cvtFp32I32C 17 34),
    ([0x00221174], .cvtI32Fp32C 17 34)] = true := by decide +kernel

/-- R74: COP 0x1E to 0x3F. -/
theorem test_decode_cForms2_a : decodesTo [
    ([0x33220578], .setpEqB32C 5 34 51),
    ([0x00220579, 0x9ABCDEF0, 0x00000000], .setpEqB32Clit 5 34 0x9ABCDEF0),
    ([0x3322057C], .setpNeB32C 5 34 51),
    ([0x0022057D, 0x9ABCDEF0, 0x00000000], .setpNeB32Clit 5 34 0x9ABCDEF0),
    ([0x33220580], .setpLtI32C 5 34 51),
    ([0x00220581, 0x9ABCDEF0, 0x00000000], .setpLtI32Clit 5 34 0x9ABCDEF0),
    ([0x33220584], .setpGeI32C 5 34 51),
    ([0x00220585, 0x9ABCDEF0, 0x00000000], .setpGeI32Clit 5 34 0x9ABCDEF0),
    ([0x33220588], .setpLtN32C 5 34 51),
    ([0x00220589, 0x9ABCDEF0, 0x00000000], .setpLtN32Clit 5 34 0x9ABCDEF0),
    ([0x3322058C], .setpGeN32C 5 34 51),
    ([0x0022058D, 0x9ABCDEF0, 0x00000000], .setpGeN32Clit 5 34 0x9ABCDEF0),
    ([0x33220590], .setpLtFp32C 5 34 51),
    ([0x00220591, 0x9ABCDEF0, 0x00000000], .setpLtFp32Clit 5 34 0x9ABCDEF0),
    ([0x33220594], .setpGeFp32C 5 34 51),
    ([0x00220595, 0x9ABCDEF0, 0x00000000], .setpGeFp32Clit 5 34 0x9ABCDEF0),
    ([0x06030598], .pandC 5 3 6),
    ([0x0603059C], .porC 5 3 6),
    ([0x060305A0], .pxorC 5 3 6),
    ([0x060305A4], .pandnC 5 3 6),
    ([0x000305A8], .pmovC 5 3)] = true := by decide +kernel

/-- R74: COP 0x1E to 0x3F. -/
theorem test_decode_cForms2_b : decodesTo [
    ([0x000305AC], .pnotC 5 3),
    ([0x336912B0], .ldBC 18 ⟨9, some 2⟩ 51),
    ([0x330912C0], .stBC ⟨9, none⟩ 51 18),
    ([0x336912B4], .ldHC 18 ⟨9, some 2⟩ 51),
    ([0x330912C4], .stHC ⟨9, none⟩ 51 18),
    ([0x336912B8], .ldWC 18 ⟨9, some 2⟩ 51),
    ([0x330912C8], .stWC ⟨9, none⟩ 51 18),
    ([0x336912BC], .ldDC 18 ⟨9, some 2⟩ 51),
    ([0x330912CC], .stDC ⟨9, none⟩ 51 18),
    ([0x007C00D0], .recallC ⟨12, some 3⟩),
    ([0x000C00D4], .flushC ⟨12, none⟩),
    ([0x000000D8], .exitC),
    ([0x002200DC], .retC 34),
    ([0x000305E0], .voteAnyC 5 3),
    ([0x000305E4], .voteAllC 5 3),
    ([0x000311E8], .voteBallC 17 3),
    ([0x000005EC], .electC 5),
    ([0x332211F0], .shflIdxC 17 34 51),
    ([0x852211F4], .shflXorC 17 34 0x85),
    ([0x000A11F8], .mfsC 17 .ostat),
    ([0x000000FC], .pauseC)] = true := by decide +kernel

/-- R81. -/
theorem test_decode_integer : decodesTo [
    ([0x22127002, 0x00080034, 0x00000000], .add .always .i32 18 34 (.reg 52)),
    ([0x22127006, 0x000C0034, 0x00000000], .sub .always .n32 18 34 (.reg 52)),
    ([0x2212700A, 0x00090034, 0x00000000], .mul .always .i64 18 34 (.reg 52)),
    ([0x2212701A, 0x000D0034, 0x00000000], .min .always .n64 18 34 (.reg 52)),
    ([0x2212701E, 0x00080034, 0x00000000], .max .always .i32 18 34 (.reg 52)),
    ([0x2211700E, 0x000C0033, 0x00000000], .mulhi .always .n32 17 34 (.reg 51)),
    ([0x2212A012, 0x00094634, 0x00000000], .mad ⟨true, 2⟩ .i64 18 34 (.reg 52) 70),
    ([0x23127016, 0x00084633, 0x00000000], .madw .always .i32 18 35 (.reg 51) 70),
    ([0x22127022, 0x00090000, 0x00000000], .abs .always .i64 18 34),
    ([0x23117026, 0x00080000, 0x00000000], .neg .always .i32 17 35),
    ([0x2212702A, 0x050D0034, 0x00000000], .lea .always .n64 18 34 (.reg 52) 5),
    ([0x22127042, 0x00830000, 0x80000001], .and .always .b32 18 34 (.imm 0x80000001)),
    ([0x22127046, 0x00840000, 0x80000001], .or .always .b64 18 34 (.imm 0x80000001)),
    ([0x2212704A, 0x00830000, 0x80000001], .xor .always .b32 18 34 (.imm 0x80000001)),
    ([0x22127052, 0x00840000, 0x80000001], .andn .always .b64 18 34 (.imm 0x80000001)),
    ([0x22127056, 0x00830000, 0x80000001], .shl .always .b32 18 34 (.imm 0x80000001)),
    ([0x2212705A, 0x00030034, 0x00000000], .shr .always .b32 18 34 (.reg 52)),
    ([0x2212705A, 0x00040034, 0x00000000], .shr .always .b64 18 34 (.reg 52)),
    ([0x2212705A, 0x00080034, 0x00000000], .shr .always .i32 18 34 (.reg 52)),
    ([0x2212705A, 0x000C0034, 0x00000000], .shr .always .n32 18 34 (.reg 52)),
    ([0x2212705A, 0x00090034, 0x00000000], .shr .always .i64 18 34 (.reg 52)),
    ([0x2212705A, 0x000D0034, 0x00000000], .shr .always .n64 18 34 (.reg 52)),
    ([0x2212704E, 0x00040000, 0x00000000], .not .always .b64 18 34),
    ([0x2311705E, 0x00030033, 0x00000000], .rot .always 17 35 (.reg 51)),
    ([0x22127062, 0x00040000, 0x00000000], .popc .always .b64 18 34),
    ([0x23117066, 0x00030000, 0x00000000], .clz .always .b32 17 35),
    ([0x2311706A, 0x00030000, 0x00000000], .brev .always 17 35),
    ([0x2311706E, 0x000C4733, 0x00000000], .bfe .always .n32 17 35 (.reg 51) 71),
    ([0x23117072, 0x00034733, 0x00000000], .bfi .always 17 35 (.reg 51) 71),
    ([0x22127077, 0x00840600, 0x00000000, 0x9ABCDEF0, 0x12345678], .sel .always .b64 18 34 (.lit 0x123456789ABCDEF0) 6),
    ([0x0011707A, 0x00030033, 0x00000000], .mov .always .b32 17 (.reg 51))] = true := by decide +kernel

/-- R81: conditions and predicates. -/
theorem test_decode_setp : decodesTo [
    ([0x2205707E, 0x000D0034, 0x00000000], .setp .always (.int .eq .n64) 5 34 (.reg 52)),
    ([0x2305707E, 0x000E0033, 0x00000000], .setp .always (.fp .eq) 5 35 (.reg 51)),
    ([0x2205707E, 0x010D0034, 0x00000000], .setp .always (.int .ne .n64) 5 34 (.reg 52)),
    ([0x2305707E, 0x010E0033, 0x00000000], .setp .always (.fp .ne) 5 35 (.reg 51)),
    ([0x2205707E, 0x020D0034, 0x00000000], .setp .always (.int .lt .n64) 5 34 (.reg 52)),
    ([0x2305707E, 0x020E0033, 0x00000000], .setp .always (.fp .lt) 5 35 (.reg 51)),
    ([0x2205707E, 0x030D0034, 0x00000000], .setp .always (.int .le .n64) 5 34 (.reg 52)),
    ([0x2305707E, 0x030E0033, 0x00000000], .setp .always (.fp .le) 5 35 (.reg 51)),
    ([0x2205707E, 0x040D0034, 0x00000000], .setp .always (.int .gt .n64) 5 34 (.reg 52)),
    ([0x2305707E, 0x040E0033, 0x00000000], .setp .always (.fp .gt) 5 35 (.reg 51)),
    ([0x2205707E, 0x050D0034, 0x00000000], .setp .always (.int .ge .n64) 5 34 (.reg 52)),
    ([0x2305707E, 0x050E0033, 0x00000000], .setp .always (.fp .ge) 5 35 (.reg 51)),
    ([0x2305707E, 0x060E0033, 0x00000000], .setp .always .nan 5 35 (.reg 51)),
    ([0x2305707E, 0x070E0033, 0x00000000], .setp .always .num 5 35 (.reg 51)),
    ([0x2305707E, 0x00030033, 0x00000000], .setp .always (.bits false .b32) 5 35 (.reg 51)),
    ([0x2205707E, 0x01040034, 0x00000000], .setp .always (.bits true .b64) 5 34 (.reg 52)),
    ([0x030570A2, 0x00000006, 0x00000000], .pand .always 5 3 6),
    ([0x030570A6, 0x00000006, 0x00000000], .por .always 5 3 6),
    ([0x030570AA, 0x00000006, 0x00000000], .pxor .always 5 3 6),
    ([0x030570AE, 0x00000006, 0x00000000], .pandn .always 5 3 6),
    ([0x030570B2, 0x00000000, 0x00000000], .pmov .always 5 3),
    ([0x030510B6, 0x00000000, 0x00000000], .pnot ⟨false, 1⟩ 5 3)] = true := by decide +kernel

/-- R82. -/
theorem test_decode_float : decodesTo [
    ([0x23117102, 0x002F0033, 0x00000000], .fadd .always .fp16 .rz 17 35 (.reg 51)),
    ([0x23117106, 0x002F0033, 0x00000000], .fsub .always .fp16 .rz 17 35 (.reg 51)),
    ([0x2311710A, 0x002F0033, 0x00000000], .fmul .always .fp16 .rz 17 35 (.reg 51)),
    ([0x2311710E, 0x004E4733, 0x00000000], .fma .always .fp32 .ru 17 35 (.reg 51) 71),
    ([0x23117112, 0x00100033, 0x00000000], .fmin .always .bf16 17 35 (.reg 51)),
    ([0x23117116, 0x00100033, 0x00000000], .fmax .always .bf16 17 35 (.reg 51)),
    ([0x23117122, 0x00100033, 0x00000000], .fcsgn .always .bf16 17 35 (.reg 51)),
    ([0x2311711A, 0x000E0000, 0x00000000], .fabs .always .fp32 17 35),
    ([0x2311711E, 0x000E0000, 0x00000000], .fneg .always .fp32 17 35),
    ([0x23117126, 0x00EE0000, 0xFFFFFFFD], .fscale .always .rd 17 35 (.imm 0xFFFFFFFD)),
    ([0x2311712A, 0x000F4733, 0x00000000], .fclamp .always .fp16 .rne 17 35 (.reg 51) 71),
    ([0x2311712E, 0x00500000, 0x00000000], .frnd .always .bf16 .ru 17 35),
    ([0x23117132, 0x002E0000, 0x00000000], .frcp .always .rz 17 35),
    ([0x23117136, 0x002E0000, 0x00000000], .fsqrt .always .rz 17 35),
    ([0x2311713A, 0x002E0000, 0x00000000], .frsqrt .always .rz 17 35),
    ([0x2311713E, 0x002E0000, 0x00000000], .fexp2 .always .rz 17 35),
    ([0x23117142, 0x002E0000, 0x00000000], .flog2 .always .rz 17 35),
    ([0x23117146, 0x002E0000, 0x00000000], .fsin .always .rz 17 35),
    ([0x2311714A, 0x002E0000, 0x00000000], .fcos .always .rz 17 35),
    ([0x2311714E, 0x00704733, 0x00000000], .fdot2 .always .bf16 .rd 17 35 (.reg 51) 71),
    ([0x23117162, 0x00140033, 0x00000000], .lmul .always .lns6 .rne 17 35 (.reg 51)),
    ([0x23117166, 0x00354733, 0x00000000], .lmac .always .lns12 .rz 17 35 (.reg 51) 71)] = true := by decide +kernel

/-- R82: conversions and bytes. -/
theorem test_decode_convert : decodesTo [
    ([0x23117182, 0x00480E00, 0x00000000], .cvt .always .i32 .fp32 .ru 17 35),
    ([0x23117182, 0x004C0E00, 0x00000000], .cvt .always .n32 .fp32 .ru 17 35),
    ([0x22117182, 0x004E0900, 0x00000000], .cvt .always .fp32 .i64 .ru 17 34),
    ([0x22117182, 0x004F0900, 0x00000000], .cvt .always .fp16 .i64 .ru 17 34),
    ([0x22117182, 0x00500900, 0x00000000], .cvt .always .bf16 .i64 .ru 17 34),
    ([0x23127182, 0x000D0F00, 0x00000000], .cvt .always .n64 .fp16 .rne 18 35),
    ([0x23117186, 0x002F0033, 0x00000000], .cvtp .always .fp16 .rz 17 35 (.reg 51)),
    ([0x2311718A, 0x01100000, 0x00000000], .cvtx .always .bf16 .rne 17 35 1),
    ([0x2311718E, 0x01310033, 0x00000000], .pk8 .always .fp8e4 .rz 17 35 (.reg 51) 1),
    ([0x23117192, 0x03110000, 0x00000000], .unp8 .always .fp8e4 17 35 3),
    ([0x2311718E, 0x01320033, 0x00000000], .pk8 .always .fp8e5 .rz 17 35 (.reg 51) 1),
    ([0x23117192, 0x03120000, 0x00000000], .unp8 .always .fp8e5 17 35 3),
    ([0x2311718E, 0x01260033, 0x00000000], .pk8 .always .i8 .rz 17 35 (.reg 51) 1),
    ([0x23117192, 0x03060000, 0x00000000], .unp8 .always .i8 17 35 3),
    ([0x2311718E, 0x012A0033, 0x00000000], .pk8 .always .n8 .rz 17 35 (.reg 51) 1),
    ([0x23117192, 0x030A0000, 0x00000000], .unp8 .always .n8 17 35 3),
    ([0x23117196, 0x02130033, 0x00000000], .pk4 .always .fp4 .rne 17 35 (.reg 51) 2),
    ([0x2311719A, 0x07130000, 0x00000000], .unp4 .always .fp4 17 35 7),
    ([0x23117196, 0x02050033, 0x00000000], .pk4 .always .i4 .rne 17 35 (.reg 51) 2),
    ([0x2311719A, 0x07050000, 0x00000000], .unp4 .always .i4 17 35 7),
    ([0x2311719E, 0x00150000, 0x00000000], .lenc .always .lns12 17 35),
    ([0x231171A2, 0x00140000, 0x00000000], .ldec .always .lns6 17 35),
    ([0x231171A6, 0x00140000, 0x00000000], .scal .always .lns6 17 35),
    ([0x231171A6, 0x00130000, 0x00000000], .scal .always .fp4 17 35),
    ([0x231171A6, 0x00110000, 0x00000000], .scal .always .fp8e4 17 35),
    ([0x231171A6, 0x00120000, 0x00000000], .scal .always .fp8e5 17 35),
    ([0x221171C2, 0x00004833, 0x00000000], .perm .always 17 34 (.reg 51) 72),
    ([0x231171C6, 0x00004733, 0x00000000], .prmt .always 17 35 (.reg 51) 71),
    ([0x231171CA, 0x00000000, 0x00000000], .bswp .always 17 35),
    ([0x231171CE, 0x040A0033, 0x00000000], .bcmp .always .gt 17 35 (.reg 51)),
    ([0x231171D2, 0x000A0033, 0x00000000], .bsub .always 17 35 (.reg 51))] = true := by decide +kernel

/-- R83. -/
theorem test_decode_memory : decodesTo [
    ([0x23957202, 0x11000000, 0x00000ABC], .openLine .always .r 1 9 5 0xABC 35),
    ([0x23957202, 0x22000000, 0x00000ABC], .openLine .always .w 2 9 5 0xABC 35),
    ([0x23957202, 0x33000000, 0x00000ABC], .openLine .always .rw 3 9 5 0xABC 35),
    ([0x23957206, 0x00000000, 0x00000000], .sopen .always 9 5 35),
    ([0x6900720A, 0x00000000, 0x00000000], .recallLine .always ⟨9, some 2⟩),
    ([0x0900720E, 0x00000000, 0x00000000], .flush .always ⟨9, none⟩),
    ([0x59147212, 0x00000033, 0x0000007F], .ld .always .b 20 ⟨9, some 1⟩ 51 0x7F),
    ([0x09147216, 0x00000033, 0x00000041], .st .always .b ⟨9, none⟩ 51 20 0x41),
    ([0x59147212, 0x01000033, 0x0000007F], .ld .always .h 20 ⟨9, some 1⟩ 51 0x7F),
    ([0x09147216, 0x01000033, 0x00000041], .st .always .h ⟨9, none⟩ 51 20 0x41),
    ([0x59147212, 0x02000033, 0x0000007F], .ld .always .w 20 ⟨9, some 1⟩ 51 0x7F),
    ([0x09147216, 0x02000033, 0x00000041], .st .always .w ⟨9, none⟩ 51 20 0x41),
    ([0x59147212, 0x03000033, 0x0000007F], .ld .always .d 20 ⟨9, some 1⟩ 51 0x7F),
    ([0x09147216, 0x03000033, 0x00000041], .st .always .d ⟨9, none⟩ 51 20 0x41),
    ([0x59147212, 0x04000033, 0x0000007F], .ld .always .x 20 ⟨9, some 1⟩ 51 0x7F),
    ([0x09147216, 0x04000033, 0x00000041], .st .always .x ⟨9, none⟩ 51 20 0x41),
    ([0x0911721A, 0x000E0033, 0x00000003], .lde .always .fp32 17 ⟨9, none⟩ 51 3),
    ([0x0911721A, 0x000F0033, 0x00000003], .lde .always .fp16 17 ⟨9, none⟩ 51 3),
    ([0x0911721A, 0x00100033, 0x00000003], .lde .always .bf16 17 ⟨9, none⟩ 51 3),
    ([0x0911721A, 0x00080033, 0x00000003], .lde .always .i32 17 ⟨9, none⟩ 51 3),
    ([0x7911721E, 0x00080033, 0x00000005], .ste .always .i32 ⟨9, some 3⟩ 51 17 5),
    ([0x09127222, 0x000D2233, 0x00000000], .atom .always (.red (.arith .add (.int .n64))) 18 ⟨9, none⟩ 51 34),
    ([0x09127222, 0x010D2233, 0x00000000], .atom .always (.red (.arith .min (.int .n64))) 18 ⟨9, none⟩ 51 34),
    ([0x09127222, 0x020D2233, 0x00000000], .atom .always (.red (.arith .max (.int .n64))) 18 ⟨9, none⟩ 51 34),
    ([0x09117226, 0x03030033, 0x00000000], .red .always (.bits .and .b32) ⟨9, none⟩ 51 17),
    ([0x09117226, 0x04030033, 0x00000000], .red .always (.bits .or .b32) ⟨9, none⟩ 51 17),
    ([0x09117226, 0x05030033, 0x00000000], .red .always (.bits .xor .b32) ⟨9, none⟩ 51 17),
    ([0x09117222, 0x06032333, 0x00000000], .atom .always (.exch .b32) 17 ⟨9, none⟩ 51 35),
    ([0x09127222, 0x07042433, 0x00000000], .atom .always (.cas .b64) 18 ⟨9, none⟩ 51 36),
    ([0x2300722A, 0x00000000, 0x00000123], .pfd .always 0x123 35)] = true := by decide +kernel

/-- R84, R85. -/
theorem test_decode_control : decodesTo [
    ([0x00007302, 0x00000000, 0xFFFFFFF0], .bra .always 0xFFFFFFF0),
    ([0x00007306, 0x00000000, 0x00000040], .call .always 0x40),
    ([0x00007307, 0x01000000, 0x00000000, 0x00000ABC, 0x00000000], .callImport .always 0xABC),
    ([0x2300730A, 0x00000000, 0x00000000], .callx .always 35),
    ([0x2300730E, 0x00000000, 0x00000000], .jmpx .always 35),
    ([0x23007312, 0x00000000, 0x00000000], .ret .always 35),
    ([0x0000B316, 0x00000000, 0x00000000], .exit ⟨true, 3⟩),
    ([0x0000731A, 0x00000000, 0x00000000], .nop .always),
    ([0x0005731E, 0x00000033, 0x00000000], .join .always 5 (.reg 51)),
    ([0x00057322, 0x00800000, 0x00000009], .leave .always 5 (.imm 9)),
    ([0x23057326, 0x00000033, 0x00000000], .tbar .always 5 35 (.reg 51)),
    ([0x2212732A, 0x01090033, 0x00000000], .tred .always (.arith .min (.int .i64)) 18 34 (.reg 51)),
    ([0x2311732A, 0x05030033, 0x00000000], .tred .always (.bits .xor) 17 35 (.reg 51)),
    ([0x2311732E, 0x00034733, 0x00000000], .tbcast .always 17 35 (.reg 51) 71),
    ([0x23117382, 0x00030633, 0x00000000], .shfl .always .idx 17 35 (.reg 51) 6),
    ([0x23117382, 0x01030633, 0x00000000], .shfl .always .up 17 35 (.reg 51) 6),
    ([0x23117382, 0x02030633, 0x00000000], .shfl .always .down 17 35 (.reg 51) 6),
    ([0x23117382, 0x03030633, 0x00000000], .shfl .always .xor 17 35 (.reg 51) 6),
    ([0x03057386, 0x00000000, 0x00000000], .vote .always (.all 5) 3),
    ([0x03057386, 0x01000000, 0x00000000], .vote .always (.any 5) 3),
    ([0x03127386, 0x02000000, 0x00000000], .vote .always (.ball 18) 3),
    ([0x03057386, 0x03000000, 0x00000000], .vote .always (.eq 5) 3),
    ([0x2312738A, 0x000E0000, 0x00000000], .matchLanes .always .fp32 18 35),
    ([0x2312738E, 0x00030000, 0x00000000], .confl .always 18 35),
    ([0x23117392, 0x020C0000, 0x00000000], .cred .always (.arith .max .n32) 17 35),
    ([0x23117396, 0x14030000, 0x00000000], .cscan .always (.bits .or) true 17 35),
    ([0x0005739A, 0x00000000, 0x00000000], .elect .always 5)] = true := by decide +kernel

/-- R86, R87. -/
theorem test_decode_system : decodesTo [
    ([0x23007402, 0x00000000, 0x00000000], .mma .always 35),
    ([0x23007406, 0x00000000, 0x00000000], .mload .always 35),
    ([0x223F740A, 0x00000000, 0x00000000], .talloc .always 0x3F 34),
    ([0x002A740E, 0x00000000, 0x00000000], .tfree .always 0x2A),
    ([0x2A127412, 0x00000000, 0x00000000], .tstat .always 18 0x2A),
    ([0x23007416, 0x00000000, 0x00000000], .copy .always 35),
    ([0x0000741A, 0x00001500, 0x03002001], .wait .always ⟨some 1, none, some 2, none, some 3⟩),
    ([0x0000741A, 0x00000A00, 0x00140100], .wait .always ⟨none, some 4, none, some 5, none⟩),
    ([0x0912741E, 0x000D0033, 0x00000000], .sig .always .n64 ⟨9, none⟩ 51 18),
    ([0x09117422, 0x000C0033, 0x00000000], .sigw .always .n32 ⟨9, none⟩ 51 17),
    ([0x23057426, 0x00000033, 0x00000000], .stkgive .always 5 35 (.reg 51)),
    ([0x2305742A, 0x00000000, 0x00000000], .stkown .always 5 35),
    ([0x2200742E, 0x00000000, 0x00000000], .tmset .always 34),
    ([0x00007482, 0x00000000, 0xDEADBEEF], .trap .always 0xDEADBEEF),
    ([0x00007486, 0x00000000, 0x00000000], .rteRetry .always),
    ([0x00007486, 0x01000000, 0x00000000], .rteSkip .always),
    ([0x00007486, 0x02000000, 0x00000000], .rteExit .always),
    ([0x0000748A, 0x00000000, 0x0000004D], .bkpt .always 77),
    ([0x22087492, 0x00000000, 0x00000000], .mts .always .tcmp 34),
    ([0x23007496, 0x00000000, 0x00000000], .icinv .always 35),
    ([0x2300749A, 0x00000000, 0x00000000], .pfi .always 35),
    ([0x0000749E, 0x00000000, 0x00000000], .pause .always),
    ([0x001274A2, 0x00000000, 0x00000ABC], .hld .always .base 18 0xABC),
    ([0x001274A2, 0x01000000, 0x00000ABC], .hld .always .len 18 0xABC),
    ([0x001274A2, 0x02000000, 0x00000ABC], .hld .always .flags 18 0xABC),
    ([0x230074A6, 0x00000033, 0x00000000], .seamld .always 35 51),
    ([0x23127F96, 0x00064733, 0x12345678], .xseam .always 37 18 35 51 71 6 0x12345678)] = true := by decide +kernel

/-- R31: the numbers of the special registers. -/
theorem test_decode_special : decodesTo [
    ([0x0012748E, 0x00000000, 0x00000000], .mfs .always 18 .item),
    ([0x0112748E, 0x00000000, 0x00000000], .mfs .always 18 .lane),
    ([0x0212748E, 0x00000000, 0x00000000], .mfs .always 18 .crew),
    ([0x0312748E, 0x00000000, 0x00000000], .mfs .always 18 .quad),
    ([0x0412748E, 0x00000000, 0x00000000], .mfs .always 18 .core),
    ([0x0512748E, 0x00000000, 0x00000000], .mfs .always 18 .die),
    ([0x0612748E, 0x00000000, 0x00000000], .mfs .always 18 .age),
    ([0x0712748E, 0x00000000, 0x00000000], .mfs .always 18 .clock),
    ([0x0812748E, 0x00000000, 0x00000000], .mfs .always 18 .tcmp),
    ([0x0912748E, 0x00000000, 0x00000000], .mfs .always 18 .team),
    ([0x0A12748E, 0x00000000, 0x00000000], .mfs .always 18 .ostat),
    ([0x0B12748E, 0x00000000, 0x00000000], .mfs .always 18 .tpc),
    ([0x0C12748E, 0x00000000, 0x00000000], .mfs .always 18 .tcause),
    ([0x0D12748E, 0x00000000, 0x00000000], .mfs .always 18 .tval)] = true := by decide +kernel

/-- R206 to R211: control store words. -/
theorem test_decode_microOps : ([
    (0x0000000000000000, .uopEnd),
    (0x06C7000089ABCDEF, .uopAdd 5 8 14 0x89ABCDEF),
    (0x0AC7000089ABCDEF, .uopSub 5 8 14 0x89ABCDEF),
    (0x0EC7000089ABCDEF, .uopMul 5 8 14 0x89ABCDEF),
    (0x16C7000089ABCDEF, .uopAnd 5 8 14 0x89ABCDEF),
    (0x1AC7000089ABCDEF, .uopOr 5 8 14 0x89ABCDEF),
    (0x1EC7000089ABCDEF, .uopXor 5 8 14 0x89ABCDEF),
    (0x22C7000089ABCDEF, .uopShl 5 8 14 0x89ABCDEF),
    (0x12C4F00089ABCDEF, .uopMad 5 8 9 14 0x89ABCDEF),
    (0x26C7010089ABCDEF, .uopShr true 5 8 14 0x89ABCDEF),
    (0x2AC4F00089ABCDEF, .uopSel 5 8 9 14 0x89ABCDEF),
    (0x2EC7000089ABCDEF, .uopCmp .eq 5 8 14 0x89ABCDEF),
    (0x2EC7010089ABCDEF, .uopCmp .ne 5 8 14 0x89ABCDEF),
    (0x2EC7020089ABCDEF, .uopCmp .ltI 5 8 14 0x89ABCDEF),
    (0x2EC7030089ABCDEF, .uopCmp .leI 5 8 14 0x89ABCDEF),
    (0x2EC7040089ABCDEF, .uopCmp .ltN 5 8 14 0x89ABCDEF),
    (0x2EC7050089ABCDEF, .uopCmp .leN 5 8 14 0x89ABCDEF),
    (0x2EC7060089ABCDEF, .uopCmp .ltF 5 8 14 0x89ABCDEF),
    (0x2EC7070089ABCDEF, .uopCmp .leF 5 8 14 0x89ABCDEF),
    (0x42C7004089ABCDEF, .uopFadd .rz 5 8 14 0x89ABCDEF),
    (0x46C7008089ABCDEF, .uopFmul .ru 5 8 14 0x89ABCDEF),
    (0x4AC4F0C089ABCDEF, .uopFma .rd 5 8 9 14 0x89ABCDEF),
    (0x4EC7000089ABCDEF, .uopFmin 5 8 14 0x89ABCDEF),
    (0x52C7000089ABCDEF, .uopFmax 5 8 14 0x89ABCDEF),
    (0x56C7010089ABCDEF, .uopLmul .lns12 5 8 14 0x89ABCDEF),
    (0x5AC0060000000000, .uopLtab .lns6 3 5 8 0),
    (0x5AC0030000000000, .uopLtab .lns12 1 5 8 0),
    (0x62C0004000000000, .uopCvt (.i32fp32 .rz) 5 8 0 0),
    (0x62C0014000000000, .uopCvt (.fp32i32 .rz) 5 8 0 0),
    (0x62C0024000000000, .uopCvt (.n32fp32 .rz) 5 8 0 0),
    (0x62C0034000000000, .uopCvt (.fp32n32 .rz) 5 8 0 0),
    (0x62C0040000000000, .uopCvt .lenc6 5 8 0 0),
    (0x62C0050000000000, .uopCvt .lenc12 5 8 0 0),
    (0x62C0060000000000, .uopCvt .scal6 5 8 0 0),
    (0x62C4874000000000, .uopCvt (.fscale .rz) 5 8 9 0),
    (0x66C4808000000000, .uopPack .bf16 .ru 5 8 9 0),
    (0x66C4818000000000, .uopPack .fp16 .ru 5 8 9 0),
    (0x66C4828000000000, .uopPack .fp8e4 .ru 5 8 9 0),
    (0x66C4838000000000, .uopPack .fp8e5 .ru 5 8 9 0),
    (0x72C0000000005569, .uopLld 5 8 0x55 ⟨9, some 2⟩),
    (0x7444800000005509, .uopLst 8 9 0x55 ⟨9, none⟩),
    (0x7AC7030089ABCDEF, .uopShfl .xor 5 8 14 0x89ABCDEF),
    (0x804001000000003F, .uopBrf true 8 0x3F),
    (0x8440010000001510, .uopLoop true 8 0x15 16),
    (0x8400000000001503, .uopLoop false 0 0x15 3),
    (0x8870000089ABCDEF, .uopWr .vd 14 0x89ABCDEF),
    (0x8840010000000000, .uopWr .vdh 8 0),
    (0x8840020000000000, .uopWr .pd 8 0)] : List (W64 × Instr)).all (fun e => decodeUop e.1 == some e.2) = true := by decide +kernel

/-! Ill-formed terms, one for each check. -/

/-- The checks refuse: a guard 0b1111; an odd pair; an `.x` register that is no multiple of 4; a literal wider than its
operand; a branch offset that is no multiple of 4; a `cvt` to its own type; a `wait` of no class; an `mts` of a read-only
register; a constant that no select reads; an element beyond a word; a bound beyond 16. -/
theorem test_illFormed : [
    Instr.nop ⟨true, 7⟩, .add .always .i64 3 4 (.reg 6), .ld .always .x 6 ⟨0, none⟩ 1 0,
    .add .always .i32 1 2 (.lit 0x100000000), .bra .always 2, .call .always 1, .cvt .always .fp32 .fp32 .rne 1 2,
    .wait .always ⟨none, none, none, none, none⟩, .mts .always .clock 2, .atom .always (.cas .b64) 2 ⟨0, none⟩ 1 6,
    .uopAdd 0 1 2 5, .uopLtab .lns12 2 0 1 0, .uopCvt .lenc6 0 1 2 0, .uopLoop false 3 5 4, .uopLoop true 3 5 17].all
      (fun i => !i.wf) = true := by decide +kernel

/-! States. -/

/-- A bind of context 3 with 256 registers, two crews, every right, and no privilege. -/
def bind0 : Bind :=
  { Bind.free with state := .running, regs := 15, floor := 16, pool := 4, crews := 3, ctx := 3, asid := 3, use := 0xFF, give := 0xFF }
/-- Slot 0 at code reference 0x01000010. -/
def slot0 : Slot :=
  { Slot.reset with occupied := true, used := true, item := 77, pc := 0x01000010, regs := [(1, 5), (2, 3), (3, 0x12345678), (4, 7)], preds := 0x02 }
/-- A code root of context 3 with one import entry, at 0xBE0200000, which memory gives as 0x02000040. -/
def root0 : BitVec 256 := BitVec.ofNat 256 (0xBE0010000 + 0xBE0200000 * 2 ^ 128)
def core0 : Core := { Core.reset with slots := [(0, slot0)], binds := [(0, bind0)], roots := [(3, root0)] }
/-- The device ready, core 0 with slot 0 about to run an instruction of 12 bytes. -/
def s0 : State :=
  { State.reset with phase := 5, tick := 300, cores := [(0, core0)], nextId := 9,
                     mem := [(0xBE0200000, 0x40), (0xBE0200003, 0x02), (0xBE0200007, 0x80)],
                     cur := some { core := 0, quad := 0, slots := [0], pc := 0x01000010, len := 12 } }
/-- The same with slot 0 or core 0 changed. -/
def sOn (f : Slot → Slot) : State := s0.onSlot 0 0 f
def cOn (f : Core → Core) : State := s0.onCore 0 f
/-- Two slots of crew 0 in the bundle, slot 1 with other registers. -/
def s2 : State :=
  { s0.setSlot 0 1 { slot0 with regs := [(1, 6), (2, 3), (3, 9)], preds := 0x00 } with
    cur := some { core := 0, quad := 0, slots := [0, 1], pc := 0x01000010, len := 12 } }
/-- A step answers a next state, and it satisfies p. -/
def goes (o : Host.Outcome State Fault Refusal) (p : State → Bool) : Bool :=
  match o with
  | .next t => p t
  | _ => false
/-- The states are equal. -/
def gives (o : Host.Outcome State Fault Refusal) (t : State) : Bool := goes o fun u => u == t

/-- The hypotheses of the lane-wise statements hold of `s2`, those of the statements about one lane of `s0`. -/
theorem wit_clean : s2.bundle.slots.Nodup ∧ s2.CleanFor .always [1, 2, 3, 4] := by
  refine ⟨by decide, ?_⟩
  unfold State.CleanFor
  decide +kernel
theorem wit_runs : s0.Runs 0 0 12 .always [1, 2, 3, 4, 10] := by
  unfold State.Runs State.Alone
  decide +kernel
theorem wit_poisoned : (sOn fun t => t.poisonReg 1).Alone 0 0 12 ∧ ((sOn fun t => t.poisonReg 1).slot 0 0).guard .always = true ∧
    [1, 2].find? (fun q => ((sOn fun t => t.poisonReg 1).slot 0 0).poisoned q) = some 1 := by
  unfold State.Alone
  decide +kernel
theorem wit_falseGuard : s0.Alone 0 0 12 ∧ (s0.slot 0 0).guard ⟨true, 1⟩ = false ∧ (s0.slot 0 0).guard ⟨false, 2⟩ = false := by
  unfold State.Alone
  decide +kernel
theorem wit_safe : s0.Safe := by
  unfold State.Safe
  decide +kernel
/-- Where a lane-by-lane statement starts from. -/
theorem wit_bundle : s2.cur = some { core := 0, quad := 0, slots := 0 :: [1], pc := 0x01000010, len := 12 } := by decide +kernel
/-- A state of which a step that answers is known. -/
theorem wit_step : s0.Safe ∧ goes (step s0) (fun t => t.phase == 5) = true ∧ (Instr.nop .always).isDeviceStep = false ∧
    goes (exec (.nop .always) s0) (fun t => t.mem == s0.mem) = true := by
  refine ⟨wit_safe, ?_⟩
  decide +kernel

/-! Arithmetic: expected values by hand from R95 to R117. -/

/-- Slot 0's register r after an instruction. -/
def regAfter (i : Instr) (s : State) (r : Nat) : W32 :=
  match exec i s with
  | .next t => (t.slot 0 0).reg r
  | _ => 0xDEAD
def predAfter (i : Instr) (s : State) (p : PredNo) : Bool := goes (exec i s) fun t => (t.slot 0 0).pred p
/-- `v1` and `v2` set. -/
def sv (a b : W32) : State := sOn fun t => { t with regs := [(1, a), (2, b), (4, 0), (5, 0)] }

theorem test_add_wraps : regAfter (.add .always .i32 10 1 (.reg 2)) (sv 0xFFFFFFFF 2) 10 = 1 := by decide +kernel
theorem test_sub_negative : regAfter (.sub .always .n32 10 1 (.reg 2)) (sv 1 2) 10 = 0xFFFFFFFF := by decide +kernel
theorem test_mulhi_signed : regAfter (.mulhi .always .i32 10 1 (.reg 2)) (sv 0xFFFFFFFF 3) 10 = 0xFFFFFFFF ∧
    regAfter (.mulhi .always .n32 10 1 (.reg 2)) (sv 0xFFFFFFFF 3) 10 = 2 := by decide +kernel
theorem test_mad_destinationIsSource : regAfter (.mad .always .i32 1 1 (.reg 2) 1) (sv 5 7) 1 = 40 := by decide +kernel
theorem test_abs_leastNumber : regAfter (.abs .always .i32 10 1) (sv 0x80000000 0) 10 = 0x80000000 := by decide +kernel
theorem test_add64_carries : regAfter (.add .always .n64 10 2 (.imm 1)) (sOn fun t => { t with regs := [(2, 0xFFFFFFFF), (3, 7)] }) 11 = 8 := by
  decide +kernel
theorem test_min_signs : regAfter (.min .always .i32 10 1 (.reg 2)) (sv 0xFFFFFFFF 1) 10 = 0xFFFFFFFF ∧
    regAfter (.min .always .n32 10 1 (.reg 2)) (sv 0xFFFFFFFF 1) 10 = 1 := by decide +kernel
theorem test_lea_scale : regAfter (.lea .always .n32 10 1 (.reg 2) 7) (sv 1 2) 10 = 257 := by decide +kernel
theorem test_shl_fullWidth : regAfter (.shl .always .b32 10 1 (.reg 2)) (sv 1 32) 10 = 0 ∧
    regAfter (.shl .always .b32 10 1 (.reg 2)) (sv 1 31) 10 = 0x80000000 := by decide +kernel
theorem test_shr_signs : regAfter (.shr .always .i32 10 1 (.reg 2)) (sv 0x80000000 32) 10 = 0xFFFFFFFF ∧
    regAfter (.shr .always .b32 10 1 (.reg 2)) (sv 0x80000000 31) 10 = 1 := by decide +kernel
theorem test_rot_thirtyThree : regAfter (.rot .always 10 1 (.reg 2)) (sv 0x80000001 33) 10 = 3 := by decide +kernel
theorem test_clz_zero : regAfter (.clz .always .b32 10 1) (sv 0 0) 10 = 32 ∧ regAfter (.popc .always .b32 10 1) (sv 0xF0 0) 10 = 4 := by decide +kernel
theorem test_andn_operandOrder : regAfter (.andn .always .b32 10 1 (.reg 2)) (sv 0xF 0x5) 10 = 0xA := by decide +kernel
theorem test_bfe_sign : regAfter (.bfe .always .i32 10 1 (.imm 4) 2) (sv 0x80 4) 10 = 0xFFFFFFF8 ∧
    regAfter (.bfe .always .n32 10 1 (.imm 4) 2) (sv 0x80 4) 10 = 8 := by decide +kernel
theorem test_setp_nan : predAfter (.setp .always (.fp .ne) 3 1 (.reg 2)) (sv 0x7FC00000 0) 3 = true ∧
    predAfter (.setp .always (.fp .ge) 3 1 (.reg 2)) (sv 0x7FC00000 0) 3 = false := by decide +kernel
theorem test_setp_signs : predAfter (.setp .always (.int .lt .i32) 3 1 (.reg 2)) (sv 0xFFFFFFFF 0) 3 = true ∧
    predAfter (.setp .always (.int .lt .n32) 3 1 (.reg 2)) (sv 0xFFFFFFFF 0) 3 = false := by decide +kernel
theorem test_pmov_p7Discarded : gives (exec (.pnot .always 7 7) s0) (s0.setSlot 0 0 (slot0.goto 0x0100001C)) = true := by decide +kernel
/-- 1 + 2^−24 rounds to 1 to nearest, and to the next code upward. -/
theorem test_fadd_rounding : regAfter (.fadd .always .fp32 .rne 10 1 (.reg 2)) (sv 0x3F800000 0x33800000) 10 = 0x3F800000 ∧
    regAfter (.fadd .always .fp32 .ru 10 1 (.reg 2)) (sv 0x3F800000 0x33800000) 10 = 0x3F800001 := by decide +kernel
/-- The largest number and half of its last place: past the threshold of R49; a little less stays. -/
theorem test_fadd_overflow : regAfter (.fadd .always .fp32 .rne 10 1 (.reg 2)) (sv 0x7F7FFFFF 0x73000000) 10 = 0x7F800000 ∧
    regAfter (.fadd .always .fp32 .rne 10 1 (.reg 2)) (sv 0x7F7FFFFF 0x72FFFFFF) 10 = 0x7F7FFFFF := by decide +kernel
theorem test_fma_oneRounding : regAfter (.fma .always .fp32 .rne 10 1 (.reg 1) 2)
    (sv 0x3F800001 0xBF800002) 10 = 0x28800000 := by decide +kernel
theorem test_fmin_zeros : regAfter (.fmin .always .fp32 10 1 (.reg 2)) (sv 0 0x80000000) 10 = 0x80000000 := by decide +kernel
theorem test_fsqrt_four : regAfter (.fsqrt .always .rne 10 1) (sv 0x40800000 0) 10 = 0x40000000 ∧
    regAfter (.frcp .always .rne 10 1) (sv 0x40000000 0) 10 = 0x3F000000 := by decide +kernel
theorem test_cvt_saturates : regAfter (.cvt .always .i32 .fp32 .rne 10 1) (sv 0x7F800000 0) 10 = 0x7FFFFFFF ∧
    regAfter (.cvt .always .i32 .fp32 .rne 10 1) (sv 0x40200000 0) 10 = 2 := by decide +kernel
theorem test_lenc_three : regAfter (.lenc .always .lns6 10 1) (sv 0x40400000 0) 10 = 0x16 := by decide +kernel
/-- Code 1025 is T12[1] · 2^−15 = 33,486 / 32,768; code 1024 is 1; every NaN is code 0. -/
theorem test_lns12_inverse : regAfter (.ldec .always .lns12 10 1) (sv 1025 0) 10 = 0x3F82CE00 ∧
    regAfter (.lenc .always .lns12 10 1) (sv 0x3F82CE00 0) 10 = 1025 ∧ regAfter (.lenc .always .lns12 10 1) (sv 0x3F800000 0) 10 = 1024 ∧
    regAfter (.lenc .always .lns12 10 1) (sv 0xFFC00001 0) 10 = 0 := by decide +kernel
theorem test_perm_bytes : regAfter (.perm .always 10 4 (.imm 0x0F080700) 2)
    (sOn fun t => { t with regs := [(2, 0x03020100), (3, 0x07060504), (4, 0x13121110), (5, 0x17161514)] }) 10 = 0x07001710 := by decide +kernel

/-! Steps, control flow, traps. -/

/-- A code line whose word at offset 0x10 is `c`, then zeros. -/
def codeLine (c : List W32) : CodeLine := { data := lineOfBytes (List.replicate 16 0 ++ bytesOfWords c), len := 0x80 }
/-- Slot 0 with its code line fetched, and the turn of its quadrant. -/
def fetched (c : List W32) : State :=
  { (sOn fun t => { t with stay := some (0x01000000, codeLine c) }) with turn := .issue 0 0, cur := none }
/-- `add.i32 v10, v1, v2` by R75 and R81. -/
def addWords : List W32 := [0x010A7002, 0x00080002, 0]

/-- What `StepRunsInstruction` assumes of an issue: met by a slot at an `add`. -/
theorem wit_issue : let s := fetched addWords
    s.turn = .issue 0 0 ∧ s.phase = 0x05 ∧ s.coreDue 0 = false ∧ s.mayIssue 0 0 = true ∧ s.nextBundle 0 0 = some [0] ∧
      (s.slot 0 0).stay = some (0x01000000, codeLine addWords) ∧
      (match decode (State.lineBytes (codeLine addWords).data (s.slot 0 0).pc) with
        | .ok i => i == .add .always .i32 10 1 (.reg 2) && i.wf && (s.decodeFault 0 0 i).isNone
        | .error _ => false) = true ∧
      State.encLength (codeLine addWords).data (s.slot 0 0).pc = 12 ∧
      goes (step s) (fun t => (t.slot 0 0).reg 10 == 8 && (t.slot 0 0).pc == 0x0100001C && t.turns == 1) = true := by
  decide +kernel
/-- An all-zero word is OPCODE, precise at the word. -/
theorem wit_issue_illegal : let s := fetched [0]
    s.nextBundle 0 0 = some [0] ∧ s.mayIssue 0 0 = true ∧ s.coreDue 0 = false ∧
      (match decode (State.lineBytes (codeLine [0]).data (s.slot 0 0).pc) with
        | .ok _ => false
        | .error d => d == .opcode) = true ∧
      goes (step s) (fun t => (t.slot 0 0).tcause == 1 && (t.slot 0 0).tval == 3 && (t.slot 0 0).tpc == 0x01000010 &&
        (t.slot 0 0).pc == 0x02000040) = true := by
  decide +kernel
/-- A register at or above `.regs` is detail REGISTER. -/
theorem wit_issue_register : let s := (fetched addWords).onCore 0 fun k => k.onBind 0 fun b => { b with regs := 0 }
    let w : List W32 := [0x01107002, 0x00080002, 0]
    let u := s.onSlot 0 0 fun t => { t with stay := some (0x01000000, codeLine w) }
    u.nextBundle 0 0 = some [0] ∧ u.decodeFault 0 0 (.add .always .i32 16 1 (.reg 2)) = some .register ∧
      goes (step u) (fun t => (t.slot 0 0).tcause == 1 && (t.slot 0 0).tval == 7) = true := by
  decide +kernel
theorem wit_turns : (step { s0 with turn := .tick }) = .next { s0 with tick := 301, time := 1, turn := Config.nextTurn 0, turns := 1 } ∧
    (Instr.plimWrite ⟨0, 1, 700⟩).isDeviceStep = true ∧
    step { s0 with turn := .event (.plimWrite ⟨0, 1, 700⟩) } =
      .next { ({ s0 with plim := 700 }).noteOuter 0 1 0 [] with turn := Config.nextTurn 0, turns := 1 } := by
  refine ⟨rfl, rfl, rfl⟩
/-- A micro-op's turn: run in a cycle in which the core has issued nothing, passed over in one in which it has. -/
def sUop (n : Nat) : State :=
  { ((sOn fun t => { t with seam := some { group := 6, start := 90, words := [0], idx := 0, q := List.replicate 8 0, srcs := List.replicate 6 0,
                                           a := 1, b := 2, c := 3, d := 4, p := 7, buf := [], lo := none, hi := none, pr := none, loop := none } }).onCore 0
      fun k => { k with issueCycle := n, issueCount := 1 }) with turn := .uop 0 0 }
theorem wit_uopTurn : (sUop 99).issuedAny 0 = false ∧ (sUop 100).issuedAny 0 = true ∧ decodeUop 0 = some .uopEnd ∧
    goes (step (sUop 99)) (fun t => (t.slot 0 0).seam == none) = true ∧ step (sUop 100) = .next (sUop 100).nextTurn := by
  refine ⟨?_, ?_, ?_, ?_, rfl⟩ <;> decide +kernel

theorem test_bra_backward : gives (exec (.bra .always 0xFFFFFFF0) s0) (s0.setSlot 0 0 { slot0 with pc := 0x01000000 }) = true := by
  decide +kernel
theorem test_bra_wrapsInObject : s0.decodeFault 0 0 (.bra .always 0xFFFFFFEC) = some .target ∧
    s0.decodeFault 0 0 (.bra .always 0xFFFFFFF0) = none ∧ s0.decodeFault 0 0 (.bra .always 0xFFFFEC) = none ∧
    s0.decodeFault 0 0 (.call .always 0xFFFFF0) = some .target := by decide +kernel
theorem test_call_links : goes (exec (.call .always 0x20) s0) (fun t => (t.slot 0 0).pc == 0x01000030 && (t.slot 0 0).reg 253 == 0x0100001C) = true := by
  decide +kernel
theorem test_callx_targets : gives (exec (.jmpx .always 3) (sOn fun t => { t with regs := [(3, 0x05000044)] }))
    ((sOn fun t => { t with regs := [(3, 0x05000044)] }).onSlot 0 0 fun t => { t with pc := 0x05000044 }) = true ∧
    goes (exec (.callx .always 1) s0) (fun t => (t.slot 0 0).tcause == 1 && (t.slot 0 0).tval == 8) = true := by decide +kernel
theorem test_callImport_entries : s0.importEntry 0 3 0 = .ok 0x02000040 ∧ s0.importEntry 0 3 1 = .invalid ∧
    goes (exec (.callImport .always 0) s0) (fun t => (t.slot 0 0).pc == 0x02000040 && (t.slot 0 0).reg 253 == 0x0100001C) = true := by
  decide +kernel
/-- `exit` retires a slot with nothing outstanding, and holds one with an open in flight. -/
theorem wit_exit : (s0.core 0).halts = [] ∧ (s0.core 0).teamsOf 0 = [] ∧
    goes (exec (.exit .always) s0) (fun t => !(t.slot 0 0).occupied && (t.slot 0 0).regs == slot0.regs && t.mem == s0.mem) = true ∧
    goes (exec (.exit .always) (sOn fun t => t.enter .o 4 false)) (fun t => (t.slot 0 0).hold == .exiting && (t.slot 0 0).occupied &&
      (t.slot 0 0).opsO == [{ id := 4, done := false, returns := false, pred := none }]) = true ∧
    goes (exec (.exitRetire 0 0) (sOn fun t => { t with hold := .exiting })) (fun t => !(t.slot 0 0).occupied) = true ∧
    gives (exec (.exitRetire 0 0) (sOn fun t => { (t.enter .h 4 true) with hold := .exiting }))
      (sOn fun t => { (t.enter .h 4 true) with hold := .exiting }) = true ∧
    goes (exec (.rteExit .always) (sOn fun t => { t with masked := true })) (fun t => !(t.slot 0 0).occupied && !(t.slot 0 0).masked) = true := by
  decide +kernel
/-- A trap, a double fault, and a handler that cannot be entered. -/
theorem wit_trap : s0.importEntry 0 (s0.bindOf 0 0).ctx 0 = .ok 0x02000040 ∧
    gives (exec (.trap .always 0xABC) s0) (s0.setSlot 0 0 { slot0 with
      pc := 0x02000040, masked := true, tpc := 0x01000010, tcause := 5, tval := 0xABC, notBefore := 101 }) = true ∧
    goes (exec (.bkpt .always 9) (sOn fun t => { t with masked := true })) (fun t =>
      t.squalls.map (fun q => (q.ctx, q.cause, q.slot)) == [(3, 2, some (0, 0))] && (t.slot 0 0).pc == 0x01000010) = true ∧
    ({ s0 with mem := [] }).importEntry 0 3 0 = .invalid ∧
    goes (exec (.trap .always 1) { s0 with mem := [] }) (fun t => t.squalls.map (fun q => q.cause) == [3]) = true ∧
    goes (exec (.illegalInstruction .form) s0) (fun t => (t.slot 0 0).tcause == 1 && (t.slot 0 0).tval == 4) = true := by
  decide +kernel
/-- A timer that is due: its hypotheses, its enable, and its effect but for the clock's reading. -/
theorem wit_timer : let s := sOn fun t => { t with tcmp := 0x8000000000000001 }
    (s.slot 0 0).occupied = true ∧ (s.slot 0 0).hold = .free ∧ (s.slot 0 0).masked = false ∧ s.stopDue 0 0 = false ∧
      (s.slot 0 0).notBefore ≤ s.clock ∧ s.importEntry 0 (s.bindOf 0 0).ctx 0 = .ok 0x02000040 := by decide +kernel
theorem test_timer_disabled : gives (exec (.timerTrap 0 0) s0) s0 = true := by decide +kernel
/-- A slot in a team of two parks on a parameter beyond its range. -/
def sTeam : State := (cOn fun k => { k with slots := [(0, { slot0 with regs := [(1, 8), (2, 1)] }), (33, { slot0 with pc := 0x01000044 })],
                                            teams := [(2, { bind := 0, members := [0, 33], phase := none })] })
theorem wit_park : (sTeam.slot 0 0).masked = false ∧ (sTeam.core 0).haltSet 0 = [33] := by decide +kernel
theorem test_stkgive_parks : goes (exec (.stkgive .always 3 1 (.reg 2)) sTeam) (fun t =>
    (t.slot 0 0).hold == .parked 100 105 && (t.slot 0 0).tcause == 0x118 && (t.slot 0 0).tval == 8 &&
      (t.core 0).halts == [{ slot := 0, cycle := 100, members := [(33, .running)], inSeam := [] }]) = true := by decide +kernel
/-- The handler of a parked slot in its cycle, and not before. -/
theorem wit_handlerEntry : let s := sOn fun t => { t with hold := .parked 90 100 }
    let u := sOn fun t => { t with hold := .parked 96 101 }
    gives (exec (.parkedHandlerEntry 0 0) s) (s.setSlot 0 0 { slot0 with pc := 0x02000040, masked := true, notBefore := 100 }) = true ∧
      gives (exec (.parkedHandlerEntry 0 0) u) u = true := by decide +kernel
/-- A halt of cycle 97 reaches a member of the same quadrant in cycle 100, one of another quadrant in cycle 102. -/
def sHalt (m : Nat) : State := cOn fun k => { k with
  slots := [(0, slot0), (m, { slot0 with pc := 0x01000044, recent := [98, 97] })], halts := [{ slot := 0, cycle := 97, members := [(m, .running)], inSeam := [] }] }
theorem wit_halt : let s := sHalt 33
    ((s.slot 0 33).hold = .free ∧ (s.slot 0 33).occupied = true ∧ (s.slot 0 33).masked = false) ∧
    goes (exec (.haltReachesMember 0 0 33) s) (fun t => (t.slot 0 33).hold == .halted && (t.slot 0 33).tcause == 0x01000020 &&
      (t.slot 0 33).tpc == 0x01000044 && (t.slot 0 33).tval == 0 && (t.core 0).halts == [{ slot := 0, cycle := 97, members := [(33, .stopped)], inSeam := [] }]) = true ∧
    gives (exec (.haltReachesMember 0 0 600) (sHalt 600)) (sHalt 600) = true := by decide +kernel
/-- Returns. -/
def sHandler : State := sOn fun t => { t with masked := true, tpc := 0x01000010, pc := 0x02000040 }
theorem wit_rte : (sHandler.slot 0 0).masked = true ∧ (sHandler.core 0).halts = [] ∧ (sHandler.slot 0 0).parker = false ∧
    gives (exec (.rteRetry .always) sHandler) (sHandler.setSlot 0 0 { slot0 with tpc := 0x01000010, retry := true }) = true ∧
    (let s := sHandler.onCore 0 fun k => { k with icache := [(codeKey 3 0x01000010, codeLine addWords)] }
     AMap.find? (s.core 0).icache (codeKey ((s.core 0).bind (s.slot 0 0).bind).ctx (s.slot 0 0).tpc) = some (codeLine addWords) ∧
      gives (exec (.rteSkip .always) s) (s.setSlot 0 0 { slot0 with tpc := 0x01000010, pc := 0x0100001C }) = true) ∧
    (let s := (sHandler.onSlot 0 0 fun t => { t with openPark := some 3 }).onCore 0 fun k => { k with icache := [(codeKey 3 0x01000010, codeLine addWords)] }
     goes (exec (.rteSkip .always) s) (fun t => (t.slot 0 0).ostat == 0x3003 && (t.slot 0 0).pc == 0x0100001C) = true) ∧
    goes (exec (.rteSkip .always) s0) (fun t => (t.slot 0 0).tcause == 1 && (t.slot 0 0).tval == 10) = true := by decide +kernel
theorem test_mfs_values : regAfter (.mfs .always 10 .item) s0 10 = 77 ∧ regAfter (.mfs .always 10 .team) sTeam 10 = 4 ∧
    regAfter (.mfs .always 10 .tval) (sOn fun t => { t with tval := 0x100000002 }) 11 = 1 := by decide +kernel
theorem test_mts_handlerOnly : goes (exec (.mts .always .tpc 3) sHandler) (fun t => (t.slot 0 0).tpc == 0x12345678) = true ∧
    goes (exec (.mts .always .tpc 3) s0) (fun t => (t.slot 0 0).tcause == 1 && (t.slot 0 0).tval == 10) = true ∧
    goes (exec (.mts .always .tcause 3) ((sOn fun t => t.poisonReg 3))) (fun t => (t.slot 0 0).tcause == 1 && (t.slot 0 0).tval == 10) = true ∧
    goes (exec (.tmset .always 2) s0) (fun t => (t.slot 0 0).tcmp == 0x1234567800000003) = true := by decide +kernel
/-- A handle that is cached: what `hld` reads. -/
def handle5 : BitVec 256 := 1 + 0x1F * 2 ^ 8 + 0x123400 * 2 ^ 64 + 0x1000 * 2 ^ 128
def sHandle : State :=
  { (cOn fun k => k.onBind 0 fun b => { b with hcache := [(5, handle5)], hcnt := 7, htab := 0x1000 }) with
    mem := Memory.write s0.mem 0x10A0 32 handle5.toNat }
theorem wit_hld : sHandle.handle 0 (sHandle.slot 0 0).bind 5 = (some handle5, sHandle) ∧
    regAfter (.hld .always .base 10 5) sHandle 10 = 0x123400 ∧ regAfter (.hld .always .len 10 5) sHandle 10 = 0x1000 ∧
    regAfter (.hld .always .flags 10 5) sHandle 10 = 0x1F01 := by decide +kernel
/-- `wait` at its thresholds. -/
theorem wit_wait : let s := sOn fun t => (t.enter .h 1 true).enter .h 2 true
    gives (exec (.wait .always ⟨none, some 1, none, none, none⟩) s) s = true ∧
      goes (exec (.wait .always ⟨some 0, some 2, none, none, none⟩) s) (fun t => (t.slot 0 0).pc == 0x0100001C) = true := by decide +kernel
theorem wit_pause : goes (exec (.pause .always) s0) (fun t => (t.slot 0 0).hold == .pause 117 12) = true ∧
    (let s := sOn fun t => { t with hold := .pause 100 12 }
     gives (exec (.pauseExpiry 0 0) s) (s.setSlot 0 0 { slot0 with pc := 0x0100001C }) = true) ∧
    (let s := sOn fun t => { t with hold := .pause 101 12 }
     gives (exec (.pauseExpiry 0 0) s) s = true) := by decide +kernel
/-- A fetch from the cache, within the code and beyond its end; and `icinv` of that line. -/
def sCached (len : Nat) : State := cOn fun k => { k with icache := [(codeKey 3 0x01000010, { codeLine addWords with len := len })] }
theorem wit_fetch : ((s0.slot 0 0).occupied = true ∧ (s0.slot 0 0).hold = .free ∧ (s0.slot 0 0).notBefore ≤ s0.clock ∧
      s0.stopDue 0 0 = false ∧ (s0.slot 0 0).stay = none) ∧ (sHandler.slot 0 0).masked = true ∧
    AMap.find? ((sCached 0x11).core 0).icache (codeKey (((sCached 0x11).core 0).bind 0).ctx 0x01000010) = some { codeLine addWords with len := 0x11 } ∧
    (let s (v : Byte) : State := { (sCached 0x80).onSlot 0 0 fun t => t.setReg 4 0x01000044 with mem := (0xBE0010010, v) :: s0.mem }
     objState ((s 1).objEntry 0 3 0x01000044) = 1 ∧ objState ((s 2).objEntry 0 3 0x01000044) = 2 ∧
     goes (exec (.icinv .always 4) (s 1)) (fun t => (t.core 0).icache == []) = true ∧
     goes (exec (.icinv .always 4) (s 2)) (fun t => (t.core 0).icache == ((s 2).core 0).icache) = true) ∧
    goes (exec (.pfi .always 4) ((sCached 0x80).onSlot 0 0 fun t => t.setReg 4 0x01000044)) (fun t =>
      (t.core 0).icache == ((sCached 0x80).core 0).icache && (t.slot 0 0).pc == 0x0100001C) = true := by decide +kernel
/-- Two slots of one crew that wait for one line get it at one instant. -/
def sTwo : State := { (sCached 0x80).setSlot 0 1 { slot0 with pc := 0x01000014 } with cur := none }
theorem wit_fetchGroup : sTwo.fetchGroup 0 0 = [0, 1] ∧ State.needsFetch (sTwo.slot 0 0) = true ∧
    (∀ m ∈ sTwo.fetchGroup 0 0, (sTwo.slot 0 m).pc.toNat % 2 ^ 24 < 0x80) ∧
    goes (exec (.instructionFetch 0 0 false) sTwo) (fun t => (t.slot 0 1).stay == some (0x01000000, codeLine addWords) &&
      (t.slot 0 0).stay == some (0x01000000, codeLine addWords)) = true ∧
    ((sCached 0x10).fetchGroup 0 0 = [0] ∧ 0x10 ≤ ((sCached 0x10).slot 0 0).pc.toNat % 2 ^ 24) := by decide +kernel
theorem test_fetch_end : let s (n : Nat) := (sCached n).onSlot 0 0 fun t => { t with masked := true }
    goes (exec (.instructionFetch 0 0 false) (s 0x11)) (fun t => ((t.slot 0 0).stay.map Prod.fst) == some 0x01000000) = true ∧
      goes (exec (.instructionFetch 0 0 false) (s 0x10)) (fun t => t.squalls.map (fun q => (q.cause, q.tval)) == [(2, 0x101000010)]) = true := by
  decide +kernel

/-! Teams and lanes. -/

/-- Slots 0 and 33 with registers for a collective of team 2. -/
def sPair (q : Option Phase) : State := cOn fun k => { k with
  slots := [(0, { slot0 with regs := [(1, 5), (2, 2), (3, 0xFFFFFFFF), (5, 9)] }), (33, { slot0 with pc := 0x01000044, regs := [(1, 6)] })]
  teams := [(2, { bind := 0, members := [33, 0], phase := q })] }
/-- A phase of team 2 in which slot 33 has arrived. -/
def phaseOf (i im : Instr) (v : W64) (m : W32) : Phase :=
  { key := phaseKey i, throughout := [33, 0], expected := [33, 0], masks := [(1, m)],
    arrived := [{ slot := 33, same := true, inst := im, value := v, sel := 0, len := 12 }] }

theorem wit_join : AMap.find? ((sPair none).core 0).teams 2 = some { bind := 0, members := [33, 0], phase := none } := by decide +kernel
theorem test_join_creates : goes (exec (.join .always 3 (.imm 63)) s0) (fun t =>
      (t.core 0).teams == [(63, { bind := 0, members := [0], phase := none })] && (t.slot 0 0).pred 3 && (t.slot 0 0).pc == 0x0100001C) = true ∧
    gives (exec (.join .always 3 (.imm 64)) s0) (s0.setSlot 0 0 { slot0 with pc := 0x0100001C }) = true := by decide +kernel
theorem test_leave_lastMember : let s := cOn fun k => { k with teams := [(2, { bind := 0, members := [0], phase := none })] }
    goes (exec (.leave .always 3 (.imm 2)) s) (fun t => (t.core 0).teams == [] && (t.slot 0 0).pred 3) = true ∧
    goes (exec (.leave .always 1 (.imm 4)) s) (fun t => !(t.slot 0 0).pred 1) = true := by decide +kernel
theorem test_join_otherBind : let s := cOn fun k => { k with teams := [(2, { bind := 1, members := [700], phase := none })] }
    goes (exec (.join .always 1 (.imm 2)) s) (fun t => !(t.slot 0 0).pred 1 && (t.core 0).teams == (s.core 0).teams) = true := by decide +kernel
/-- The first of two members waits; a lane outside goes on. -/
theorem wit_tbar_first : goes (exec (.tbar .always 3 3 (.reg 2)) (sPair none)) (fun t => (t.slot 0 0).hold == .team 2 &&
      (t.slot 0 0).pc == 0x01000010) = true ∧
    goes (exec (.tbar .always 1 3 (.imm 9)) (sPair none)) (fun t => !(t.slot 0 0).pred 1 && (t.slot 0 0).pc == 0x0100001C) = true ∧
    goes (exec (.tred .always (.bits .or) 10 1 (.imm 9)) (sPair none)) (fun t => (t.slot 0 0).pc == 0x0100001C && (t.slot 0 0).reg 10 == 0) = true ∧
    goes (exec (.tbcast .always 10 1 (.imm 64) 4) (sPair none)) (fun t => (t.slot 0 0).pc == 0x0100001C) = true := by decide +kernel
/-- The second member completes for both. -/
theorem wit_tred_second : let i : Instr := .tred .always (.arith .add (.int .i32)) 10 1 (.reg 2)
    goes (exec i (sPair (some (phaseOf i (.tred .always (.arith .add (.int .i32)) 20 1 (.imm 2)) 6 (-1))))) (fun t =>
      (t.slot 0 0).reg 10 == 11 && (t.slot 0 33).reg 20 == 11 && (t.slot 0 0).pc == 0x0100001C && (t.slot 0 33).pc == 0x01000050 &&
      (t.slot 0 0).notBefore == 101 && (t.slot 0 0).hold == .free &&
      (t.core 0).teams == [(2, { bind := 0, members := [33, 0], phase := none })]) = true := by decide +kernel
theorem wit_tbar_second : let i : Instr := .tbar .always 3 4 (.reg 2)
    let s (own other : W32) := (sPair (some (phaseOf i (.tbar .always 4 1 (.imm 2)) 0 other))).onSlot 0 0 fun t => t.setReg 4 own
    goes (exec i (s 1 2)) (fun t => (t.slot 0 0).pred 3 && (t.slot 0 33).pred 4 && (t.slot 0 33).pc == 0x01000050) = true ∧
      goes (exec i (s 3 2)) (fun t => !(t.slot 0 0).pred 3 && !(t.slot 0 33).pred 4 && (t.slot 0 0).pc == 0x0100001C) = true := by decide +kernel
/-- The first of two members to arrive at a `tred` or a `tbcast` waits. -/
theorem wit_first_arrival : goes (exec (.tred .always (.bits .or) 10 1 (.reg 2)) (sPair none)) (fun t => (t.slot 0 0).hold == .team 2 &&
      ((AMap.find? (t.core 0).teams 2).bind Team.phase).map (fun q => (q.expected, q.arrived.map Arrival.slot)) == some ([33, 0], [0])) = true ∧
    goes (exec (.tbcast .always 10 1 (.reg 2) 3) (sPair none)) (fun t => (t.slot 0 0).hold == .team 2 &&
      ((AMap.find? (t.core 0).teams 2).bind Team.phase).map (fun q => q.arrived.map Arrival.sel) == some [2047]) = true := by decide +kernel
/-- The second of two members completes a `tbcast`: slot 0 selects slot 33, and 33 itself a slot that is no participant. -/
theorem wit_tbcast_second : let i : Instr := .tbcast .always 10 1 (.reg 2) 6
    let p := phaseOf i (.tbcast .always 20 1 (.imm 2) 3) 6 (-1)
    let s := (sPair (some { p with arrived := p.arrived.map fun x => { x with sel := 7 } })).onSlot 0 0 fun t => t.setReg 6 33
    goes (exec i s) (fun t => (t.slot 0 0).reg 10 == 6 && (t.slot 0 33).reg 20 == 6 && (t.slot 0 0).pc == 0x0100001C &&
      (t.slot 0 33).pc == 0x01000050 && (AMap.find? (t.core 0).teams 2).map Team.phase == some none) = true := by decide +kernel
/-- A member alone. -/
theorem wit_alone : let s := cOn fun k => { k with teams := [(7, { bind := 0, members := [0], phase := none })] }
    goes (exec (.tbar .always 3 4 (.reg 4)) (s.onSlot 0 0 fun t => t.setReg 4 7)) (fun t => !(t.slot 0 0).pred 3) = true ∧
    goes (exec (.tbar .always 3 1 (.imm 7)) (s.onSlot 0 0 fun t => t.setReg 1 1)) (fun t => (t.slot 0 0).pred 3 && (t.slot 0 0).notBefore == 101) = true ∧
    goes (exec (.tred .always (.arith .min (.int .i64)) 10 2 (.imm 7)) s) (fun t => (t.slot 0 0).pair 10 == 0x1234567800000003) = true ∧
    goes (exec (.tbcast .always 10 1 (.imm 7) 5) s) (fun t => (t.slot 0 0).reg 10 == 5) = true := by decide +kernel

/-- Slot r of core 0 after an instruction of two lanes. -/
def laneReg (i : Instr) (n r : Nat) : W32 :=
  match exec i s2 with
  | .next t => (t.slot 0 n).reg r
  | _ => 0xDEAD
theorem test_shfl_up : laneReg (.shfl .always .up 10 1 (.imm 1) 3) 1 10 = 5 ∧ laneReg (.shfl .always .up 10 1 (.imm 1) 3) 0 10 = 5 ∧
    goes (exec (.shfl .always .up 10 1 (.imm 1) 3) s2) (fun t => !(t.slot 0 0).pred 3 && (t.slot 0 1).pred 3) = true := by decide +kernel
theorem test_vote_guarded : goes (exec (.vote .always (.all 3) 1) s2) (fun t => !(t.slot 0 0).pred 3) = true ∧
    goes (exec (.vote .always (.any 3) 1) s2) (fun t => (t.slot 0 1).pred 3) = true ∧
    goes (exec (.vote ⟨false, 1⟩ (.eq 3) 1) s2) (fun t => (t.slot 0 0).pred 3 && !(t.slot 0 1).pred 3) = true ∧
    laneReg (.vote .always (.ball 10) 1) 1 10 = 1 := by decide +kernel
theorem test_match_lanes : laneReg (.matchLanes .always .b32 10 2) 0 10 = 3 ∧ laneReg (.matchLanes .always .b32 10 1) 0 10 = 1 := by decide +kernel
theorem test_confl_lower : laneReg (.confl .always 10 2) 1 10 = 1 ∧ laneReg (.confl .always 10 2) 0 10 = 0 := by decide +kernel
theorem test_cscan_exclusive : laneReg (.cscan .always (.arith .add .i32) true 10 1) 1 10 = 5 ∧
    laneReg (.cscan .always (.arith .add .i32) false 10 1) 1 10 = 11 ∧ laneReg (.cred .always (.arith .max .n32) 10 1) 0 10 = 6 := by decide +kernel
theorem test_elect_lowest : goes (exec (.elect .always 3) s2) (fun t => (t.slot 0 0).pred 3 && !(t.slot 0 1).pred 3) = true := by decide +kernel
theorem test_join_laneByLane : goes (exec (.join .always 3 (.imm 5)) s2) (fun t =>
    (t.core 0).teams == [(5, { bind := 0, members := [0, 1], phase := none })]) = true := by decide +kernel

/-! Lines. -/

/-- A way of a kind with rights `rw`. -/
def wayOf (k : WayKind) : Way :=
  { kind := k, rd := true, wr := true, fmt := 0, atom := true, va := 0x1000, dest := .dev, pa := 0x1000, sum := false, moved := false }
/-- An own frame whose byte i is i + 1, valid and clean. -/
def frame0 : Frame :=
  { dest := .dev, line := 0x1000, kind := .own, refs := 1, valid := -1, dirty := 0, poison := 0,
    data := lineOfBytes ((List.range 128).map fun i => BitVec.ofNat 8 (i + 1)), fill := none, abandoned := false, ctx := 3 }
/-- Line register 2 of crew 0: way 0 a frame, 1 a home way, 2 a scratch way, 3 stale; lane 0's tag names way 0. -/
def lreg0 : LineReg :=
  { ways := [(0, wayOf (.frame 4)), (1, { wayOf .home with pa := 0x2000, va := 0x2000 }), (2, { wayOf .scratch with pa := 0x300, va := 0x300 }),
             (3, wayOf .stale)]
    tags := [(0, 0)] }
def sLine : State := cOn fun k => { k with
  slots := [(0, { slot0 with regs := [(1, 126), (2, 0x11223344), (3, 0x55667788), (4, 4), (6, 1), (7, 2)] })]
  crews := [(0, { Crew.reset with lregs := [(2, lreg0)], floorUsed := 1 })]
  frames := [(4, frame0)]
  scratch := [(0x304, 0xFF), (0x305, 0x01)] }
theorem wit_ways : sLine.useWay 0 0 ⟨2, none⟩ 2 = .ok 0 (wayOf (.frame 4)) ∧ sLine.useWay 0 0 ⟨2, some 2⟩ 3 = .ok 2 { wayOf .scratch with pa := 0x300, va := 0x300 } ∧
    (wayOf (.frame 4)).rd = true ∧ (wayOf (.frame 4)).wr = true ∧ (wayOf (.frame 4)).sum = false ∧ AMap.find? (sLine.core 0).frames 4 = some frame0 ∧
    sLine.useWay 0 0 ⟨2, some 1⟩ 2 = .ok 1 { wayOf .home with pa := 0x2000, va := 0x2000 } := by decide +kernel
theorem wit_lineRuns : sLine.Runs 0 0 12 .always [1, 2, 3, 4, 5, 6, 7] := by
  unfold State.Runs State.Alone
  decide +kernel
theorem test_ld_wraps : regAfter (.ld .always .w 10 ⟨2, none⟩ 1 0) sLine 10 = 0x0201807F ∧
    regAfter (.ld .always .h 10 ⟨2, none⟩ 4 1) sLine 10 = 0x0706 ∧ regAfter (.ldBC 10 ⟨2, some 2⟩ 4) sLine 10 = 0xFF ∧
    regAfter (.ldDC 10 ⟨2, none⟩ 4) sLine 11 = 0x0C0B0A09 := by decide +kernel
theorem test_st_dirtiesNibbles : goes (exec (.st .always .w ⟨2, none⟩ 1 2 0) sLine) (fun t =>
    match AMap.find? (t.core 0).frames 4 with
    | some x => x.dirty == nibbleMask 126 4 && x.data.byte 126 == 0x44 && x.data.byte 1 == 0x11 && x.data.byte 2 == 3
    | none => false) = true := by decide +kernel
theorem test_st_scratch : goes (exec (.stHC ⟨2, some 2⟩ 4 2) sLine) (fun t =>
    (t.core 0).scratch == [(0x304, 0x44), (0x305, 0x33)] && t.mem == s0.mem) = true := by decide +kernel
theorem wit_lde : goes (exec (.lde .always .bf16 10 ⟨2, none⟩ 4 1) sLine) (fun t => (t.slot 0 0).reg 10 == 0x0C0B && t.nextId == 10) = true ∧
    goes (exec (.ste .always .i32 ⟨2, none⟩ 4 2 0) sLine) (fun t => match AMap.find? (t.core 0).frames 4 with
      | some x => x.data.read 16 4 == 0x11223344 && x.dirty == nibbleMask 16 4
      | none => false) = true ∧
    goes (exec (.ste .always .fp16 ⟨2, some 2⟩ 4 2 0) sLine) (fun t => (t.core 0).scratch.get 0 0x308 == 0x44) = true := by decide +kernel
/-- Accesses through the home way leave requests. -/
theorem wit_homeAccess : goes (exec (.ld .always .w 10 ⟨2, some 1⟩ 1 1) sLine) (fun t => match t.reqs with
      | [r] => r.kind == .read [(0, 0, 127)] (.ld .always .w 10 ⟨2, some 1⟩ 1 1) false && r.pa == 0x2000 && r.ops == [(0, .h, 9)] && r.stage == .port &&
          (t.slot 0 0).count .h == 1 && (t.slot 0 0).pc == 0x0100001C
      | _ => false) = true ∧
    goes (exec (.ste .always .i32 ⟨2, some 1⟩ 1 2 1) sLine) (fun t => match t.reqs with
      | [r] => r.kind == .write [(0, 0, 127, [0x11223344])] (.ste .always .i32 ⟨2, some 1⟩ 1 2 1)
      | _ => false) = true ∧
    goes (exec (.ldHC 10 ⟨2, some 1⟩ 1) sLine) (fun t => t.reqs.map Req.kind == [.read [(0, 0, 126)] (.ldHC 10 ⟨2, some 1⟩ 1) false]) = true ∧
    goes (exec (.stDC ⟨2, some 1⟩ 1 2) sLine) (fun t =>
      t.reqs.map Req.kind == [.write [(0, 0, 126, [0x11223344, 0x55667788])] (.stDC ⟨2, some 1⟩ 1 2)]) = true := by decide +kernel
/-- Two lanes at two bytes of one home line, through ways of two formats: one request. -/
def sShare : State :=
  { ((sLine.setSlot 0 1 { slot0 with regs := [(1, 4), (2, 9)] }).onCore 0 fun k =>
      (k.setWay 0 2 3 { wayOf .home with pa := 0x2000, va := 0x2000, fmt := 2 }).onLreg 0 2 fun r => { r with tags := [(0, 1), (1, 3)] }) with
    cur := s2.cur }
theorem test_home_oneRequest : goes (exec (.ld .always .b 10 ⟨2, none⟩ 1 0) sShare) (fun t =>
    t.reqs.map Req.kind == [.read [(0, 0, 126), (1, 2, 4)] (.ld .always .b 10 ⟨2, none⟩ 1 0) false]) = true := by decide +kernel
/-- Closed, stale, and without a right. -/
theorem wit_lineFaults : sLine.useWay 0 0 ⟨3, none⟩ 2 = .trap { cause := .lineClosed, acc := 2, val := 3 } ∧
    sLine.useWay 0 0 ⟨2, some 3⟩ 3 = .trap { cause := .stackMoved, acc := 3, val := 0x32 } ∧
    sLine.useWay 0 0 ⟨3, some 1⟩ 2 = .trap { cause := .lineClosed, acc := 2, val := 0x13 } ∧
    goes (exec (.ld .always .b 10 ⟨3, none⟩ 1 0) sLine) (fun t => (t.slot 0 0).tcause == 0x2002 && (t.slot 0 0).tval == 3) = true ∧
    (let s := sLine.onCore 0 fun k => k.setWay 0 2 0 { wayOf (.frame 4) with wr := false }
     goes (exec (.st .always .b ⟨2, none⟩ 1 2 3) s) (fun t => (t.slot 0 0).tcause == 0x3113 && (t.slot 0 0).tval == 0x1001) = true) ∧
    (let s := sLine.onCore 0 fun k => k.setWay 0 2 0 { wayOf (.frame 4) with rd := false }
     goes (exec (.ld .always .b 10 ⟨2, none⟩ 1 3) s) (fun t => (t.slot 0 0).tcause == 0x2113 && (t.slot 0 0).tval == 0x1001) = true) := by decide +kernel

/-- The load-store unit: in place, to a home, and at the end of its cycles. -/
def addAtom : Instr := .atom .always (.red (.arith .add (.int .n32))) 10 ⟨2, none⟩ 4 7
theorem wit_unit : State.unitFault addAtom (wayOf (.frame 4)) = none ∧ sLine.wordBad 0 (wayOf (.frame 4)) 4 4 = none ∧
    goes (exec addAtom sLine) (fun t => (t.slot 0 0).hold == .lsu 9 && (t.core 0).lsuBusy == [(0, 101)] && t.reqs == []) = true ∧
    goes (exec (.red .always (.bits .or .b32) ⟨2, some 1⟩ 4 7) sLine) (fun t => match t.reqs with
      | [r] => r.stage == .unit && r.pa == 0x2000 && (t.slot 0 0).count .h == 1
      | _ => false) = true ∧
    goes (exec (.sig .always .n32 ⟨2, some 1⟩ 4 7) sLine) (fun t => match t.reqs with
      | [r] => r.stage == .unit && r.kind == .sig 4 [(4, 2)] && (t.slot 0 0).count .s == 1
      | _ => false) = true := by decide +kernel
/-- The state when the unit's cycles end. -/
def sUnit (i : Instr) : State := match exec i sLine with
  | .next t => { t with tick := 303 }
  | _ => s0
theorem wit_unitEnds : (match (sUnit addAtom).unitDue 0 0 with
      | some o => o.reqs == [] && o.inst == addAtom && o.args == [(0, wayOf (.frame 4), 4, 2, 0)] && ((sUnit addAtom).slot 0 0).hold == .lsu o.id
      | none => false) = true ∧ (sUnit addAtom).issueDone 0 = true ∧ (sUnit addAtom).coreDue 0 = false ∧
    goes (exec (.combinedRequestLeaves 0 0) (sUnit addAtom)) (fun t => (t.slot 0 0).reg 10 == 0x08070605 && (t.slot 0 0).pc == 0x0100001C &&
      (t.slot 0 0).hold == .free && (match AMap.find? (t.core 0).frames 4 with
        | some x => x.data.read 4 4 == 0x08070607
        | none => false)) = true ∧
    (let i : Instr := .red .always (.arith .max (.int .n32)) ⟨2, none⟩ 4 2
     goes (exec (.combinedRequestLeaves 0 0) (sUnit i)) (fun t => (t.slot 0 0).pc == 0x0100001C && (match AMap.find? (t.core 0).frames 4 with
        | some x => x.data.read 4 4 == 0x11223344
        | none => false)) = true) ∧
    (let i : Instr := .red .always (.bits .or .b32) ⟨2, some 1⟩ 4 7
     goes (exec (.combinedRequestLeaves 0 0) (sUnit i)) (fun t => (t.core 0).lsu == [] && t.reqs.map Req.stage == [.port]) = true) := by decide +kernel
/-- `red.add.fp32` of two lanes on a `sum` way, at the end of the unit's cycles: 1 + 2, the partial then dirty. -/
def sumWay : Way := { wayOf (.frame 4) with sum := true }
def sSum : State := { ((s2.onSlot 0 0 fun t => { t with hold := .lsu 7 }).onSlot 0 1 fun t => { t with hold := .lsu 7 }).onCore 0 fun k => { k with
    crews := [(0, { Crew.reset with lregs := [(2, { ways := [(0, sumWay)], tags := [(0, 0), (1, 0)] })], floorUsed := 1 })]
    frames := [(4, { frame0 with kind := .sum, data := 0 })]
    lsu := [{ id := 7, quad := 0, till := 101, inst := .red .always (.arith .add .fp32) ⟨2, none⟩ 4 7,
              args := [(0, sumWay, 8, 0x3F800000, 0), (1, sumWay, 8, 0x40000000, 0)], reqs := [], pcLen := 12 }]
    lsuBusy := [(0, 101)] } with tick := 303 }
theorem wit_sumRed : (sSum.unitDue 0 0).map LsuOp.id = some 7 ∧ sSum.issueDone 0 = true ∧ sSum.coreDue 0 = false ∧
    sSum.useWay 0 0 ⟨2, none⟩ 5 = .ok 0 sumWay ∧ sSum.useWay 0 1 ⟨2, none⟩ 5 = .ok 0 sumWay ∧ sSum.wordBad 0 sumWay 8 4 = none ∧
    goes (exec (.combinedRequestLeaves 0 0) sSum) (fun t => (match AMap.find? (t.core 0).frames 4 with
      | some x => x.data.read 8 4 == 0x40400000 && x.dirty != 0
      | none => false) && (t.slot 0 1).pc == 0x0100001C) = true := by decide +kernel

/-! Homes. -/

/-- A request of core 0, slot 0, at the port of stack 0. -/
def req0 (k : ReqKind) : Req :=
  { id := 5, core := 0, lanes := [0], kind := k, dest := .dev, pa := 0x2000, stage := .port, masked := [], ops := [(0, .h, 3)], counted := none,
    seq := 0, agent := 0, srcDie := 0, sent := 0, result := [], ok := false, dropped := false, arrives := 0, via := none }
def sReq (k : ReqKind) : State :=
  { (sOn fun t => t.enter .h 3 true) with reqs := [req0 k], mem := [(0x2000, 1), (0x2004, 0xFF), (0x2005, 0xFF), (0x2006, 0xFF), (0x2007, 0xFF)] ++ s0.mem }
theorem wit_homeReq : (sReq (.fill 4)).req? 5 = some (req0 (.fill 4)) ∧ (sReq (.fill 4)).performable (req0 (.fill 4)) = true ∧
    (req0 (.fill 4)).srcDie = ((sReq (.fill 4)).arbiter (stackOf 0x2000)).owner ∧
    goes (exec (.fillRead 5) (sReq (.fill 4))) (fun t => t.reqs.map (fun r => (r.stage, (State.carried r.result).1.read 0 8)) == [(.here, 0xFFFFFFFF00000001)]) = true ∧
    goes (exec (.homeRead 5) (sReq (.read [(0, 0, 4)] (.ldHC 10 ⟨2, none⟩ 1) false))) (fun t => t.reqs.map (fun r => (r.stage, r.result)) == [(.here, [(0, 10, 0xFFFF, false)])]) = true ∧
    goes (exec (.atomicRequest 5) (sReq (.atom 4 (.red (.arith .add (.int .n32))) addAtom [(4, [(0, 2, 0)])]))) (fun t =>
      Memory.read t.mem 0x2004 4 == 1 && Memory.read t.mem 0x2008 4 == 0 && t.reqs.map (fun r => (r.stage, r.result)) == [(.here, [(0, 10, 0xFFFFFFFF, false)])]) = true ∧
    goes (exec (.reductionRequest 5) (sReq (.red 8 (.arith .add (.int .n64)) [(0, 0xFFFFFFFF)]))) (fun t => Memory.read t.mem 0x2000 8 == 0) = true ∧
    goes (exec (.sigRequest 5) (sReq (.sig 4 [(0, 0xFFFFFFFF)]))) (fun t => Memory.read t.mem 0x2000 4 == 0 && Memory.read t.mem 0x2004 4 == 0xFFFFFFFF) = true := by decide +kernel
theorem wit_homeReq2 : goes (exec (.writeBack 5) (sReq (.writeBack (nibbleMask 0 1) 0 0x5A))) (fun t => Memory.read t.mem 0x2000 1 == 0x5A && t.reqs == []) = true ∧
    goes (exec (.homeWrite 5) (sReq (.write [(0, 0, 127, [0x1122])] (.stHC ⟨2, none⟩ 1 2)))) (fun t => t.byteAt 0x207F == 0x22 && t.byteAt 0x2000 == 0x11 && t.byteAt 0x2080 == 0) = true ∧
    goes (exec (.sigwRead 5) (sReq (.sigw 0 4 0 1))) (fun t => t.reqs.map (fun r => (r.stage, r.ok)) == [(.here, true)]) = true ∧
    goes (exec (.sigwRead 5) (sReq (.sigw 0 4 0 2))) (fun t => t.reqs.map (fun r => (r.stage, r.ok)) == [(.waiter, false)]) = true ∧
    goes (exec (.sumDelivery 5) (sReq (.sum 0x3F800000))) (fun t => t.sums == [{ line := 0x2000, core := 0, data := 0x3F800000 }] && t.reqs == []) = true ∧
    goes (exec (.sumDelivery 5) { sReq (.sum 0x3F800000) with sums := [{ line := 0x2000, core := 0, data := 0x3F800000 }] }) (fun t =>
      t.sums == [{ line := 0x2000, core := 0, data := 0x40000000 }]) = true := by decide +kernel
/-- An atomic folds the line's partials first. -/
theorem test_red_folds : goes (exec (.reductionRequest 5) { sReq (.red 4 (.arith .add .fp32) [(8, 0x3F800000)]) with
    sums := [{ line := 0x2000, core := 7, data := 0x3F800000 <<< 64 }] }) (fun t => Memory.read t.mem 0x2008 4 == 0x40000000 && t.sums == []) = true := by decide +kernel

/-! Opening lines. -/

/-- Reading, writing and atomics at device addresses 0x100 to 0x10FF of the tables of `sOpen`. -/
def handle0 : BitVec 256 := BitVec.ofNat 256 (0x1007 + 0x100 * 2 ^ 64 + 0x1000 * 2 ^ 128)
/-- A leaf of level 3 for 0x4000000 with every right and a class. -/
def leafOf (cls : Nat) : BitVec 128 := BitVec.ofNat 128 (0x4000007 + (7 + cls * 2 ^ 24) * 2 ^ 64)
/-- Three levels of tables, cached. -/
def sOpen (cls : Nat) : State :=
  { cOn fun k => { k with
      slots := [(0, { slot0 with regs := [(1, 0x204), (2, 0x1000), (3, 0x80000), (4, 0x7FFFF), (5, 0x80)] })]
      binds := [(0, { bind0 with h0 := handle0, root := 0x10000 })]
      l1 := [{ asid := 3, page := 0, level := 3, leaf := leafOf cls, dest := .dev, route := 0 }] } with
    mem := [(0x10000, 1), (0x10001, 0x40), (0x10002, 1), (0x14000, 1), (0x14001, 0x80), (0x14002, 1),
            (0x18000, 7), (0x18003, 4), (0x18008, 7), (0x1800B, BitVec.ofNat 8 cls), (0x4000200, 0x99)] ++ s0.mem }
theorem wit_open : (sOpen 2).handle 0 0 0 = (some handle0, sOpen 2) ∧ handleOk handle0 = true ∧ hSpace handle0 = 0 ∧
    (sOpen 2).translate 0 0 .dev 0x300 = (.ok 3 (leafOf 2), sOpen 2) ∧
    ((sOpen 2).checkLine 0 0 handle0 true false 0x300).1 = .ok { idx := 0, fkind := none, fetch := true, way :=
      { kind := .home, rd := true, wr := false, fmt := 0, atom := true, va := 0x300, dest := .dev, pa := 0x4000300, sum := false,
        moved := false } } ∧ ((sOpen 2).checkLine 0 0 handle0 true false 0x300).2 = sOpen 2 ∧
    ((sOpen 2).slot 0 0).opsO = [] ∧ ((sOpen 2).slot 0 0).hold = .free ∧ (sOpen 2).fillAwaited 0 0 9 = false ∧
    ((sOpen 2).core 0).lreg 0 2 = .closed ∧ (((sOpen 2).core 0).crew 0).framesBut 2 ≤ (((sOpen 2).core 0).limits 0).1 := by decide +kernel
theorem wit_openRuns : (sOpen 2).Runs 0 0 12 .always [1, 2, 3, 4, 5] := by
  unfold State.Runs State.Alone
  decide +kernel
/-- A read open of a `home` line; the offset 0x80 scaled by 4; the last byte and the first beyond it. -/
theorem test_open_home : goes (exec (.openLine .always .r 0 2 3 0 1) (sOpen 2)) (fun t =>
      (t.slot 0 0).pred 3 && (t.slot 0 0).pc == 0x0100001C && (t.slot 0 0).ostat == 0x2000 && (t.slot 0 0).count .o == 1 &&
      ((t.core 0).way 0 2 0).kind == .home && ((t.core 0).way 0 2 0).pa == 0x4000300 && !((t.core 0).way 0 2 0).wr && t.reqs == []) = true ∧
    goes (exec (.openLine .always .rw 1 2 3 0 5) (sOpen 2)) (fun t => ((t.core 0).way 0 2 0).va == 0x300) = true ∧
    goes (exec (.openLine .always .rw 0 2 3 0 2) (sOpen 2)) (fun t => (t.slot 0 0).tcause == 0x1111 && (t.slot 0 0).tval == 0x1000 &&
      !(t.slot 0 0).pred 3 && (t.slot 0 0).pc == 0x01000010) = true := by decide +kernel
/-- An `own` line gets a frame with a fill on its way, an open for writing alone none; a `sum` line reads +0.0. -/
theorem test_open_own : goes (exec (.openLine .always .rw 0 2 3 0 1) (sOpen 0)) (fun t =>
      ((t.core 0).way 0 2 0).kind == .frame 0 && (t.slot 0 0).count .o == 1 && (t.slot 0 0).pc == 0x0100001C &&
      ((t.core 0).crew 0).floorUsed == 1 && t.reqs.map (fun r => (r.kind, r.pa)) == [(.fill 0, 0x4000300)]) = true ∧
    goes (exec (.openLine .always .w 0 2 3 0 1) (sOpen 0)) (fun t => (t.slot 0 0).count .o == 1 && t.reqs == []) = true ∧
    goes (exec (.openLine .always .rw 0 2 3 0 1) (sOpen 3)) (fun t => t.reqs == [] &&
      (match AMap.find? (t.core 0).frames 0 with
        | some x => x.kind == .sum && x.data == 0 && x.valid == -1
        | none => false)) = true := by decide +kernel
/-- Where the statement about frames starts from: a token of the floor is there. -/
theorem wit_openFrame : ((sOpen 0).core 0).waits = [] ∧ ((sOpen 0).core 0).frames.length + 1 ≤ 2048 ∧
    1 + (((sOpen 0).core 0).crew 0).framesBut 2 ≤ (((sOpen 0).core 0).limits 0).1 + (((sOpen 0).core 0).limits 0).2 ∧
    (((sOpen 0).core 0).crew 0).floorUsed < (((sOpen 0).core 0).limits 0).1 ∧ ((sOpen 0).core 0).frameOf .dev 0x4000300 = none ∧
    (match ((sOpen 0).checkLine 0 0 handle0 true true 0x300).1 with
      | .ok x => x.fkind == some .own && x.fetch
      | _ => false) = true ∧ ((sOpen 0).slot 0 0).retry = false := by decide +kernel
/-- A frame that holds the line already is shared, with no fill. -/
def sShared : State := (sOpen 0).onCore 0 fun k => { k with frames := [(4, { frame0 with line := 0x4000300 })] }
theorem wit_openShared : (sShared.core 0).frameOf .dev 0x4000300 = some (4, { frame0 with line := 0x4000300 }) ∧
    ({ frame0 with line := 0x4000300 } : Frame).valid ||| frame0.dirty = -1 ∧
    goes (exec (.openLine .always .rw 0 2 3 0 1) sShared) (fun t => t.reqs == [] && ((t.core 0).way 0 2 0).kind == .frame 4 &&
      (AMap.find? (t.core 0).frames 4).map Frame.refs == some 2) = true := by decide +kernel
/-- No floor and no pool: PEGWAIT. An invalid handle, and a poisoned register: the lane parks. -/
theorem wit_openEnds : let s := (sOpen 0).onCore 0 fun k => k.onBind 0 fun b => { b with floor := 0, pool := 0 }
    let h := (sOpen 0).onCore 0 fun k => k.onBind 0 fun b => { b with h0 := handle0 - 0x1000 }
    let p := (sOpen 0).onSlot 0 0 fun t => t.poisonReg 1
    (s.core 0).limits 0 = (0, 0) ∧
    goes (exec (.openLine .always .rw 0 2 3 0 1) s) (fun t => (t.slot 0 0).ostat == 0x2002 && !(t.slot 0 0).pred 3 && t.reqs == [] &&
      (t.slot 0 0).pc == 0x0100001C) = true ∧
    handleOk (handle0 - 0x1000) = false ∧
    goes (exec (.openLine .always .rw 0 2 3 0 1) h) (fun t => (t.slot 0 0).tcause == 0x1110 && (t.slot 0 0).tval == 0 &&
      (t.slot 0 0).openPark == some 2 && (t.slot 0 0).count .o == 0) = true ∧
    goes (exec (.pfd .always 0 1) p) (fun t => (t.slot 0 0).tcause.extractLsb' 0 8 == 0x15 && (t.slot 0 0).pc == 0x01000010) = true := by
  decide +kernel
/-- Five lanes of five lines: the fifth is deferred. -/
def sFive : State :=
  { cOn fun k => { k with slots := (List.range 5).map fun i => (i, { slot0 with regs := [(1, BitVec.ofNat 32 (128 * i))] }) } with
    cur := some { core := 0, quad := 0, slots := [0, 1, 2, 3, 4], pc := 0x01000010, len := 12 } }
theorem wit_openLanes : sFive.bundle.slots = [0, 1, 2, 3, 4] ∧ sFive.bundle.slots.Nodup ∧ (sFive.core 0).lreg 0 2 = .closed ∧
    (∀ n ∈ sFive.bundle.slots, (sFive.slot 0 n).guard .always = true ∧ (sFive.slot 0 n).poisoned 1 = false ∧ n / 32 = 0 ∧
      (sFive.slot 0 n).opsO = [] ∧ (sFive.slot 0 n).hold = .free ∧ ((sFive.slot 0 n).reg 1).toNat < 0x80000) ∧
    goes (exec (.sopen .always 2 3 1) sFive) (fun t => (t.slot 0 3).ostat == 0x2300 && (t.slot 0 3).pred 3 && (t.slot 0 4).ostat == 0x2001 &&
      !(t.slot 0 4).pred 3 && ((t.core 0).way 0 2 3).pa == 384) = true := by decide +kernel
/-- An open's operation completes in its cycle. -/
theorem wit_openDue : let s := (sOn fun t => t.enter .o 3 false).onCore 0 fun k => { k with openDue := [(0, 3, 100)] }
    s.fillAwaited 0 0 3 = false ∧ (s.slot 0 0).counts .o 3 = true ∧ s.clock = 100 ∧
    ((s.openTimers 0).slot 0 0).count .o = 0 := by decide +kernel
theorem test_sopen_bounds : goes (exec (.sopen .always 2 3 4) (sOpen 2)) (fun t => (t.slot 0 0).pred 3 &&
      ((t.core 0).way 0 2 0).kind == .scratch && ((t.core 0).way 0 2 0).pa == 0x7FF80) = true ∧
    goes (exec (.sopen .always 2 3 3) (sOpen 2)) (fun t => !(t.slot 0 0).pred 3 && (t.slot 0 0).tcause == 0x1111 &&
      (t.slot 0 0).tval == 0x80000 && (t.slot 0 0).hold == .parked 100 101 && (t.slot 0 0).count .o == 0) = true := by decide +kernel
/-- The order of R120's checks, each at a line that fails it. -/
theorem wit_lineChecks :
    ((cOn fun k => { k with binds := [(0, { bind0 with use := 0xFE })] }).translate 0 0 .dev 0x300).1 = .noUse ∧
    ((sOpen 1).checkLine 0 0 handle0 false true 0x300).1 = .bad .permission 0 ∧
    ((sOpen 0).checkLine 0 0 (handle0 - 2) false true 0x300).1 = .bad .permission 0 ∧
    ((sOpen 0).checkLine 0 0 handle0 false true 0x300).1 = .ok { idx := 0, fkind := some .own, fetch := false, way :=
      { kind := .home, rd := false, wr := true, fmt := 0, atom := true, va := 0x300, dest := .dev, pa := 0x4000300, sum := false,
        moved := false } } ∧
    ((sOpen 0).translate 0 0 .dev 0x300).1 = .ok 3 (leafOf 0) := by decide +kernel
/-- A walk that meets an entry that is not valid, which fills no TLB. -/
theorem wit_lineFault : ((sOpen 0).translate 0 0 .dev 0x4000000).1 = .fault 3 ∧
    ((sOpen 0).checkLine 0 0 handle0 false true 0x4000000).1 = .bad .translation 3 := by decide +kernel
/-- Lines of a peer and of the host. -/
def sOuter (dest : Dest) (space : Nat) : State :=
  { (cOn fun k => { k with
      binds := [(0, { bind0 with h0 := BitVec.ofNat 256 (0x1007 + space * 256 + 0x1000 * 2 ^ 128 + 5 * 2 ^ 200) })]
      l1 := [{ asid := 3, page := 0, level := 3, leaf := leafOf 2, dest := dest, route := 0 }] }) with
    peers := [(5, 1 + 2 ^ 34)], devno := 1 }
theorem wit_outerLine : let p := sOuter (.peer 5) 1
    let h := sOuter .host 2
    let e (s : State) : BitVec 256 := ((s.core 0).bind 0).h0
    hSpace (e p) = 1 ∧ hPeer (e p) ≠ p.devno.toNat % 16 ∧ hSpace (e h) = 2 ∧
    p.translate 0 0 (.peer 5) 0x300 = (.ok 3 (leafOf 2), p) ∧ h.translate 0 0 .host 0x300 = (.ok 3 (leafOf 2), h) ∧
    (match (p.checkLine 0 0 (e p) true true 0x300).1 with
      | .ok x => x.way.dest == .peer 5 && x.way.pa == 0x4000300
      | _ => false) = true ∧
    (match (h.checkLine 0 0 (e h) true true 0x300).1 with
      | .ok x => x.way.dest == .host
      | _ => false) = true ∧
    (({ p with peers := [] }).checkLine 0 0 (e p) true true 0x300).1 = .bad .permission 0 := by decide +kernel
theorem test_pfd_steps : goes (exec (.pfd .always 0 1) (sOpen 2)) (fun t => (t.slot 0 0).pc == 0x0100001C && t.reqs == [] && t.mem == (sOpen 2).mem) = true := by
  decide +kernel

/-! Closing them. -/

/-- `sLine` with 2 bytes of the frame dirty. -/
def sDirty : State := sLine.onCore 0 fun k => { k with frames := [(4, { frame0 with dirty := nibbleMask 6 2 })] }
theorem wit_close : (sDirty.core 0).way 0 2 0 = wayOf (.frame 4) ∧ AMap.find? (sDirty.core 0).frames 4 = some { frame0 with dirty := nibbleMask 6 2 } ∧
    (sDirty.core 0).waits = [] ∧ (sDirty.core 0).lreg 0 5 = .closed := by decide +kernel
theorem wit_closeRuns : sDirty.Runs 0 0 12 .always [] := by
  unfold State.Runs State.Alone
  decide +kernel
theorem test_recall_writesBack : goes (exec (.recallLine .always ⟨2, some 0⟩) sDirty) (fun t => (t.core 0).frames == [] && ((t.core 0).way 0 2 0).kind == .empty &&
      ((t.core 0).way 0 2 1).kind == .home && ((t.core 0).crew 0).floorUsed == 0 && (t.slot 0 0).pc == 0x0100001C &&
      t.reqs.map (fun r => (r.kind, r.pa)) == [(.writeBack (nibbleMask 6 2) 0 frame0.data, 0x1000)]) = true ∧
    goes (exec (.recallLine .always ⟨2, none⟩) sDirty) (fun t => [0, 1, 2, 3].all fun w => ((t.core 0).way 0 2 w).kind == .empty) = true ∧
    goes (exec (.recallLine .always ⟨7, none⟩) sDirty) (fun t => (t.slot 0 0).pc == 0x0100001C && t.reqs == []) = true := by decide +kernel
theorem test_flush_keeps : goes (exec (.flush .always ⟨2, some 0⟩) sDirty) (fun t => (t.core 0).frames == [(4, frame0)] && t.reqs.length == 1) = true ∧
    goes (exec (.flush .always ⟨2, some 0⟩) sLine) (fun t => (t.core 0).frames == [(4, frame0)] && t.reqs == []) = true ∧
    goes (exec (.flush .always ⟨5, some 1⟩) sDirty) (fun t => (t.slot 0 0).tcause == 2 && (t.slot 0 0).tval == 0x15 && (t.slot 0 0).masked) = true := by decide +kernel

/-! Fills, tokens, replies. -/

/-- A fill of ones at the core for frame 4, of which bytes 0 and 1 are written already. -/
def sFill (gone : Bool) : State :=
  { sLine.onCore 0 fun k => { k with frames := [(4, { frame0 with valid := nibbleMask 0 2, dirty := nibbleMask 0 2, fill := some 5, abandoned := gone })] } with
    reqs := [{ req0 (.fill 4) with stage := .here, result := State.carry (-1) (nibbleMask 8 1), ops := [(0, .o, 3)] }] }
theorem wit_fill : (match (sFill false).fillHere 0 4 with
      | some r => r.id == 5
      | none => false) = true ∧
    (sFill false).closedNow 0 = false ∧ ((State.waysOfFrame ((sFill false).core 0) 4).any fun w => w.2.2.2.moved) = false ∧ ((sFill false).core 0).waits = [] ∧
    goes (exec (.fillArrives 0 4) (sFill false)) (fun t => t.reqs == [] && (match AMap.find? (t.core 0).frames 4 with
      | some x => x.data.byte 1 == 2 && x.data.byte 2 == 0xFF && x.valid == -1 && x.poison == nibbleMask 8 1 && x.dirty == nibbleMask 0 2 && x.fill == none
      | none => false)) = true ∧
    goes (exec (.abandonedFillArrives 0 4) (sFill true)) (fun t => t.reqs == [] && (t.core 0).frames == []) = true := by decide +kernel
/-- An open of slot 0 that waits for tokens, with so many of its crew in use. -/
def sWait (need used detect : Nat) : State := cOn fun k => { k with
  slots := [(0, { slot0 with hold := .opening 6, opsO := [⟨3, false, false, none⟩] })]
  crews := [(0, { Crew.reset with floorUsed := used })]
  detect := detect
  waits := [{ wid := 6, since := 90, crew := 0, lreg := 2, p := 3, op := 3, pcLen := 12, need := need, taken := false, walk := none,
              lines := [], lanes := [⟨0, some 0, true⟩], ctx := 3, keep := false, isSopen := false }] }
theorem wit_tokens : ((sWait 2 15 0).tokenNext 0).isSome = true ∧ (sWait 2 15 0).issueDone 0 = true ∧ (sWait 2 15 0).coreDue 0 = false ∧
    goes (exec (.tokenWaitMet 0 6) (sWait 2 15 0)) (fun t => (t.core 0).waits == [] && ((t.core 0).crew 0).floorUsed == 16 &&
      ((t.core 0).crew 0).drawn == 1 && (t.slot 0 0).hold == .free && (t.slot 0 0).pc == 0x0100001C && (t.slot 0 0).count .o == 1) = true ∧
    (sWait 6 15 4095).detectorDue 0 = true ∧ (sWait 6 15 4094).detectorDue 0 = false ∧ (sWait 5 15 4095).detectorDue 0 = false ∧
    goes (exec (.detectorFire 0) (sWait 6 15 4095)) (fun t => (t.core 0).waits == [] && (t.core 0).fires == 1 && !(t.slot 0 0).pred 3 &&
      (t.slot 0 0).ostat == 0x2002 && (t.slot 0 0).hold == .free) = true := by decide +kernel
/-- An open whose walk a hand-over held. -/
def sWalk : State := (sOpen 2).onCore 0 fun k => { k with
  slots := [(0, { slot0 with hold := .opening 6, opsO := [⟨3, false, false, none⟩], regs := [(1, 0x204)] })]
  waits := [{ wid := 6, since := 90, crew := 0, lreg := 2, p := 3, op := 3, pcLen := 12, need := 0, taken := false,
              walk := some (.openLine .always .r 0 2 3 0 1), lines := [], lanes := [⟨0, none, true⟩], ctx := 3, keep := false, isSopen := false }] }
theorem wit_walk : goes (exec (.walkRead 0 6) sWalk) (fun t => (t.core 0).waits == [] && ((t.core 0).way 0 2 0).kind == .home &&
    (t.slot 0 0).pred 3 && (t.slot 0 0).hold == .free) = true := by decide +kernel
/-- A read's reply, poisoned and not. -/
def sReply (bad : Bool) : State := { sReq (.read [(0, 0, 4)] (.ldWC 10 ⟨2, none⟩ 1) false) with
  reqs := [{ req0 (.read [(0, 0, 4)] (.ldWC 10 ⟨2, none⟩ 1) false) with stage := .here, result := [(0, 10, 0x77, bad)] }] }
theorem wit_reply : ((sReply true).slot 0 0).opsH.any (fun o => o.id == 3 && !o.done) = true ∧
    goes (exec (.reply 5 none) (sReply false)) (fun t => (t.slot 0 0).reg 10 == 0x77 && !(t.slot 0 0).poisoned 10 && (t.slot 0 0).count .h == 0 && t.reqs == []) = true ∧
    goes (exec (.reply 5 none) (sReply true)) (fun t => (t.slot 0 0).poisoned 10) = true := by decide +kernel
/-- `sigw` on its way, met, and poisoned. -/
def sSigw (ok : Bool) : State := { sOn fun t => { t with hold := .sigw 5 0x1004 } with
  reqs := [{ req0 (.sigw 0 4 0 1) with stage := .here, ok := ok, ops := [], result := if ok then [] else [(0, 0, 0, true)] }] }
theorem wit_sigw : goes (exec (.sigw .always .n32 ⟨2, some 1⟩ 4 7) sLine) (fun t => (t.slot 0 0).hold == .sigw 9 0x2004 &&
      (t.slot 0 0).pc == 0x01000010 && t.reqs.map (fun r => (r.id, r.kind, r.pa)) == [(9, .sigw 4 4 0 2, 0x2000)]) = true ∧
    goes (exec (.reply 5 none) (sSigw true)) (fun t => (t.slot 0 0).pc == 0x0100001C && (t.slot 0 0).hold == .free) = true ∧
    goes (exec (.reply 5 none) (sSigw false)) (fun t => (t.slot 0 0).tcause == 0x5115 && (t.slot 0 0).tval == 0x1004 && (t.slot 0 0).pc == 0x01000010) = true := by
  decide +kernel
/-- A request to be sent again from cycle 100, which is now, or 101; one held at its source. -/
def sStage (g : Stage) : State := { s0 with reqs := [{ req0 (.sigw 0 4 0 1) with stage := g }] }
theorem wit_resend : goes (exec (.sigwResend 5) (sStage (.resend 100))) (fun t => t.reqs.map Req.stage == [.port]) = true ∧
    gives (exec (.sigwResend 5) (sStage (.resend 101))) (sStage (.resend 101)) = true ∧
    goes (exec (.requestEntryFree 5) (sStage .source)) (fun t => t.reqs.map Req.stage == [.port]) = true ∧
    (sStage .source).outstanding 0 < 1024 ∧ (sStage .source).sliceLoad (req0 (.sigw 0 4 0 1)) < 1024 ∧
    (sStage .source).route 0 (stackOf 0x2000) = 0 := by decide +kernel

/-! Tiles and engines. -/

/-- Bytes at rising addresses. -/
def bytesFrom (a : Nat) (l : List Nat) : AMap Byte := (l.zipIdx).map fun x => (a + x.2, BitVec.ofNat 8 x.1)
/-- A tile of bind 0: state, format, base over 512, lines per row and rows less one. -/
def tileOf (st fmt base lpr rows : Nat) : W64 :=
  BitVec.ofNat 64 (st * 2 ^ 62 + fmt * 2 ^ 58 + 2 ^ 57 + base * 2 ^ 34 + lpr * 2 ^ 24 + rows * 2 ^ 8)
/-- Blocks in scratch: 0x100 an `mload` of tile 2 to macro 3; 0x140 an `mma` of tiles 4 and 5 on macro 3, one pass; 0x200 a
copy of 4 bytes from tile 4 to tile 6. v1 holds 0x100, v2 0x140, v3 0x200, v4 0x101, the pair at v6 an entry of format 0 at
512 with 2 rows of 1 line. -/
def sEng : State := cOn fun k => { k with
  slots := [(0, { slot0 with regs := [(1, 0x100), (2, 0x140), (3, 0x200), (4, 0x101), (6, 0x100), (7, 4)] })]
  binds := [(0, { bind0 with macros := 8 })]
  tiles := [(2, tileOf 2 1 64 0 255), (4, tileOf 2 1 2 0 0), (5, tileOf 2 0 4 7 0), (6, tileOf 0 1 12 0 0), (7, tileOf 1 0 0 0 0)]
  macros := [(3, { Macro.reset with kind := .lns6, count := 5 })]
  scratch := bytesFrom 0x100 [2, 3] ++ bytesFrom 0x140 [8, 0, 0, 0, 4, 5, 1] ++
    bytesFrom 0x200 ([0x19, 0, 0, 0, 4, 0, 0, 0] ++ List.replicate 8 0 ++ [6] ++ List.replicate 15 0 ++ [4]) ++
    bytesFrom 0x400 [0xA1, 0xA2, 0xA3, 0xA4, 0xA5] }
theorem wit_eng : sEng.Runs 0 0 12 .always [1, 2, 3, 4, 6, 7] ∧ (sEng.core 0).owns 0 2 = true ∧ (sEng.core 0).owns 0 8 = false ∧
    loadKind ((sEng.core 0).tile 2) = some .lns6 ∧ mmaOk (sEng.core 0) (BitVec.ofNat 1024 (sEng.scratchNum 0 0x140 64)) = true := by
  unfold State.Runs State.Alone
  decide +kernel
theorem test_talloc : goes (exec (.talloc .always 9 6) sEng) (fun t => (t.core 0).tile 9 == 0x0200000400000100 && (t.slot 0 0).count .m == 0 &&
      (t.slot 0 0).pc == 0x0100001C) = true ∧
    goes (exec (.talloc .always 2 6) sEng) (fun t => (t.slot 0 0).tcause == 0x6116 && (t.slot 0 0).tval == 2) = true ∧
    goes (exec (.talloc .always 9 6) (sEng.onSlot 0 0 fun t => t.setReg 7 0x24000000)) (fun t => (t.slot 0 0).tcause == 1 && (t.slot 0 0).tval == 6) = true ∧
    goes (exec (.talloc .always 9 6) (sEng.onSlot 0 0 fun t => t.setReg 6 1)) (fun t => (t.slot 0 0).tcause == 0x6118) = true ∧
    goes (exec (.talloc .always 9 6) (sEng.onSlot 0 0 fun t => t.setReg 7 0xFFC)) (fun t => (t.core 0).tile 9 == 0x02000FFC00000100) = true ∧
    goes (exec (.talloc .always 9 6) (sEng.onSlot 0 0 fun t => (t.setReg 7 0xFFC).setReg 6 0x400)) (fun t => (t.slot 0 0).tcause == 0x6118) = true := by
  decide +kernel
theorem test_tfree : goes (exec (.tfree .always 8) sEng) (fun t => (t.slot 0 0).tcause == 0x6116 && (t.slot 0 0).tval == 8) = true ∧
    gives (exec (.tfree .always 7) sEng) sEng = true ∧
    goes (exec (.tfree .always 2) sEng) (fun t => (t.core 0).engine.map (fun o => (o.id, o.tiles)) == [(9, [2])] && (t.slot 0 0).count .m == 1 &&
      goes (exec (.tfreeEffect 0 9) t) (fun u => !((u.core 0).tile 2).getLsbD 57 && (u.slot 0 0).count .m == 0 && (u.core 0).engine == [])) = true := by
  decide +kernel
theorem test_tstat : regAfter (.tstat .always 10 4) sEng 11 = 0x86000008 ∧ regAfter (.tstat .always 10 8) (sEng.onSlot 0 0 fun t => t.setReg 10 5) 10 = 0 := by
  decide +kernel
theorem test_engine_blocks : (goes (exec (.mload .always 4) sEng) fun t => (t.slot 0 0).tcause == 0x6118 && (t.slot 0 0).tval == 0x101) = true ∧
    (goes (exec (.mma .always 4) sEng) fun t => (t.slot 0 0).tcause == 0x6118) = true ∧
    (goes (exec (.copy .always 2) sEng) fun t => (t.slot 0 0).tcause == 0x6118 && (t.slot 0 0).tval == 0x140) = true := by decide +kernel
/-- An `mload` issues, and completes with the tile's lines; a fenced macro traps, an empty tile holds it. -/
theorem test_mload : goes (exec (.mload .always 1) sEng) (fun t => (t.slot 0 0).count .m == 1 && (t.slot 0 0).pc == 0x0100001C &&
      (let u (n : Nat) : State := { t with tick := 3 * n }
       gives (exec (.mloadComplete 0 9) (u 611)) (u 611)) &&
      goes (exec (.mloadComplete 0 9) { t with tick := 3 * 612 }) (fun u => (u.slot 0 0).count .m == 0 && ((u.core 0).macro 3).count == 6 &&
        ((u.core 0).macro 3).rows.length == 256)) = true ∧
    goes (exec (.mload .always 1) (sEng.onCore 0 fun k => k.onMacro 3 fun m => { m with fenced := true })) (fun t =>
      (t.slot 0 0).tcause == 0x6117 && (t.slot 0 0).tval == 8) = true ∧
    gives (exec (.mload .always 1) (sEng.onCore 0 fun k => k.setTileState 2 0)) (sEng.onCore 0 fun k => k.setTileState 2 0) = true := by decide +kernel
/-- A copy of four bytes between tiles: issue, its one line read and written, completion. -/
theorem test_copy : goes (exec (.copy .always 3) sEng) (fun t => (t.slot 0 0).count .c == 1 && tState ((t.core 0).tile 4) == 3 &&
      tState ((t.core 0).tile 6) == 1) = true ∧
    goes (exec (.copy .always 3) sEng) (fun q => goes (exec (.engineLineRead 0 9 0) q) fun v => goes (exec (.engineLineWrite 0 9 0) v) fun t =>
      (t.core 0).scratch.get 0 0x1800 == 0xA1 && (t.core 0).scratch.get 0 0x1803 == 0xA4 &&
      (t.core 0).scratch.get 0 0x1804 == 0 && tState ((t.core 0).tile 4) == 2 && tState ((t.core 0).tile 6) == 2 &&
      goes (exec (.copyComplete 0 9) t) (fun u => (u.slot 0 0).count .c == 0 && (u.core 0).engine == [])) = true := by decide +kernel
/-- A copy between device lines. -/
def sCopyHome : State := { cOn fun k => { k with
    slots := [(0, { slot0 with opsC := [⟨6, false, false, none⟩] })]
    engine := [{ id := 6, slot := 0, opId := 6, bind := 0, inst := .copy .always 3, block := BitVec.ofNat 1024 (0x1 + 2 * 2 ^ 32 + 3 * 2 ^ 128 + 2 * 2 ^ 256),
                 tiles := [], macros := 0, srcBase := 0x1000, dstBase := 0x2000, runs := [(4, 127, 0, 0)], src := [wayOf .home],
                 dst := [{ wayOf .home with va := 0x2000, pa := 0x2000 }, { wayOf .home with va := 0x2080, pa := 0x2080 }],
                 reads := [], asked := [], written := [], began := none }] } with
  mem := [(0x1004, 0x44), (0x1005, 0x55), (0x2000, 1)] ++ s0.mem }
/-- With the engine's operation or its requests changed. -/
def sCopyAt (f : EngineOp → EngineOp) (l : List Req) : State :=
  { sCopyHome.onCore 0 fun k => { k with engine := k.engine.map f } with reqs := l }
/-- An engine's request. -/
def reqE (k : ReqKind) (pa : Nat) : Req := { req0 k with lanes := [], ops := [], pa := pa }
theorem wit_copyRead : let op := sCopyHome.engineOp 0 6
    (op.map EngineOp.src = some [wayOf .home] ∧ (op.all fun o => sCopyHome.mayRun 0 o && sCopyHome.backsDone 0 o) = true) ∧
    goes (exec (.engineLineRead 0 6 0) sCopyHome) (fun t => (t.core 0).engine.map EngineOp.asked == [[0]] &&
      t.reqs.map (fun r => (r.kind, r.pa)) == [(.engRead 6 0, 0x1000)]) = true ∧
    (let s := sCopyAt (fun o => { o with asked := [0] }) [reqE (.engRead 6 0) 0x1000]
     (s.engineReq 0 (· == .engRead 6 0)).map Req.id = some 5 ∧ s.performable (reqE (.engRead 6 0) 0x1000) = true ∧
     goes (exec (.engineLineRead 0 6 0) s) (fun t => t.reqs.map (fun r => (r.stage, (State.carried r.result).1.read 4 2)) == [(.here, 0x5544)]) = true) ∧
    (let s := sCopyAt (fun o => { o with asked := [0] }) [{ reqE (.engRead 6 0) 0x1000 with stage := .here, result := State.carry 0x5544 0 }]
     goes (exec (.reply 5 none) s) (fun t => (t.core 0).engine.map EngineOp.reads == [[(0, ((0x5544 : Line), 0))]] && t.reqs == []) = true) := by
  decide +kernel
/-- The bytes 4 and 5 of the source line, as the reads give them: to 0x207F and 0x2080. -/
def copyRead (o : EngineOp) : EngineOp := { o with reads := [(0, ((0x554400000000 : Line), 0))] }
theorem wit_copyWrite : let s := sCopyAt copyRead []
    (s.engineOp 0 6).bind (fun o => State.copyLine o { wayOf .home with va := 0x2000, pa := 0x2000 }) =
      some ((0x44 : Line) <<< 1016, nibbleMask 127 1, 0) ∧
    goes (exec (.engineLineWrite 0 6 1) s) (fun t => (t.core 0).engine.map EngineOp.asked == [[2]] &&
      t.reqs.map (fun r => (r.kind, r.pa)) == [(.engWrite 6 1 0x55 (nibbleMask 0 1) 0, 0x2080)]) = true ∧
    (let s := sCopyAt (fun o => { copyRead o with asked := [2] }) [reqE (.engWrite 6 1 0x55 (nibbleMask 0 1) 0) 0x2080]
     (s.engineReq 0 (writesLine 6 1)).map Req.id = some 5 ∧ s.performable (reqE (.engWrite 6 1 0x55 (nibbleMask 0 1) 0) 0x2080) = true ∧
     goes (exec (.engineLineWrite 0 6 1) s) (fun t => t.byteAt 0x2080 == 0x55 && t.byteAt 0x2081 == 0 && t.byteAt 0x207F == 0 &&
       (t.core 0).engine.map EngineOp.written == [[1]]) = true) ∧
    (let s := sCopyAt (fun o => { copyRead o with written := [1] }) []
     goes (exec (.copyComplete 0 6) s) (fun v => v == s) = true) ∧
    (let s := sCopyAt (fun o => { copyRead o with written := [1, 0] }) []
     goes (exec (.copyComplete 0 6) s) (fun x => (x.core 0).engine == [] && (x.slot 0 0).count .c == 0) = true) := by decide +kernel
/-- A copy of 32 FP32 elements of 1.0, read, to LNS12, whose code of 1.0 is 0x400: its destination's line. -/
def opConv : EngineOp :=
  { id := 6, slot := 0, opId := 6, bind := 0, inst := .copy .always 3, block := BitVec.ofNat 1024 (32 * 2 ^ 256), tiles := [], macros := 0,
    srcBase := 0x1000, dstBase := 0x2000, runs := [(0, 0, 0, 3)], src := [wayOf .home], dst := [], asked := [], written := [], began := none,
    reads := [(0, (lineOfBytes ((List.replicate 32 [0, 0, 0x80, 0x3F]).flatten), 0))] }
theorem wit_copyConvert : elementCount 0 = 32 ∧ elementCount 3 = 64 ∧ (dimOf opConv.block 0).1 = 32 ∧
    (State.convLine opConv 32 (0, 0, 0, 3) 0).map (fun l => (l.1.read 60 4, l.1.read 64 2, l.2)) = some (0x04000400, 0, 0) := by decide +kernel
/-- An `mma` of one pass: A is one element 1, B column 0 the same. -/
def sMma : State := sEng.onCore 0 fun k => { k with
  scratch := (bytesFrom 0x100 [2, 3] ++ bytesFrom 0x140 [8, 0, 0, 0, 4, 5, 1] ++ bytesFrom 0x400 (List.replicate 128 0))
  engine := [{ id := 6, slot := 0, opId := 6, bind := 0, inst := .mma .always 2, block := BitVec.ofNat 1024 (8 + 4 * 2 ^ 32 + 5 * 2 ^ 40 + 2 ^ 48),
               tiles := [4, 5], macros := 8, srcBase := 0, dstBase := 0, runs := [], src := [], dst := [scratchWay 0x800],
               reads := [], asked := [], written := [], began := none }] }
theorem wit_mma : goes (exec (.mma .always 2) sEng) (fun t => (t.slot 0 0).count .m == 1 && (t.slot 0 0).pc == 0x0100001C &&
      (t.core 0).engine.map (fun o => (o.tiles, o.macros, o.dst.length)) == [([4, 5], 8, 8)]) = true ∧
    gives (exec (.mma .always 2) (sEng.onCore 0 fun k => k.setTileState 5 1)) (sEng.onCore 0 fun k => k.setTileState 5 1) = true ∧
    sMma.mayRun 0 ((sMma.engineOp 0 6).getD (State.emptyOp .nopC 0 0)) = true ∧ sMma.backsDone 0 ((sMma.engineOp 0 6).getD (State.emptyOp .nopC 0 0)) = true ∧
    goes (exec (.mmaComplete 0 6) ((sMma.onSlot 0 0 fun u => { u with opsM := [⟨6, false, false, none⟩] }).onCore 0 fun k =>
        { k with engine := k.engine.map fun o => { o with written := [0], began := some (48, false) } })) (fun u => (u.slot 0 0).count .m == 0 &&
      ((u.core 0).macro 3).count == 6 && (u.core 0).engine == []) = true := by decide +kernel
/-- A `talloc` of a tile that an operation names waits, and takes effect with the `tfree`; another is TILE_INVALID. -/
def sTalloc (l : List EngineOp) : State := sEng.onCore 0 fun k => { k with engine := l }
def opFree : EngineOp := { State.emptyOp (.tfree .always 9) 0 0 with id := 6, opId := 6, tiles := [9] }
def opAlloc : EngineOp := { State.emptyOp (.talloc .always 9 6) 0 0x0200000400000100 with id := 7, opId := 7, tiles := [9] }
theorem wit_tallocWaits : State.isTalloc opAlloc = true ∧
    goes (exec (.talloc .always 9 6) (sTalloc [opFree])) (fun t => (t.core 0).engine.map EngineOp.id == [6, 9] && (t.slot 0 0).count .m == 1 &&
      !((t.core 0).tile 9).getLsbD 57 && (t.slot 0 0).pc == 0x0100001C) = true ∧
    goes (exec (.talloc .always 9 6) (sTalloc [opFree, opAlloc])) (fun t => (t.slot 0 0).tcause == 0x6116) = true ∧
    (sTalloc [opFree, opAlloc]).mayRun 0 opFree = true ∧
    goes (exec (.tfreeEffect 0 6) (sTalloc [opFree, opAlloc])) (fun t => (t.core 0).engine == [] &&
      (t.core 0).tile 9 == 0x0200000400000100) = true := by decide +kernel
theorem test_selfTest : let s (n : Nat) := sEng.onCore 0 fun k => k.onMacro 3 fun m => { m with count := n }
    gives (exec (.macroSelfTest 0 3 false) (s 63)) (s 63) = true ∧
    goes (exec (.macroSelfTest 0 3 false) (s 64)) (fun t => ((t.core 0).macro 3).fenced && ((t.core 0).macro 3).count == 0) = true ∧
    goes (exec (.macroSelfTest 0 3 true) (s 64)) (fun t => !((t.core 0).macro 3).fenced) = true ∧
    goes (exec (.macroFenceClear 0 3) (cOn fun k => { k with binds := [], macros := [(3, { Macro.reset with fenced := true })] })) (fun t =>
      !((t.core 0).macro 3).fenced) = true := by decide +kernel

/-! Seams. -/

/-- The control word of `seamld`. -/
def sld (op cnt start bind seam : Nat) : W32 := BitVec.ofNat 32 (op * 2 ^ 29 + cnt * 2 ^ 22 + start * 2 ^ 9 + bind * 2 ^ 6 + seam)
/-- An image of one word, `end`, at scratch 0x100, a region for context 3, a bound seam 5, and a privileged bind. -/
def sSeam (priv : Bool) : State := cOn fun k => { k with
  slots := [(0, { slot0 with regs := [(1, 0x100), (2, sld 0 1 1030 0 7), (3, sld 1 0 0 0 5), (4, sld 2 0 0 0 5), (5, sld 0 1 1040 0 6), (6, 9), (7, 8)] })]
  binds := [(0, { bind0 with priv := priv })]
  regions := [(3, 1)]
  seams := [(3, [(5, BitVec.ofNat 32 (2 ^ 31 + 1040 * 128 + 2))])]
  cstore := [(1040, 0x123), (1041, 0x456)]
  scratch := bytesFrom 0x100 (bytesOfUop .uopEnd ++ [1]) }
where
  /-- The bytes of a word. -/
  bytesOfUop (i : Instr) : List Nat := (List.range 8).map fun j => (((encodeUop i).getD 0).toNat >>> (8 * j)) % 256
theorem wit_seam : (sSeam true).Runs 0 0 12 .always [1, 2, 3, 4, 5, 6, 7] ∧ (sSeam true).seamFault 0 0x100 (sld 0 1 1030 0 7) = none ∧
    (sSeam true).seamFault 0 0x100 (sld 0 1 1040 0 6) = some (5, 0) ∧ (sSeam true).seamFault 0 0x100 (sld 0 1 1023 0 6) = some (4, 0) ∧
    (sSeam true).seamFault 0 0x108 (sld 0 1 1030 0 7) = some (6, 0) ∧ ((sSeam true).bindOf 0 0).priv = true ∧ ((sSeam false).bindOf 0 0).priv = false := by
  unfold State.Runs State.Alone
  decide +kernel
theorem test_seamld : goes (exec (.seamld .always 1 2) (sSeam false)) (fun t => (t.slot 0 0).tcause == 1 && (t.slot 0 0).tval == 10) = true ∧
    goes (exec (.seamld .always 1 2) (sSeam true)) (fun t => (t.core 0).seamEntry 3 7 == BitVec.ofNat 32 (2 ^ 31 + 1030 * 128 + 1) &&
      (t.core 0).cword 1030 == (encodeUop .uopEnd).getD 1 && (t.slot 0 0).pc == 0x0100001C) = true ∧
    goes (exec (.seamld .always 1 3) (sSeam true)) (fun t => !seamBound ((t.core 0).seamEntry 3 5) && (t.slot 0 0).pc == 0x0100001C) = true ∧
    goes (exec (.seamld .always 1 4) (sSeam true)) (fun t => (t.slot 0 0).tcause == 8 && (t.slot 0 0).tval == 1) = true ∧
    goes (exec (.seamld .always 1 5) (sSeam true)) (fun t => (t.slot 0 0).tcause == 8 && (t.slot 0 0).tval == 5) = true := by decide +kernel
theorem test_xseam : goes (exec (.xseam .always 6 10 1 2 3 4 0x55) (sSeam false)) (fun t => (t.slot 0 0).tcause == 1 && (t.slot 0 0).tval == 9) = true ∧
    goes (exec (.xseam .always 5 6 1 2 3 4 0x55) (sSeam false)) (fun t => (t.slot 0 0).hold == .seam && (t.slot 0 0).pc == 0x01000010 &&
      (match (t.slot 0 0).seam with
        | some r => r.words == [0x123, 0x456] && r.srcs == [0x100, sld 0 1 1030 0 7, sld 1 0 0 0 5, 9, 8, 0x55] && r.q == List.replicate 8 0
        | none => false)) = true := by decide +kernel

/-- A run of a seam whose words do not matter. -/
def run0 : SeamRun :=
  { group := 6, start := 1040, words := [0, 0, 0, 0, 0, 0, 0, 0], idx := 2, q := [10, 0x40000000, 0xFFFFFFFF, 0x40400000, 35, 0, 0, 0],
    srcs := [1, 2, 3, 4, 5, 0x99], a := 1, b := 2, c := 3, d := 12, p := 4, buf := [], lo := none, hi := none, pr := none, loop := none }
/-- `sLine` with slot 0 in a run. -/
def sRun (r : SeamRun) : State := sLine.onSlot 0 0 fun t => { t with hold := .seam, seam := some r }
/-- The run after a micro-op. -/
def runAfter (i : Instr) (r : SeamRun) : Option SeamRun :=
  match exec i (sRun r) with
  | .next t => (t.slot 0 0).seam
  | _ => none
theorem wit_run : (sRun run0).Alone 0 0 12 ∧ ((sRun run0).slot 0 0).seam = some run0 ∧ ((sRun run0).core 0).cstorePoison.get false 1042 = false := by
  unfold State.Alone
  decide +kernel
theorem test_uops : runAfter (.uopAdd 5 0 8 0) run0 = some { run0 with idx := 3, q := run0.q.set 5 11 } ∧
    runAfter (.uopSub 5 8 0 0) run0 = some { run0 with idx := 3, q := run0.q.set 5 (-9) } ∧
    runAfter (.uopSub 0 0 14 3) run0 = some { run0 with idx := 3, q := run0.q.set 0 7 } ∧
    runAfter (.uopMad 5 0 0 13 0) run0 = some { run0 with idx := 3, q := run0.q.set 5 253 } ∧
    runAfter (.uopShr true 5 2 0 0) run0 = some { run0 with idx := 3, q := run0.q.set 5 0xFFFFFFFF } ∧
    runAfter (.uopShl 5 0 4 0) run0 = some { run0 with idx := 3, q := run0.q.set 5 0 } ∧
    runAfter (.uopCmp .ltI 5 2 0 0) run0 = some { run0 with idx := 3, q := run0.q.set 5 1 } ∧
    runAfter (.uopCmp .ltN 5 2 0 0) run0 = some { run0 with idx := 3, q := run0.q.set 5 0 } ∧
    runAfter (.uopFma .rne 5 1 3 1 0) run0 = some { run0 with idx := 3, q := run0.q.set 5 0x41000000 } ∧
    runAfter (.uopSel 5 0 8 15 0) run0 = some { run0 with idx := 3, q := run0.q.set 5 1 } ∧
    runAfter (.uopPack .bf16 .rne 5 1 3 0) run0 = some { run0 with idx := 3, q := run0.q.set 5 0x40404000 } := by decide +kernel
theorem test_uopFlow : runAfter (.uopBrf true 5 6) run0 = some { run0 with idx := 6 } ∧
    runAfter (.uopBrf true 0 6) run0 = some { run0 with idx := 3 } ∧ runAfter (.uopBrf false 14 6) run0 = some { run0 with idx := 6 } ∧ runAfter (.uopBrf false 0 6) run0 = some { run0 with idx := 6 } ∧
    runAfter (.uopLoop false 0 5 4) run0 = some { run0 with idx := 3, loop := some (3, 5, 4) } ∧
    runAfter (.uopLoop true 8 5 4) run0 = some { run0 with idx := 3, loop := some (3, 5, 1) } ∧
    runAfter (.uopLoop true 5 5 4) run0 = some { run0 with idx := 6 } ∧
    runAfter (.uopAdd 5 0 8 0) { run0 with idx := 5, loop := some (3, 5, 2) } = some { run0 with idx := 3, loop := some (3, 5, 1), q := run0.q.set 5 11 } ∧
    runAfter (.uopAdd 5 0 8 0) { run0 with idx := 5, loop := some (3, 5, 1) } = some { run0 with idx := 6, q := run0.q.set 5 11 } ∧
    runAfter (.uopWr .pd 5 0) run0 = some { run0 with idx := 3, pr := some false } ∧
    runAfter (.uopWr .vdh 0 0) run0 = some { run0 with idx := 3, hi := some 10 } ∧
    runAfter (.uopShfl .idx 5 0 4 0) run0 = some { run0 with idx := 3, q := run0.q.set 5 10 } ∧
    runAfter (.uopShfl .idx 5 1 15 0) run0 = some { run0 with idx := 3, q := run0.q.set 5 0x40000000 } := by decide +kernel
/-- Line micro-ops at offset 126 of the frame, and the commit. -/
theorem test_uopLines : runAfter (.uopLld 5 8 125 ⟨2, none⟩) run0 = some { run0 with idx := 3, q := run0.q.set 5 0x0201807F } ∧
    runAfter (.uopLst 8 0 125 ⟨2, none⟩) run0 = some { run0 with idx := 3, buf := [⟨⟨2, none⟩, 0, 126, 10⟩] } ∧
    goes (exec .uopEnd (sRun { run0 with buf := [⟨⟨2, none⟩, 0, 126, 10⟩], lo := some 7, hi := some 8, pr := some true })) (fun t =>
      (t.lineImage 0 (wayOf (.frame 4))).1.read 126 4 == 10 && (t.slot 0 0).reg 12 == 7 && (t.slot 0 0).reg 13 == 8 && (t.slot 0 0).pred 4 &&
      (t.slot 0 0).pc == 0x0100001C && (t.slot 0 0).seam == none && (t.slot 0 0).hold == .free) = true ∧
    goes (exec .uopEnd ((sRun run0).onCore 0 fun k => { k with cstorePoison := [(1042, true)] })) (fun t => (t.slot 0 0).tcause == 0x115 &&
      (t.slot 0 0).tval == 1042 && (t.slot 0 0).pc == 0x01000010 && (t.slot 0 0).seam == none) = true := by decide +kernel

/-! The platform. -/

/-- The reset state's registers, as a test of `ResetValues` beside its proof. -/
theorem test_resetRegisters : State.reset.register 0x40 = 1500 ∧ State.reset.register 0x48 = 0x6E5F ∧ State.reset.register 0x60 = 0x271003E80064 ∧
    State.reset.register 0x20020 = 1 ∧ State.reset.register 0x10008 = 0x8000000 ∧ State.reset.register 0x30008 = 0 ∧ State.reset.register 0x21000 = 0 := by
  decide +kernel
theorem wit_windowOpen : (s0.link 16).discarding = false ∧ s0.outerKnown 3 7 = false ∧ s0.outerRoom 3 = true ∧ s0.outerPending 3 = false ∧
    (let s : State := { s0 with outerWindow := [(3, 7, 0, [])] }
     s.outerKnown 3 7 = true ∧ s.outerKnown 3 8 = false ∧
     ({ s0 with outerWindow := List.replicate 1024 (3, 7, 0, []) } : State).outerRoom 3 = false ∧
     ({ s0 with reqs := [{ req0 (.outer 3 6 (.read .b)) with stage := .port }] } : State).outerPending 3 = true) := by decide +kernel
theorem test_window : goes (exec (.hostRegisterRead 3 7 0x40) s0) (fun t => t.outerWindow == [(3, 7, 0, [0xDC, 5, 0, 0, 0, 0, 0, 0])] &&
      goes (exec (.hostRegisterRead 3 7 0x48) t) (fun u => u.outerWindow == t.outerWindow)) = true ∧
    goes (exec (.msgbaseWrite ⟨3, 7, 0x123456003⟩) s0) (fun t => t.msgbase == 0x123456000) = true ∧
    goes (exec (.msgbaseWrite ⟨3, 7, 0x123456010⟩) s0) (fun t => t.msgbase == 0x123456010 && goes (exec (.plimWrite ⟨3, 7, 400⟩) t) (fun u => u.plim == t.plim)) = true ∧
    goes (exec (.plimWrite ⟨3, 7, 200⟩) s0) (fun t => t.plim == 300) = true ∧ goes (exec (.plimWrite ⟨3, 7, 2000⟩) s0) (fun t => t.plim == 1500) = true ∧
    goes (exec (.tlimWrite ⟨3, 7, 0x170⟩) s0) (fun t => t.soft == 105) = true ∧ goes (exec (.tlimWrite ⟨3, 7, 59⟩) s0) (fun t => t.soft == 60) = true ∧
    goes (exec (.dlineWrite ⟨3, 7, 0x9999000000050000⟩) s0) (fun t => t.dline == 0x000100050001) = true ∧
    goes (exec (.cmdpaWrite ⟨3, 7, 0x5000⟩) s0) (fun t => t.commands.map Command.pa == [0x5000]) = true ∧
    goes (exec (.plimWrite ⟨3, 7, 400⟩) { s0 with phase := 0xF2 }) (fun t => t.plim == s0.plim && t.outerWindow == [(3, 7, 0, [])]) = true ∧
    goes (exec (.hostRegisterWrite 0x50 ⟨3, 7, 400⟩) s0) (fun t => t.temp0 == s0.temp0 && t.outerWindow == [(3, 7, 0, [])]) = true ∧
    goes (exec (.deviceReset ⟨3, 7, 0x52534554⟩) s0) (fun t => t.phase == 0 && t.rreason == 1 && t.mem == s0.mem && t.cores == []) = true ∧
    goes (exec (.deviceReset ⟨3, 7, 0⟩) s0) (fun t => t.phase == 5 && t.cores == s0.cores) = true ∧
    goes (exec (.powerThermalReading 1501 10 95 96) s0) (fun t => t.overPower && t.hot == 2 && t.register 0x50 == 0x605F && t.register 0x58 == 10) = true := by
  decide +kernel
theorem wit_cmdFull : let s : State := { s0 with commands := List.replicate 64 { pa := 0, done := false, code := 0, tag := 0, result := 0, awaits := none } }
    64 ≤ s.commands.length ∧ goes (exec (.cmdpaWrite ⟨3, 7, 0⟩) s) (fun t => t.cdrop == 1 && t.commands.length == 64) = true := by decide +kernel
/-- Bring-up: memory zeroed but for the dump; the training of the modules; `%clock` from 0. -/
theorem test_bringUp : goes (exec .powerOn State.reset) (fun t => t.phase == 1) = true ∧ ({ State.reset with phase := 1 } : State).phase = 0x01 ∧
    goes (exec (.stackTraining none) { State.reset with phase := 2, mem := [(5, 5), (0xBF0000000, 6)] }) (fun t => t.phase == 3 && t.mem == []) = true ∧
    goes (exec (.stackTraining none) { State.reset with phase := 2, rreason := 1, mem := [(5, 5), (0xBF0000000, 6)] }) (fun t => t.mem == [(0xBF0000000, 6)]) = true ∧
    goes (exec (.stackTraining (some 6)) { State.reset with phase := 2 }) (fun t => t.phase == 0xF1 && t.failst == 6) = true ∧
    goes (exec (.d2dTraining [1, 2] [2, 3]) { State.reset with phase := 3 }) (fun t => t.phase == 4 &&
      [0, 1, 2, 3].map (fun m => ((t.module m).state, (t.module m).width)) == [(.active, 0), (.active, 2), (.down, 3), (.active, 1)]) = true ∧
    goes (exec (.d2dTraining [2, 14] [2, 14]) { State.reset with phase := 3 }) (fun t => t.phase == 0xF3) = true ∧
    goes (exec (.knanosStart (some 0)) { State.reset with phase := 4, tick := 77 }) (fun t => t.phase == 5 && t.tick == 0 && (t.arbiter 4).owner == 1) = true ∧
    goes (exec (.knanosStart (some 0x18)) { State.reset with phase := 4 }) (fun t => (t.arbiter 4).owner == 0 && (t.arbiter 3).owner == 1 &&
      t.route 0 3 == 1 && (t.arbiter 5).owner == 1) = true ∧
    goes (exec (.knanosStart none) { State.reset with phase := 4 }) (fun t => t.phase == 0xF0 && t.failst == 0xFF) = true ∧
    goes (exec (.powerThermalReading 1 1 110 109) { s0 with time := 100 }) (fun t => t.trip0 == some 100 && t.trip1 == none &&
      goes (exec (.powerThermalReading 1 1 109 110) t) (fun u => u.trip0 == none && u.trip1 == some 100)) = true ∧
    goes (exec (.thermalTrip 1) { s0 with trip1 := some 100, time := 1800100, phase := 3 }) (fun t => t.phase == 0 && t.rreason == 2) = true ∧
    gives (exec (.thermalTrip 1) { s0 with trip1 := some 101, time := 1800100 }) { s0 with trip1 := some 101, time := 1800100 } = true ∧
    gives (exec (.thermalTrip 1) { s0 with trip0 := some 0, time := 1800100 }) { s0 with trip0 := some 0, time := 1800100 } = true := by decide +kernel
/-- A fatal error: STOP, the phase, the dump inside its region, and a message while the ring has room. -/
def sFatal : State := { s0 with cores := [(0, { core0 with slots := [] })], msgbase := 0x40000000004, cons := 0, prod := 3, mem := [(5, 5)],
                                modules := [(3, { Module.reset with state := .down }), (15, { Module.reset with state := .down })] }
theorem test_fatal : sFatal.phase = 0x05 ∧ (sFatal.module 15).state = .down ∧ (sFatal.module ((15 + 12) % 24)).state = .down ∧ sFatal.ringRoom = true ∧
    State.ringRoom { sFatal with prod := 16 } = false ∧ ((State.fatal.stopBinds core0).bind 0).stop = true ∧
    gives (exec (.managementCoreTimeout 0) { sFatal with phase := 0xF2 }) { sFatal with phase := 0xF2 } = true ∧
    gives (exec (.fatalError 3 1 14) sFatal) sFatal = true := by decide +kernel
theorem test_strike : goes (exec (.uncorrectableError (.register 0 0 3)) s0) (fun t => (t.slot 0 0).poisoned 3 && (t.slot 0 0).reg 3 == 0x12345678 && !(t.slot 0 0).poisoned 2) = true ∧
    goes (exec (.uncorrectableError (.scratch 0 2)) s0) (fun t => (t.core 0).scratchPoison.get false 23 && !(t.core 0).scratchPoison.get false 24) = true ∧
    goes (exec (.uncorrectableError (.home 0x200)) s0) (fun t => t.homePoisoned 0x200F 1 == false && t.homePoisoned 0x2000 1 && t.homePoisoned 0x200F 1 == t.homePoisoned 0x2010 1) = false ∧
    goes (exec (.uncorrectableError (.home 0x200)) s0) (fun t => t.homePoisoned 0x200F 1 && !t.homePoisoned 0x2010 1) = true ∧
    goes (exec (.uncorrectableError (.frame 0 4 2)) sLine) (fun t => match AMap.find? (t.core 0).frames 4 with
      | some x => x.poison == nibbleMask 16 8
      | none => false) = true ∧
    goes (exec (.uncorrectableError (.controlStore 0 9)) s0) (fun t => (t.core 0).cstorePoison == [(9, true)]) = true ∧
    goes (exec (.uncorrectableError (.icache 0 (3 * 2 ^ 32))) (cOn fun k => { k with icache := [(3 * 2 ^ 32, { data := 0, len := 4 })] })) (fun t =>
      (t.core 0).icache == []) = true := by decide +kernel

/-! Commands. -/

/-- Cells of memory from a line of 64-bit words, zero bytes left out. -/
def cells (a : Nat) (ws : List Nat) : List Host.Cell :=
  ((List.range (8 * ws.length)).map fun i => (a + i, BitVec.ofNat 8 (ws.getD (i / 8) 0 / 256 ^ (i % 8)))).filter fun x => x.2 != 0
/-- A command of words at 0x5000, in a device without binds; contexts 3 and 4 are registered. -/
def sCmd (ws : List Nat) : State := { State.reset with
  phase := 5, tick := 300, nextId := 9, msgbase := 0x40000000004
  mem := cells 0x5000 ws
  contexts := [(3, { Ctx.reset with registered := true, use := 1, give := 1 })]
  commands := [{ pa := 0x5000, done := false, code := 0, tag := 0, result := 0, awaits := none }] }
/-- The result and value of the command at the head. -/
def ended (result value : Nat) (t : State) : Bool := t.commands.map (fun c => (c.done, c.result.toNat)) == [(true, value * 256 + result)]
theorem wit_commandDue : ((sCmd [0x770001, 3, 0x6000, 8, 0x7000, 0x7008]).commandDue 1).isSome = true ∧ ((sCmd [0x770002]).commandDue 1).isSome = false ∧
    ((sCmd [0x770001]).commandBlock).isSome = true := by decide +kernel
theorem test_registerQueue : goes (exec .registerLaunchQueue (sCmd [0x770001, 3, 0x6000, 8, 0x7000, 0x7008])) (fun t => ended 0 0 t &&
      t.queues.map (fun q => (q.ctx, q.ring, q.s, q.tail, q.head)) == [(3, 0x6000, 8, 0x7000, 0x7008)] && t.commands.map (fun c => (c.code, c.tag)) == [(1, 0x77)]) = true ∧
    goes (exec .registerLaunchQueue (sCmd [0x770001, 3, 0x6040, 8, 0x7000, 0x7008])) (ended 1 0) = true ∧
    goes (exec .registerLaunchQueue (sCmd [0x770001, 3, 0x6000, 17, 0x7000, 0x7008])) (ended 1 0) = true ∧
    goes (exec .registerLaunchQueue (sCmd [0x100770001, 3, 0x6000, 8, 0x7000, 0x7008])) (ended 1 0) = true ∧
    goes (exec .registerLaunchQueue (sCmd [0x770001, 5, 0x6000, 8, 0x7000, 0x7008])) (ended 2 0) = true := by decide +kernel
theorem test_registerContext : (let s := sCmd [0x770002, 5, 0x4000, 0x0606, 0x200000, 0x01000040]
      (s.commandDue 2).isSome && !(s.hasBind 5) && s.rightsOk 5 6 6 && !(s.context 5).registered) = true ∧
    goes (exec .registerContext (sCmd [0x770002, 5, 0x4000, 0x0101, 0x200000, 0])) (ended 2 0) = true ∧
    goes (exec .registerContext (sCmd [0x770002, 256, 0x4000, 0x0606, 0x200000, 0])) (ended 1 0) = true ∧
    goes (exec .registerContext (sCmd [0x770002, 5, 0x4000, 0x10606, 0x200000, 0])) (ended 1 0) = true := by decide +kernel
/-- A running launch of context 3 on core 0. -/
def launch0 : Launch :=
  { lrec := 0x6000, queue := 0, num := 0, ctx := 3, state := .running, started := true, stamp := 1, since := 1, final := 0, deadline := none, hinted := false,
    record := 0 }
theorem test_preEmpt : let s (x : LState) := { sCmd [0x770003, 0x6000] with launches := [{ launch0 with state := x }], cores := [(0, { Core.reset with binds := [(2, { bind0 with lrec := 0x6000 })] })] }
    goes (exec .preEmpt (s .running)) (fun t => ended 0 0 t && ((t.core 0).bind 2).stop && ((t.core 0).bind 2).state == .draining &&
      t.launches.map (fun l => (l.state, l.deadline)) == [(.stopping, some 60100)]) = true ∧
    goes (exec .preEmpt (s .waiting)) (ended 2 0) = true ∧ goes (exec .preEmpt (sCmd [0x770003, 0x6040])) (ended 1 0) = true := by decide +kernel
theorem test_squallCommand : goes (exec .squallResetCommand (sCmd [0x770004, 3])) (fun t => ended 0 0 t && t.squalls.map (fun q => (q.ctx, q.cause)) == [(3, 4)]) = true ∧
    goes (exec .squallResetCommand (sCmd [0x770004, 5])) (ended 2 0) = true ∧ goes (exec .squallResetCommand (sCmd [0x770004, 256])) (ended 1 0) = true := by decide +kernel
theorem test_installObject : goes (exec (.installObject []) (sCmd [0x770005, 5, 0x80, 8])) (ended 2 0) = true ∧
    goes (exec (.installObject []) (sCmd [0x770005, 3, 0x80, 0x1000000])) (ended 1 0) = true ∧ goes (exec (.installObject []) (sCmd [0x770005, 3, 0x40, 8])) (ended 1 0) = true := by
  decide +kernel
/-- An import switch to a table of two entries at 0x7000. -/
def sSwitch : State :=
  let s := sCmd [0x770006, 3, 0x7000, 1]
  State.setRoot { s with mem := s.mem ++ cells 0x7000 [2 ^ 63 + 0x02000000, 5] } 3 (State.rootOf (State.objectTable 3) (State.importTable 3 0) 0 0)
theorem test_importSwitch :
    goes (exec .importSwitch sSwitch) (fun t => ended 0 1 t && (t.context 3).switching && rootImpn (t.codeRoot 3) == 1 && rootEpoch (t.codeRoot 3) == 1 &&
      Memory.read t.mem (rootImpt (t.codeRoot 3) + 8) 8 == 5 && rootImpt (t.codeRoot 3) == State.importTable 3 1) = true ∧
    goes (exec .importSwitch (sCmd [0x770006, 3, 0x7000, 1])) (ended 2 0) = true ∧ goes (exec .importSwitch (sCmd [0x770006, 3, 0x7000, 4096])) (ended 1 0) = true := by
  decide +kernel
theorem test_domainTable : goes (exec .writeDomainTable (sCmd [0x770008, 2, 5, 0x100FF00F])) (ended 1 0) = true ∧
    goes (exec .writeDomainTable (sCmd [0x770008, 2, 5, 0x100000FF00F])) (fun t => ended 0 0 t && t.devno == 2 && t.register 0x30030 == 0x100000FF00F) = true := by decide +kernel
theorem test_moduleUp : let s : State := { sCmd [0x770009, 7] with modules := [(7, { Module.reset with state := .down, width := 3 })] }
    goes (exec (.moduleUp true false) s) (fun t => ended 0 0 t && (t.module 7).state == .active && (t.module 7).width == 1) = true ∧
    goes (exec (.moduleUp true false) (sCmd [0x770009, 24])) (ended 1 0) = true ∧
    goes (exec (.moduleUp true false) { s with cores := [(0, { Core.reset with binds := [(0, bind0)] })] }) (ended 2 0) = true ∧
    goes (exec .commandUnknown (sCmd [0x770007])) (ended 3 0) = true := by decide +kernel
/-- The reply goes to the ring; with a full ring it waits; messages follow the same rule. -/
def sReplying : State := { sCmd [] with prod := 5, commands := [{ pa := 0x5000, done := true, code := 6, tag := 0x77, result := 0x100, awaits := none }],
                                        messages := [{ w0 := 0x6000, w1 := 2, lrec := none }] }
theorem test_reply : goes (exec .commandReply sReplying) (fun t => t.prod == 6 && t.commands == [] &&
      t.reqs.map (fun r => (r.kind, r.pa)) == [(.message 0x770601 0x100, 0x40000000050)]) = true ∧
    goes (exec .messageWrite sReplying) (fun t => t.prod == 6 && t.messages == [] && t.reqs.map (fun r => (r.kind, r.pa)) == [(.message 0x6000 2, 0x40000000050)]) = true ∧
    gives (exec .commandReply { sReplying with prod := 16 }) { sReplying with prod := 16 } = true ∧
    goes (exec .messageWrite { sReplying with msgbase := 0 }) (fun t => t.prod == 5 && t.messages == [] && t.reqs == []) = true := by decide +kernel
/-- SPDM requests of four bytes at 0x8000, answered at 0x9000. -/
def sSpdm (w : Nat) : State := { sCmd [] with mem := cells 0x5000 [0x77000A, 0, 0x8000, 4, 0x9000] ++ cells 0x8000 [w] }
theorem test_spdm : ((sSpdm 0x8410).spdmDue).isSome = true ∧
    goes (exec .getVersion (sSpdm 0x8410)) (fun t => ended 0 8 t && Memory.read t.mem 0x9000 8 == 0x1200010000000410) = true ∧
    goes (exec .spdmUnsupportedRequest (sSpdm 0xFF12)) (fun t => ended 0 4 t && Memory.read t.mem 0x9000 4 == 0xFF077F12) = true ∧
    ([0xE112, 0xE0E012].map fun w => ((sSpdm w).spdmDue.map fun x => (x.2.getD 1 0).toNat)) =
      [some 0xE1, some 0xE0] := by decide +kernel

/-! Knanos and the darner. -/

/-- Queue 0 of context 3, its TAIL at 0x7000 and HEAD at 0x7008, its record 0 at 0x6000: a device whose context has the tables of
`sOpen` with a `home` page, a code root, and an object 1 of 0x100 bytes. -/
def sKn (rec : List Nat) : State := { State.reset with
  phase := 5, tick := 300, nextId := 9
  mem := cells 0x6000 rec ++ cells 0x7000 [1] ++ [(0x10000, 1), (0x10001, 0x40), (0x10002, 1), (0x14000, 1), (0x14001, 0x80), (0x14002, 1),
            (0x18000, 7), (0x18003, 4), (0x18008, 7), (0x1800B, 2)] ++ cells 0x4000208 [5] ++
         cells 0xBC0000010 [0x10000000201, 0x80] ++ cells 0xBE0000060 [0xBC0000000, 0, 0xBE0200000, 0]
  contexts := [(3, { Ctx.reset with registered := true, use := 1, give := 1, root := 0x10000, area := 0x9000, asid := 3 })]
  queues := [{ ctx := 3, ring := 0x6000, s := 4, tail := 0x7000, head := 0x7008, seen := 1, next := 0, done := 0, own := false, polled := 0 }] }
/-- Priority 4, 256 registers, object 1, 5 items from 7, floor 4, no pool, both dies. -/
def rec0 : List Nat := [0x010000000000_04F1, 0x0000000701000000, 0x0000000400000005, 0x0003000000000000, 0, 1, 0, 0, 0, 0, 0, 0, 0, 0, 0, 0]
/-- With WVA and WVAL, or CVA and CADD, at 0x208. -/
def rec1 (w : Nat) : List Nat := ((rec0.set 9 0x208).set 10 w).set 0 0x010000000000_04F1
def rec2 : List Nat := (rec0.set 11 0x208).set 12 3
/-- A launch of record 0 in a state. -/
def sLa (x : LState) (rec : List Nat) (cores : AMap Core) : State :=
  let s := sKn rec
  { s with launches := [{ launch0 with state := x, started := x == .running, record := s.homeLine 0x6000 }], cores := cores, queues := s.queues.map fun q => { q with next := 1 } }
theorem wit_record : (sKn rec0).recordFault ((sKn rec0).queues.headD default) ((sKn rec0).homeLine 0x6000) = none ∧
    (sKn (rec0.set 0 0)).recordFault ((sKn rec0).queues.headD default) ((sKn (rec0.set 0 0)).homeLine 0x6000) = some 1 ∧
    (sKn (rec0.set 1 0)).recordFault ((sKn rec0).queues.headD default) ((sKn (rec0.set 1 0)).homeLine 0x6000) = some 4 ∧
    (sKn (rec0.set 9 0x4000000)).recordFault ((sKn rec0).queues.headD default) ((sKn (rec0.set 9 0x4000000)).homeLine 0x6000) = some 6 := by decide +kernel
theorem test_recordRead : goes (exec (.launchRecordRead 0) (sKn rec0)) (fun t => t.launches.map (fun l => (l.lrec, l.num, l.ctx, l.state)) == [(0x6000, 0, 3, .ready)] &&
      t.queues.map Queue.next == [1]) = true ∧
    goes (exec (.launchRecordRead 0) (sKn (rec1 6))) (fun t => t.launches.map Launch.state == [.waiting]) = true ∧
    goes (exec (.launchRecordRead 0) (sKn (rec0.set 2 0x0000000300000005))) (fun t => t.launches.map Launch.state == [.refused 3]) = true := by decide +kernel
theorem test_poll : goes (exec (.launchQueuePoll 0) (sLa .waiting (rec1 5) [])) (fun t => t.launches.map (fun l => (l.state, l.since)) == [(.ready, 9)] && t.queues.map Queue.seen == [1]) = true ∧
    goes (exec (.launchQueuePoll 0) (sLa .waiting (rec1 6) [])) (fun t => t.launches.map Launch.state == [.waiting]) = true := by decide +kernel
theorem wit_hints : let s := sLa .ready (rec0.set 5 0x10001) []
    (s.launch? 0x6000).isSome = true ∧ (s.launch? 0x6000).all (fun l => l.record.read 42 2 == 1 && s.mayStart l && s.nextBound l) = true ∧ s.quiet 3 = true ∧
    goes (exec (.quiesceMoves 0x6000) s) (fun t => (t.launch? 0x6000).map Launch.hinted == some true) = true := by decide +kernel
/-- One hint at 0x300: the page of 0, class `own` of core 5, no other stack. A cached translation of the page goes. -/
def sMoves : State :=
  let s := sLa .ready ((rec0.set 5 0x10001).set 13 0x300) []
  { s with mem := s.mem.filter (fun x => x.1 < 0x5000000) ++ [(0x4000309, 5), (0x400030B, 1)] ++ s.mem.filter (fun x => 0x5000000 ≤ x.1)
           tlb := [(0, [{ asid := 3, page := 0, level := 3, leaf := leafOf 2, dest := .dev, route := 0 }])] }
theorem wit_moves : (sMoves.launch? 0x6000).map Launch.state = some .ready ∧
    (sMoves.launch? 0x6000).all (fun l => l.record.read 42 2 == 1 && sMoves.mayStart l && sMoves.bindable l.record 3 && sMoves.nextBound l) = true ∧ sMoves.quiet 3 = true ∧
    sMoves.ctxPlace 3 0x300 = .at_ 0x4000300 (leafOf 2) ∧ sMoves.leafAt .dev 0 4 1 0x10000 = some (0x18000, 3, leafOf 2) ∧
    Memory.read sMoves.mem 0x4000300 16 = 5 * 2 ^ 72 + 2 ^ 88 ∧ sMoves.sums = [] ∧
    goes (exec (.quiesceMoves 0x6000) sMoves) (fun t => Memory.read t.mem 0x18000 16 == (leafOf 0).toNat + 5 * 2 ^ 96 && t.l2 0 == []) = true := by
  decide +kernel
/-- A bind of crew 5 and no macro on core 100, entry 2. -/
theorem test_bind : goes (exec (.knanosBind 0x6000 100 2 [5] 0) (sLa .ready rec0 [])) (fun t =>
      let b := (t.core 100).bind 2
      b.state == .binding && b.crews == 0x20 && b.ctx == 3 && b.entry == 0x01000000 && b.floor == 4 && b.regs == 15 && b.prio == 4 &&
      (t.slot 100 160).bind == 2 && (t.core 100).roots.get 0 3 == t.codeRoot 3 && Memory.read t.mem 0x6078 8 == 1 && t.launches.map Launch.state == [.running] &&
      goes (exec (.bindSetupDone 100 2) t) (fun u => ((u.core 100).bind 2).state == .running)) = true := by decide +kernel
/-- Core 0 with bind 0 of record 0 on crew 5, and the slots of the crew. -/
def kCore (f : Bind → Bind) (occupied : Bool) : AMap Core :=
  [(0, { Core.reset with
    binds := [(0, f { Bind.free with state := .running, regs := 15, floor := 4, crews := 0x20, ctx := 3, lrec := 0x6000, entry := 0x01000000, refill := 0x01000040 })]
    slots := [(160, { Slot.reset with occupied := occupied, used := true }), (161, { Slot.reset with occupied := true })] })]
/-- A claim asked for, at CURSOR's home, and with its reply at the core. -/
def sClaim (here : Bool) : State :=
  { sLa .running rec0 (kCore (fun b => { b with claim := some 31, claimed := if here then some (0, 5, 31) else none }) false) with
    reqs := [{ req0 (.claim 0 31) with lanes := [], ops := [], pa := 0x6070, stage := if here then .here else .port }] }
theorem test_claim : State.claimant ((sLa .running rec0 (kCore id false)).core 0) = some 0 ∧ (sLa .running rec0 (kCore id false)).coreDue 0 = false ∧
    goes (exec (.claim 0) (sLa .running rec0 (kCore id false))) (fun t => ((t.core 0).bind 0).claim == some 31 &&
      t.reqs.map (fun r => (r.kind, r.pa, r.stage)) == [(.claim 0 31, 0x6070, .port)]) = true ∧
    ((sClaim false).claimReq 0 0).map Req.id = some 5 ∧
    goes (exec (.claimPerform 0 0) (sClaim false)) (fun u => ((u.core 0).bind 0).claimed == some (0, 5, 31) && Memory.read u.mem 0x6070 4 == 5) = true ∧
    (sClaim true).issueDone 0 = true ∧ (sClaim true).coreDue 0 = false ∧
    goes (exec (.claimReply 0 0) (sClaim true)) (fun v => (v.slot 0 160).item == 7 && (v.slot 0 160).reg 0 == 7 && (v.slot 0 160).pc == 0x01000040 &&
      (v.slot 0 162).item == 8 && (v.slot 0 162).pc == 0x01000000 && (v.slot 0 165).item == 11 && !(v.slot 0 166).occupied &&
      ((v.core 0).bind 0).exh && ((v.core 0).bind 0).claim == none && v.reqs == []) = true := by decide +kernel
theorem test_unbind : let cores (b : Bind → Bind) : AMap Core := (kCore b false).map fun e => (e.1, { e.2 with slots := [] })
    goes (exec (.unbind 0 0) (sLa .running rec0 (cores fun b => { b with state := .draining, exh := true }))) (fun t => ((t.core 0).bind 0).unbound && ((t.core 0).bind 0).state == .draining &&
      goes (exec (.launchCounterZero 0 0) t) (fun u => (u.core 0).bind 0 == Bind.free)) = true ∧
    (let s := sLa .running rec0 (cores fun b => { b with unbound := true, counter := 1 })
     gives (exec (.launchCounterZero 0 0) s) s = true) ∧
    (let s : State := sLa .running rec0 (cores fun b => { b with exh := true })
     gives (exec (.unbind 0 0) s) s = true) ∧
    (let s : State := { sLa .running rec0 (cores fun b => { b with state := .draining }) with squalls := [{ (default : Squall) with ctx := 3 }] }
     gives (exec (.unbind 0 0) s) s = true) := by decide +kernel
theorem test_preEmption : goes (exec (.preEmption 0x6000) { sLa .running rec0 (kCore id true) with overPower := true }) (fun t => ((t.core 0).bind 0).stop &&
      t.launches.map (fun l => (l.state, l.deadline)) == [(.stopping, some (100 + 600 * 1000))]) = true ∧
    (let s := sLa .running rec0 (kCore id true)
     gives (exec (.preEmption 0x6000) s) s = true) ∧
    goes (exec (.preEmptionSave 0x6000) (sLa .stopping rec0 [])) (fun t => t.launches.map Launch.state == [.saved] && Memory.read t.mem 0x6078 8 == 4) = true ∧
    goes (exec (.preEmptionSave 0x6000) (sLa .stopping (rec0.set 14 5) [])) (fun t => t.launches.map (fun l => (l.state, l.final)) == [(.status, 2)]) = true := by decide +kernel
theorem test_deadline : let s := sLa .stopping rec0 (kCore id true)
    goes (exec (.deadlineExpiry 0x6000) { s with launches := s.launches.map fun l => { l with deadline := some 100 } }) (fun t => t.squalls.map (fun q => (q.ctx, q.cause)) == [(3, 1)]) = true ∧
    gives (exec (.deadlineExpiry 0x6000) { s with launches := s.launches.map fun l => { l with deadline := some 101 } })
      { s with launches := s.launches.map fun l => { l with deadline := some 101 } } = true := by decide +kernel
/-- Completion: STATUS and HEAD, the word, the message. -/
theorem test_completion : goes (exec (.launchCompletion 0x6000) (sLa .running (rec2.set 14 5) [])) (fun t => Memory.read t.mem 0x6078 8 == 2 && Memory.read t.mem 0x7008 8 == 1 &&
      t.launches.map Launch.state == [.word] &&
      goes (exec (.completionWordAdd 0x6000) t) (fun u => Memory.read u.mem 0x4000208 8 == 8 && u.launches.map Launch.state == [.message])) = true ∧
    goes (exec (.launchCompletion 0x6000) (sLa (.refused 4) rec0 [])) (fun t => Memory.read t.mem 0x6078 8 == 0x403) = true ∧
    goes (exec (.completionWordAdd 0x6000) (sLa .word rec0 [])) (fun t => t.launches.map Launch.state == [.message]) = true ∧
    goes (exec (.completionMessage 0x6000) (sLa .message (rec0.set 0 0x010000000000_84F1) [])) (fun t => t.messages.map Message.w0 == [0x6000] && t.launches.map Launch.state == [.sending]) = true ∧
    goes (exec (.completionMessage 0x6000) (sLa .message rec0 [])) (fun t => t.messages == []) = true := by decide +kernel
/-- A squall reset of context 3, and its record. -/
def squall0 (stage : ResetStage) : Squall :=
  { ctx := 3, cause := 4, slot := none, tcause := 0, tpc := 0, tval := 0, stage := stage, waits := [5], gives := [6], clock := 0x55, launches := [(0x6000, 2, [7])], cancelled := 0 }
/-- Binds of contexts 3 and 4 on two cores. -/
def sTwoCtx : State :=
  let k (ctx crew : Nat) : Core := { Core.reset with
    binds := [(0, { Bind.free with state := .running, regs := 15, crews := BitVec.ofNat 64 (2 ^ crew), ctx := ctx, lrec := 0x6000 })]
    slots := [(32 * crew, { Slot.reset with occupied := true, used := true, regs := [(1, 9)] })] }
  { sKn rec0 with squalls := [squall0 .asked], cores := [(0, k 3 5), (1, k 4 5), (2, k 3 6)] }
/-- The reset's next steps. -/
def resets (n : Nat) (s : State) : State :=
  (List.range n).foldl (fun u _ => match execSquallReset 3 u with
    | .next t => t
    | _ => u) s
theorem wit_squallAll : (sTwoCtx.squallOn 3).map Squall.stage = some .asked ∧ (∀ b ∈ sTwoCtx.ctxBinds 3, sTwoCtx.closedNow b.1 = false) ∧
    sTwoCtx.bindInCtx 3 2 0 = true ∧ sTwoCtx.bindInCtx 3 1 0 = false ∧ sTwoCtx.inCtx 3 1 160 = false ∧
    (let t := resets 1 sTwoCtx
     ((t.core 0).bind 0).stop && ((t.core 0).bind 0).state == .draining && !(t.slot 2 192).occupied && (t.slot 1 160).occupied) = true ∧
    (let t := resets 3 sTwoCtx
     (t.core 0).bind 0 == Bind.free && (t.core 2).bind 0 == Bind.free && (t.squallOn 3).map Squall.stage == some .cleared &&
      ((t.core 1).bind 0).state == .running && (t.slot 1 160).occupied && (t.slot 1 160).reg 1 == 9) = true := by decide +kernel
/-- A write-back that step 4 waits for, and a `stkgive` that step 6 waits for. -/
theorem wit_squallWaits : let s (q : Squall) (l : List Req) : State := { sTwoCtx with squalls := [q], reqs := l }
    let back : Req := { req0 (.writeBack 1 0 0) with counted := some 0, ops := [], lanes := [] }
    let give : Req := { req0 (.give 0 1 3) with id := 6, stage := .back 24 }
    goes (exec (.squallReset 3) (s (squall0 .asked) [back])) (fun t => t.reqs == [back] && (t.squallOn 3).map Squall.waits == some [5]) = true ∧
    gives (exec (.squallReset 3) (s (squall0 .performing) [back])) (s (squall0 .performing) [back]) = true ∧
    goes (exec (.squallReset 3) (s (squall0 .performing) [give])) (fun t => (t.squallOn 3).map Squall.stage == some .giving) = true ∧
    gives (exec (.squallReset 3) (s (squall0 .giving) [give])) (s (squall0 .giving) [give]) = true ∧
    goes (exec (.squallReset 3) (s (squall0 .giving) [])) (fun t => (t.squallOn 3).map Squall.stage == some .cleared) = true := by decide +kernel
theorem test_squall : (let t := resets 3 { sLa .running rec0 (kCore id true) with squalls := [squall0 .asked] }
      (t.core 0).binds == [] && !(t.slot 0 160).occupied && t.launches.map Launch.state == [.resetting] &&
      t.squalls.map (fun q => (q.stage, q.clock, q.launches)) == [(.cleared, 100, [(0x6000, 0, [0, 0])])]) = true ∧
    (let s : State := { sLa .resetting rec0 [] with squalls := [squall0 .cleared] }
     (s.squallOn 3).map Squall.stage = some .cleared ∧ s.busy (s.context 3).area = false ∧ (State.resetRecord (squall0 .cleared)).take 10 = [0x55, 0, 0, 0, 0, 0, 0, 0, 4, 0]) := by
  decide +kernel
theorem test_adopt : let s (adopt : List Nat) : State := { sKn rec0 with contexts := [(3, { Ctx.reset with registered := true, switching := true, adopt := adopt, oldTable := (0x7000, 0) })] }
    goes (exec (.importAdopt 1 3) (s [0, 1])) (fun t => (t.core 1).roots.get 0 3 == t.codeRoot 3 && (t.context 3).adopt == [0]) = true ∧
    goes (exec (.importSwitchComplete 3) { s [] with mem := (s []).mem ++ cells 0xBE0400000 [0] }) (fun t => !(t.context 3).switching && t.retiring == []) = true ∧
    goes (exec (.objectFree 3 1) { sKn rec0 with retiring := [(3, 1, 9)], cores := [(0, { Core.reset with icache := [((3 * 256 + 1) * 2 ^ 24, ⟨0, 4⟩), (3 * 256 * 2 ^ 24, ⟨0, 4⟩)] })] })
      (fun t => t.retiring == [] && (t.core 0).icache.keys == [3 * 256 * 2 ^ 24] && objState (t.ctxObject 3 1) == 0) = true := by decide +kernel

/-! Modules, outside, hand-over. -/

/-- A fill whose reply is on module 5. -/
def back5 : Req := { req0 (.fill 4) with stage := .back 5, via := some 5 }
/-- Module 5 active, with a flit on its way from die 0. -/
def sLink (f : Flit) (x : Module → Module) : State :=
  { s0 with modules := [(5, x { Module.reset with state := .active, d0 := { Direction.reset with wire := [f], buffer := [f] } })],
            reqs := [back5] }
def flit0 : Flit := { seq := 1, body := [(State.replyMsg 0 back5, 9, true)], replay := false }
theorem test_flits : goes (exec (.flitReceive 5 0 true true) (sLink flit0 id)) (fun t => t.reqs.map Req.stage == [.here] && (t.module 5).d0.expect == 2 &&
      (t.module 5).d0.unacked == 1 && (t.module 5).d0.wire == []) = true ∧
    goes (exec (.flitReceive 5 0 true true) (sLink { flit0 with seq := 2 } id)) (fun t => t.reqs.map Req.stage == [.back 5] && (t.module 5).d0.expect == 1 && (t.module 5).state == .active) = true ∧
    goes (exec (.flitReceive 5 0 false true) (sLink flit0 id)) (fun t => (t.module 5).crcErr == 1 && (t.module 5).d0.discarding &&
      goes (exec (.retryRequest 5 0) t) (fun u => (u.module 5).replays == 1 && (u.module 5).d0.wire == [{ flit0 with replay := true }])) = true ∧
    goes (exec (.flitReceive 5 0 false true) (sLink { flit0 with replay := true } id)) (fun t => (t.module 5).state == .retraining &&
      goes (exec (.moduleRetrainComplete 5 true true) t) (fun u => (u.module 5).state == .active && (u.module 5).retrains == 1 && (u.module 5).width == 0)) = true ∧
    goes (exec (.flitReceive 5 0 true false) (sLink { flit0 with replay := true } id)) (fun t => (t.module 5).state == .retraining) = true ∧
    goes (exec (.flitReceive 5 0 true false) (sLink { flit0 with replay := true } fun m => { m with d0 := { m.d0 with badForm := true } })) (fun t =>
      (t.module 5).state == .down && (t.module 17).d0.queue == [(State.reqMsg 0 back5, 1)] && t.told == [(3, 5)] && t.reqs.map Req.stage == [.back 17] &&
      (t.register 0x21028).toNat / 2 ^ 16 % 2 ^ 8 == 17) = true ∧
    goes (exec (.ackTimeout 5 0) (sLink flit0 fun m => { m with d0 := { m.d0 with expect := 2, unacked := 1, oldest := 172 } })) (fun t => (t.module 5).d0.acks == [2] && (t.module 5).d0.unacked == 0 &&
      (t.module 5).d0.ackArrives.buffer == []) = true ∧
    (let s := sLink flit0 fun m => { m with d0 := { m.d0 with expect := 2, unacked := 1, oldest := 173 } }
     gives (exec (.ackTimeout 5 0) s) s = true) ∧
    goes (exec (.moduleRetrainComplete 5 false false) (sLink flit0 fun m => { m with state := .retraining })) (fun t => (t.module 5).state == .down && (t.module 5).width == 3) = true := by decide +kernel
/-- Done-windows: an acknowledgement queues a message, and frees the entries up to its SEQ when it arrives. -/
def win0 (die srcDie : Nat) (seq : BitVec 16) : Window :=
  { die := die, agent := 7, srcDie := srcDie, seq := seq, id := 1, line := false, slots := 1, head := State.replyHeader die back5, reply := [] }
theorem test_windows : goes (exec (.windowAcknowledge 2 7 5) { s0 with outerWindow := [(7, 5, 0, []), (7, 6, 0, []), (8, 5, 0, [])] }) (fun t =>
      t.outerWindow == [(7, 6, 0, []), (8, 5, 0, [])]) = true ∧
    goes (exec (.windowAcknowledge 1 7 5) s0) (fun t => ((t.module (s0.linkFor (State.agentModule 7))).dir 0).queue == [(.ack 7 0 5, 1)]) = true ∧
    goes (exec (.flitReceive 5 0 true true) { sLink { flit0 with body := [(.ack 7 0 5, 1, true)] } id with windows := [win0 1 0 5, win0 1 0 6, win0 0 1 5] })
      (fun t => t.windows == [win0 1 0 6, win0 0 1 5]) = true := by decide +kernel
/-- A fill on the host's link. -/
def linked : Req := { req0 (.fill 4) with dest := .host, stage := .link 16 }
/-- A link to outside: a request leaves, and a bad flit from there is discarded with its successors. -/
def sOutLink (f : OutLink → OutLink) : State :=
  { s0 with links := [(16, f { OutLink.reset with out := { Direction.reset with wire := [{ seq := 1, body := [(State.outMsg linked, 1, true)], replay := false }] } })]
            reqs := [linked] }
theorem test_outLinks : goes (exec (.flitReceive 40 0 true true) (sOutLink id)) (fun t => t.reqs.map Req.stage == [.away 16]) = true ∧
    goes (exec (.flitReceive 40 1 false true) (sOutLink id)) (fun t => (t.link 16).discarding && goes (exec (.flitReceive 40 1 true true) t) (fun u => u == t) &&
      goes (exec (.retryRequest 40 1) t) (fun u => !(u.link 16).discarding)) = true ∧
    goes (exec (.flitReceive 40 1 true true) (sOutLink id)) (fun t => (t.link 16).expect == (sOutLink id |>.link 16).expect + 1) = true := by decide +kernel
theorem test_peerTimeout : let s (n : Nat) : State := { s0 with tick := 3 * n, reqs := [{ req0 (.fill 4) with dest := .peer 2, stage := .out 24, sent := 100 }] }
    gives (exec (.peerTimeout 5) (s 600099)) (s 600099) = true ∧
    goes (exec (.peerTimeout 5) (s 600100)) (fun t => t.reqs.map (fun r => (r.stage, (State.carried r.result).2)) == [(.here, -1)]) = true := by decide +kernel
/-- Peer 2 may read stack 0. -/
def sPeer (l : List Req) : State := { s0 with peers := [(2, 0x1003)], mem := [(0x2000, 0x42), (0x207F, 7)], reqs := l }
/-- A request from outside, at its home. -/
def reqO (chan : Nat) (op : OuterOp) : Req := { req0 (.outer chan 9 op) with lanes := [], ops := [] }
theorem test_peer : let i (op : OuterOp) : Instr := .peerRequest 2 ⟨1, 0, 2⟩ 9 0x2000 op
    goes (exec (i (.read .b)) (sPeer [])) (fun t => t.reqs.map (fun r => (r.kind, r.pa, r.dest)) == [(.outer 9729 9 (.read .b), 0x2000, .dev)] &&
      t.mem == (sPeer []).mem) = true ∧
    ((sPeer [reqO 9729 (.read .b)]).outerReq 9729 9).map Req.id = some 5 ∧
    (sPeer [reqO 9729 (.read .b)]).performable (reqO 9729 (.read .b)) = true ∧
    goes (exec (i (.read .b)) (sPeer [reqO 9729 (.read .b)])) (fun t => t.reqs.map (fun r => (r.stage, r.result)) == [(.here, [(0, 0, 0x42, false)])]) = true ∧
    goes (exec (.reply 5 none) (sPeer [{ reqO 9729 (.read .b) with stage := .here, result := [(0, 0, 0x42, false)] }])) (fun t =>
      t.outerWindow == [(9729, 9, 0, [0x42])] && t.reqs == []) = true ∧
    goes (exec (i (.read .b)) { sPeer [] with outerWindow := [(9729, 9, 0, [0x42])] }) (fun t => t.outerWindow == [(9729, 9, 0, [0x42])] && t.reqs == []) = true ∧
    goes (exec (.peerRequest 2 ⟨1, 0, 2⟩ 9 0x1000002000 (.read .b)) (sPeer [])) (fun t => t.outerWindow == [(9729, 9, 1, [])] && t.told == []) = true ∧
    goes (exec (i (.write .b [1])) (sPeer [])) (fun t => t.told == [(4, 2)] && t.mem == (sPeer []).mem) = true ∧
    (match exec (.peerRequest 2 ⟨1, 0, 2⟩ 9 0xC00000000 (.read .b)) (sPeer []) with
      | .fault .unbackedPeerAddress => true
      | _ => false) = true := by decide +kernel
theorem wit_outerOpen : State.peerChan 2 ⟨1, 0, 2⟩ = 9729 ∧ ((sPeer []).link 2).discarding = false ∧ ((sPeer []).link 2).down = false ∧ (sPeer []).outerKnown 9729 9 = false ∧
    (sPeer []).outerReq 9729 9 = none ∧ (sPeer []).outerRoom 9729 = true ∧ State.peerAllows 0x1003 0x2000 (.read .b) = true ∧
    State.peerAllows 0x1003 0x2000 (.write .b [1]) = false ∧ backed 0x2000 = true ∧ backed 0xC00000000 = false := by decide +kernel
/-- What requests from outside do at their homes. -/
theorem test_outerPerform : ((sPeer []).outerPerform { reqO 3 (.write .h [0x11, 0x22]) with pa := 0x207E } (.write .h [0x11, 0x22])).mem =
      [(0x2000, 0x42), (0x207E, 0x11), (0x207F, 0x22)] ∧
    ((sPeer []).outerPerform { reqO 3 (.sig .n32 0xFF) with pa := 0x2003 } (.sig .n32 0xFF)).mem = [(0x2000, 0x41), (0x2001, 1), (0x207F, 7)] := by
  decide +kernel
theorem test_host : goes (exec (.hostMemoryRead 3 9 0x2000 (.read .h)) (sPeer [])) (fun t => t.reqs.map Req.kind == [.outer 3 9 (.read .h)]) = true ∧
    goes (exec (.hostMemoryRead 3 9 0x207F (.read .h)) (sPeer [])) (fun t => t.outerWindow == [(3, 9, 2, [])]) = true ∧
    goes (exec (.hostMemoryRead 3 9 0xC00000000 (.read .h)) (sPeer [])) (fun t => t.outerWindow == [(3, 9, 0, [0, 0])] && t.reqs == []) = true ∧
    goes (exec (.hostMemoryWrite 3 9 0x207E (.write .h [0x11, 0x22])) (sPeer [])) (fun t => t.reqs.map Req.kind == [.outer 3 9 (.write .h [0x11, 0x22])]) = true ∧
    goes (exec (.hostMemoryWrite 3 9 0x207F (.write .h [0x11, 0x22])) (sPeer [])) (fun t => t.mem == (sPeer []).mem && t.outerWindow == [(3, 9, 2, [])]) = true ∧
    goes (exec (.hostMemoryWrite 3 9 0xC00000000 (.write .h [0x11, 0x22])) (sPeer [])) (fun t => t.outerWindow == [(3, 9, 0, [])]) = true ∧
    gives (exec (.hostMemoryWrite 3 9 0x207E (.write .h [0x11, 0x22])) { sPeer [] with phase := 0xF2 }) { sPeer [] with phase := 0xF2 } = true := by
  decide +kernel

/-- `stkgive` of stack v4 = 7 or v1 to die v2 or v3. -/
def sGive (owner step : Nat) : State := { sOn fun t => { t with regs := [(1, 2), (2, 1), (3, 0)] } with
  arbiters := [(2, { Arbiter.reset 2 with owner := owner, step := step })] }
theorem wit_give : (sGive 0 0).Runs 0 0 12 .always [1, 2, 3] ∧ ((sGive 0 0).bindOf 0 0).give.getLsbD 2 = true ∧ ((sGive 0 0).arbiter 2).owner = 0 := by
  unfold State.Runs State.Alone
  decide +kernel
/-- A request of `stkgive` at its arbiter. -/
def sGiven (owner step : Nat) : State := { (sGive owner step).onSlot 0 0 fun t => { t.enter .s 9 false with notBefore := 200 } with
  reqs := [{ req0 (.give 2 1 3) with id := 9, ops := [(0, .s, 9)], pa := 2 * 2 ^ 36 }] }
theorem test_stkgive : goes (exec (.stkgive .always 3 1 (.reg 2)) (sGive 0 0)) (fun t => (t.slot 0 0).count .s == 1 && (t.slot 0 0).pc == 0x0100001C &&
      t.reqs.map (fun r => (r.kind, r.stage)) == [(.give 2 1 3, .port)]) = true ∧
    ((sGiven 0 0).gives 2).map (fun x => (x.1.id, x.2)) = [(9, 1)] ∧ (sGiven 0 0).allIssued = true ∧ ((sGiven 0 0).slot 0 0).counts .s 9 = true ∧
    goes (exec (.handOverControl 2) (sGiven 0 0)) (fun u => (u.arbiter 2).step == 1 && (u.arbiter 2).to_ == 1 && (u.arbiter 2).req == 9) = true ∧
    goes (exec (.handOverControl 2) (sGiven 0 2)) (fun u => (u.arbiter 2).step == 2 && !(u.slot 0 0).pred 3 && (u.slot 0 0).count .s == 0 && u.reqs == []) = true ∧
    goes (exec (.stkgive .always 3 1 (.reg 2)) (sGive 1 0)) (fun t => !(t.slot 0 0).pred 3 && t.reqs == [] && (t.slot 0 0).count .s == 0) = true ∧
    goes (exec (.stkgive .always 3 1 (.reg 3)) (sGive 0 0)) (fun t => (t.slot 0 0).pred 3 && t.reqs == []) = true ∧
    goes (exec (.stkgive .always 3 1 (.reg 3)) ((sGive 0 0).onSlot 0 0 fun t => t.enter .s 4 false)) (fun t => !(t.slot 0 0).pred 3 &&
      (t.slot 0 0).count .s == 2) = true ∧
    goes (exec (.stkgive .always 3 1 (.reg 3)) (sGive 0 2)) (fun t => !(t.slot 0 0).pred 3 && t.reqs == []) = true ∧
    goes (exec (.stkown .always 3 1) (sGive 0 0)) (fun t => t.reqs.map (fun r => (r.kind, r.stage)) == [(.own 2 3, .here)] && (t.slot 0 0).count .s == 1 &&
      goes (exec (.reply 9 none) t) (fun u => (u.slot 0 0).pred 3 && (u.slot 0 0).count .s == 0) ||
      goes (exec (.reply 10 none) t) (fun u => (u.slot 0 0).pred 3 && (u.slot 0 0).count .s == 0)) = true := by decide +kernel
/-- A hand-over of stack 0 of `sDirty`, whose line register has a frame and a home way on it. -/
def sHand (step : Nat) : State := { sDirty with
  arbiters := [(0, { Arbiter.reset 0 with to_ := 1, step := step, req := 5 })]
  tlb := [(0, [{ asid := 3, page := 0, level := 3, leaf := leafOf 2, dest := .dev, route := 0 }])] }
theorem test_handOver : (sHand 1).controlQuiet = true ∧
    goes (exec (.handoverDrain 0) (sHand 1)) (fun t => (t.arbiter 0).step == 2 && (t.core 0).frames == [(4, frame0)] &&
      t.reqs.map (fun r => (r.kind, r.pa)) == [(.writeBack (nibbleMask 6 2) 0 frame0.data, 0x1000)]) = true ∧
    (((sHand 2).core 0).waits = [] ∧ ∀ e ∈ (sHand 2).cores, (sHand 2).closedNow e.1 = false) ∧
    goes (exec (.handoverClose 0) (sHand 2)) (fun t => (t.arbiter 0).step == 5 && t.l2 0 == [] && ((t.core 0).way 0 2 0).kind == .stale &&
      ((t.core 0).way 0 2 1).kind == .stale && ((t.core 0).way 0 2 2).kind == .scratch && (t.core 0).frames == []) = true ∧
    goes (exec (.handoverClose 0) ((sHand 2).onCore 0 fun k => k.onFrame 4 fun x => { x with fill := some 8 })) (fun t =>
      (t.core 0).way 0 2 0 == { wayOf (.frame 4) with moved := true }) = true ∧
    goes (exec (.handoverSwitch 0) (sHand 5)) (fun t => (t.arbiter 0).owner == 1 && (t.arbiter 0).hcount == 1 && t.route 0 0 == 1 && t.route 1 0 == 1 &&
      (t.arbiter 0).step == 0) = true ∧
    goes (exec (.handoverSwitch 0) { ((sHand 5).onSlot 0 0 fun t => t.enter .s 3 false) with reqs := [{ req0 (.give 0 1 3) with ops := [(0, .s, 3)] }] }) (fun t =>
      (t.slot 0 0).pred 3 && (t.slot 0 0).count .s == 0 && t.reqs == []) = true := by decide +kernel
/-- Requests held by the hand-over: at their port, and released. -/
theorem test_held : let s (g : Stage) (n : Nat) (step : Nat) : State := { sHand step with reqs := [{ req0 (.fill 4) with stage := g, srcDie := n, id := 6 }] }
    goes (exec (.requestEntryFree 6) (s .source 0 2)) (fun t => t.reqs.map Req.stage == [.held]) = true ∧
    goes (exec (.handoverSwitch 0) (s .held 1 5)) (fun t => t.reqs.map Req.stage == [.port]) = true ∧
    goes (exec (.handoverSwitch 0) (s .held 0 5)) (fun t => t.reqs.map (fun r => match r.stage with
      | .out _ => true
      | _ => false) == [true]) = true ∧
    (let u := s (.out 5) 1 2
     let u : State := { u with modules := [(5, { Module.reset with
        state := .active
        d1 := { Direction.reset with wire := [{ seq := 1, body := u.reqs.map fun r => (State.reqMsg 1 r, 1, true), replay := false }] } })] }
     goes (exec (.flitReceive 5 1 true true) u) (fun t => t.reqs.map Req.stage == [.held]) = true) := by decide +kernel

/-! What the statements about teams, retries, waits and links start from. -/

/-- Slot 0 exits in a team of slots 0, 33 and 34, or fewer, and in halts. -/
def sExit (members : List Nat) (q : Option Phase) (halts : List Halt) : State := cOn fun k => { k with
  slots := [(0, { slot0 with masked := !halts.isEmpty }), (33, { slot0 with pc := 0x01000044, hold := if halts.isEmpty then .free else .halted })]
  teams := if members.isEmpty then [] else [(2, { bind := 0, members := members, phase := q })], halts := halts }
def tbarOf : Instr := .tbar .always 3 1 (.imm 2)
theorem wit_exitTeam : let m33 : W32 := 2
    let p : Phase := { key := phaseKey tbarOf, throughout := [33, 0], expected := [33, 0], masks := [(1, m33)],
                       arrived := [{ slot := 33, same := true, inst := tbarOf, value := 0, sel := 0, len := 12 }] }
    let team (t : State) : Option Team := AMap.find? (t.core 0).teams 2
    (sExit [33, 0] (some p) []).Runs 0 0 12 .always [] ∧ ((sExit [33, 0] (some p) []).core 0).teamsOf 0 = [2] ∧
    goes (exec (.exit .always) (sExit [0] none [])) (fun t => team t == none && !(t.slot 0 0).occupied) = true ∧
    goes (exec (.exit .always) (sExit [33, 0] none [])) (fun t => team t == some { bind := 0, members := [33], phase := none }) = true ∧
    goes (exec (.exit .always) (sExit [34, 33, 0] (some { p with throughout := [34, 33, 0], expected := [34, 33, 0] }) [])) (fun t =>
      team t == some { bind := 0, members := [34, 33], phase := some { p with throughout := [34, 33], expected := [34, 33] } }) = true ∧
    goes (exec (.exit .always) (sExit [33, 0] (some p) [])) (fun t => team t == some { bind := 0, members := [33], phase := none } &&
      (t.slot 0 33).pc == 0x01000050 && (t.slot 0 33).pred 3) = true := by
  refine ⟨?_, ?_, ?_, ?_, ?_, ?_⟩ <;> first | decide +kernel | (unfold State.Runs State.Alone; decide +kernel)
theorem wit_exitHalt : let a : Halt := { slot := 33, cycle := 97, members := [(0, .running), (34, .running)], inSeam := [] }
    let b : Halt := { slot := 0, cycle := 97, members := [(33, .stopped)], inSeam := [] }
    ((sExit [] none [a]).core 0).teamsOf 0 = [] ∧
    goes (exec (.exit .always) (sExit [] none [a])) (fun t => (t.core 0).halts == [{ a with members := [(34, .running)] }] && !(t.slot 0 0).occupied) = true ∧
    goes (exec (.rteExit .always) (sExit [] none [b])) (fun t => (t.core 0).halts == [] && (t.slot 0 33).hold == .free && (t.slot 0 33).notBefore == 101) = true := by
  decide +kernel

/-! Elements of lines: expected codes by hand from R54 to R58. -/

/-- FP8E5 1.0 is 0x3C, of scale 127 where the block has none; an element whose block is marked 255 is NaN; FP16 has no scale;
a sparse element that is not stored reads 0 and is not written. -/
theorem test_elements : elementBits 6 0 = (256, 8) ∧
    (let r := steLine 0 0 6 .fp32 0 0x3F800000
     (r.1.byte 0).toNat = 127 ∧ elementCode 6 r.1 0 = 0x3C ∧ r.2 = nibbleMask 0 1 ||| nibbleMask 32 1 ∧ (ldeWord r.1 0 6 .fp32 0).1 = 0x3F800000) ∧
    (steLine 128 (-1) 6 .fp32 0 0x40000000).1.byte 32 = 0x3C ∧ (ldeWord 255 0 6 .fp32 0).1 = 0x7FC00000 ∧
    (steLine 0 0 8 .i32 3 1).1.read 6 2 = 0x3C00 ∧ (ldeWord 0 0 0 .bf16 3).1 = 0 ∧
    (∃ n, n < 128 ∧ storedPos 0 n = some 0) ∧ (∀ n, n < 128 → storedPos 0 n ≠ some 2) ∧
    (ldeWord 0 0 2 .fp32 2).1 = 0 ∧ steLine 0 0 2 .fp32 2 0x3F800000 = (0, 0) := by decide +kernel

/-! Requests, waits, tokens. -/

/-- To the host an access names its byte. -/
theorem wit_hostAccess : let s := sLine.onCore 0 fun k => k.setWay 0 2 1 { wayOf .home with dest := .host, pa := 0x2000, va := 0x2000 }
    s.useWay 0 0 ⟨2, some 1⟩ 2 = .ok 1 { wayOf .home with dest := .host, pa := 0x2000, va := 0x2000 } ∧
    goes (exec (.ld .always .h 10 ⟨2, some 1⟩ 4 1) s) (fun t => t.reqs.map (fun r => (r.dest, r.pa)) == [(.host, 0x2005)]) = true ∧
    goes (exec (.lde .always .bf16 10 ⟨2, some 1⟩ 4 1) s) (fun t => t.reqs.map (fun r => (r.dest, r.pa)) == [(.host, 0x2000)]) = true ∧
    goes (exec (.atom .always (.red (.arith .add (.int .n32))) 10 ⟨2, some 1⟩ 4 7) s) (fun t => t.reqs.map (fun r => (r.dest, r.pa)) == [(.host, 0x2004)]) = true := by
  decide +kernel
/-- `sigw` with a full list of waiters, and its reply, after which the request is made anew. -/
theorem wit_notMet : let full : State := { sReq (.sigw 0 4 0 2) with
      reqs := req0 (.sigw 0 4 0 2) :: List.replicate 8192 { req0 (.sigw 0 4 0 9) with id := 7, lanes := [], stage := .waiter } }
    goes (exec (.sigwRead 5) full) (fun t => t.reqs.head?.map (fun r => (r.stage, r.ok, r.result)) == some (.here, false, [])) = true ∧
    (let s : State := { sSigw false with reqs := (sSigw false).reqs.map fun r => { r with result := [] } }
     goes (exec (.reply 5 none) s) (fun t => t.reqs.map (fun r => (r.id, r.stage, r.kind)) == [(9, .resend 356, .sigw 0 4 0 1)] &&
       (t.slot 0 0).hold == .sigw 9 0x1004) = true) := by decide +kernel
/-- Two records of a line, which a fold takes in core order. -/
theorem wit_fold : let s : State := { s0 with sums := [⟨0x2000, 3, 0x40000000⟩, ⟨0x2000, 1, 0x3F800000⟩, ⟨0x2080, 0, 1⟩] }
    let recs : List SumRec := [⟨0x2000, 1, 0x3F800000⟩, ⟨0x2000, 3, 0x40000000⟩]
    recs.isPerm (s.sums.filter fun r => r.line == lineAddr 0x2000) = true ∧ recs.Pairwise (fun a b => a.core < b.core) ∧
    (s.foldedLine 0x2000).word 0 = 0x40400000 ∧ (s.foldLine 0x2000).sums = [⟨0x2080, 0, 1⟩] := by decide +kernel
/-- An open of a register that holds a frame, with a full floor and no pool of its own; and one in retry mode. -/
def sRecall : State := (sWait 1 16 0).onCore 0 fun k => { k with
  crews := [(0, { Crew.reset with floorUsed := 16, lregs := [(2, { ways := [(0, wayOf (.frame 4))], tags := [(0, 0)] })] })]
  frames := [(4, frame0)] }
def waitRetry : OpenWait := {
  wid := 6, since := 90, crew := 0, lreg := 2, p := 3, op := 3, pcLen := 12, need := 1, taken := false, walk := none,
  lines := [{ idx := 2, fkind := some .own, fetch := true, way := { wayOf .home with va := 0x1010, pa := 0x1010 } }],
  lanes := [⟨0, some 2, true⟩], ctx := 3, keep := true, isSopen := false }
theorem wit_recallTakes : (sRecall.tokenNext 0).map OpenWait.wid = some 6 ∧ sRecall.issueDone 0 = true ∧ sRecall.coreDue 0 = false ∧
    (sRecall.core 0).way 0 2 0 = wayOf (.frame 4) ∧ ((sRecall.core 0).limits 0).1 = 16 ∧
    goes (exec (.tokenWaitMet 0 6) sRecall) (fun t => ((t.core 0).crew 0).floorUsed == 16 && ((t.core 0).crew 0).drawn == 0 &&
      (t.core 0).waits == []) = true ∧
    (let w : OpenWait := waitRetry
     (sRecall.readyWays 0 w).1 = { w with lines := [], need := 0, lanes := [⟨0, some 0, true⟩] }) := by decide +kernel
/-- A core's cycle of issue is closed: no fill of a frame and no walk ends. -/
theorem wit_closed : let s (x : State) : State := x.closeIssue 0
    (s (sFill false)).closedNow 0 = true ∧ gives (exec (.fillArrives 0 4) (s (sFill false))) (s (sFill false)) = true ∧
    gives (exec (.abandonedFillArrives 0 4) (s (sFill true))) (s (sFill true)) = true ∧
    gives (exec (.walkRead 0 6) (s sWalk)) (s sWalk) = true ∧ sWalk.closedNow 0 = false := by decide +kernel

/-! Engines and seams. -/

/-- An `mload` starts with its issue; an `mma` behind it on its macro does not. -/
theorem wit_starts : goes (exec (.mload .always 1) sEng) (fun t => (t.core 0).engine.map EngineOp.began == [some (100, false)] &&
      goes (exec (.mma .always 2) (t.onSlot 0 0 fun u => u.goto 0x01000010)) (fun u => (u.core 0).engine.map EngineOp.began == [some (100, false), none])) = true ∧
    sEng.mayRun 0 { State.emptyOp (.mload .always 1) 0 0 with id := 9, tiles := [2], macros := 8 } = true := by decide +kernel
/-- A line of a copy for the host goes in aligned runs; bytes 1 to 6 as 1, 2, 2 and 1. -/
theorem wit_pieces : State.hostPieces (nibbleMask 1 6) = [(1, 1), (2, 2), (4, 2), (6, 1)] ∧ State.hostPieces (nibbleMask 16 16) = [(16, 16)] ∧
    (let s := sCopyAt (fun o => { copyRead o with dst := o.dst.map fun w => { w with dest := .host } }) []
     goes (exec (.engineLineWrite 0 6 1) s) (fun t => t.reqs.map (fun r => (r.kind, r.dest, r.pa)) ==
       [(.engWrite 6 1 0x55 (nibbleMask 0 1) 0, .host, 0x2080)]) = true) := by decide +kernel
/-- A macro fenced in context 3 stays so while a core has a bind of 3. -/
theorem wit_fence : let s : State := { (cOn fun k => { k with binds := [], macros := [(3, { Macro.reset with fenced := true, fencedIn := [3] })] }) with nextId := 9 }
    let u := s.onCore 1 fun k => { k with binds := [(0, bind0)] }
    s.quiet 3 = true ∧ u.quiet 3 = false ∧ gives (exec (.macroFenceClear 0 3) u) u = true ∧
    goes (exec (.macroFenceClear 0 3) s) (fun t => !((t.core 0).macro 3).fenced) = true ∧
    (let v := sEng.onCore 0 fun k => k.onMacro 3 fun m => { m with count := 64, testAt := 101 }
     gives (exec (.macroSelfTest 0 3 true) v) v = true) := by decide +kernel
/-- Images at and beyond the limits of R216. -/
def image (l : List Instr) : List W64 := l.map fun i => (encodeUop i).getD 0
theorem test_imageLimits : let add : Instr := .uopAdd 5 0 8 0
    let fma : Instr := .uopFma .rne 5 1 3 1 0
    let lld : Instr := .uopLld 5 8 125 ⟨2, none⟩
    let lst : Instr := .uopLst 8 0 125 ⟨2, none⟩
    let loop (e n : Nat) : Instr := .uopLoop true 0 (BitVec.ofNat 6 e) (BitVec.ofNat 5 n)
    imageFault (image [.uopEnd]) = none ∧ imageFault [0x123, 0] = some (6, 0) ∧ imageFault (image [add]) = some (7, 0) ∧
    imageFault (image [add, .uopEnd, .uopEnd]) = some (7, 1) ∧
    imageFault (image [.uopBrf true 5 1, .uopEnd]) = none ∧ imageFault (image [add, .uopBrf true 5 1, .uopEnd]) = some (8, 1) ∧
    imageFault (image [loop 2 16, add, add, .uopEnd]) = none ∧ imageFault (image [loop 3 2, add, add, .uopEnd]) = some (8, 0) ∧
    imageFault (image [loop 1 2, .uopShfl .idx 5 0 4 0, .uopEnd]) = some (8, 0) ∧
    imageFault (image [.uopBrf true 5 3, loop 3 2, add, add, .uopEnd]) = some (8, 0) ∧
    imageFault (image ([loop 15 16] ++ List.replicate 15 fma ++ [.uopEnd])) = none ∧
    imageFault (image ([loop 16 16] ++ List.replicate 16 fma ++ [.uopEnd])) = some (9, 0) ∧
    imageFault (image [lld, lld, lld, lld, lst, lst, .uopEnd]) = none ∧ imageFault (image [lst, lst, lst, .uopEnd]) = some (10, 0) ∧
    imageFault (image [loop 1 3, lld, lld, .uopEnd]) = none ∧ imageFault (image [loop 1 5, lld, .uopEnd]) = some (10, 0) := by decide +kernel
theorem wit_seamRefusals : (sSeam true).seamFault 0 0x100 (sld 2 0 0 0 5) = some (1, 0) ∧ (sSeam true).seamFault 0 0x100 (sld 1 1 0 0 5) = some (1, 0) ∧
    (sSeam true).seamFault 0 0x100 (sld 0 65 1030 0 7) = some (1, 0) ∧ (sSeam true).seamFault 0 0x100 (sld 1 0 0 1 5) = some (2, 0) ∧
    (sSeam true).seamFault 0 0x104 (sld 0 1 1030 0 7) = some (3, 0) ∧ (sSeam true).seamFault 0 0x80000 (sld 0 1 1030 0 7) = some (3, 0) ∧
    (sSeam true).seamFault 0 0x100 (sld 1 0 0 0 5) = none := by decide +kernel

/-! Links: requests, acknowledges, receipts, modules down. -/

/-- A request message of request 5 on module 5 from die 0 for stack 0 of die 1, in a stage. -/
def sent7 (g : Stage) : Req := { req0 (.fill 4) with stage := g, agent := 7, seq := 5, via := some 5 }
def sArrive (g : Stage) (w : List Window) : State :=
  { s0 with
    routes := [(8, 1)]
    modules := [(5, { Module.reset with
      state := .active, d0 := { Direction.reset with wire := [{ flit0 with body := [(State.reqMsg 0 (sent7 g), 1, true)] }] } })]
    reqs := [sent7 g]
    windows := w }
/-- The same with the reply of request 5 still queued on module 7, from die 1. -/
def sTravels : State :=
  let s := sArrive (.back 5) [{ win0 1 0 5 with line := true }]
  { s with modules := s.modules ++ [(7, { Module.reset with
      state := .active, d1 := { Direction.reset with queue := [(State.replyMsg 1 (sent7 (.back 5)), 9)] } })] }
theorem wit_arrives : State.headerOk (State.reqHeader 0 (sent7 (.out 5))) = true ∧ State.atSlice (.fill 4) = true ∧ ((sArrive (.out 5) []).arbiter 0).step = 0 ∧
    (sArrive (.out 5) []).route 1 0 = 1 ∧
    goes (exec (.flitReceive 5 0 true true) (sArrive (.out 5) [])) (fun t => t.reqs.map (fun r => (r.stage, r.arrives)) == [(.port, 301)]) = true ∧
    goes (exec (.flitReceive 5 0 true true) (sArrive (.back 5) [{ win0 1 0 5 with line := true }])) (fun t => t.reqs.map (fun r => (r.stage, r.arrives)) == [(.port, 301)]) = true ∧
    goes (exec (.flitReceive 5 0 true true) (sArrive (.back 5) [win0 1 0 5])) (fun t => t.reqs.map Req.stage == [.back 5] &&
      ((t.module (t.linkFor (State.agentModule 7))).dir 1).queue == [(.reply 1 (win0 1 0 5).head, 1)]) = true ∧
    (sArrive (.back 5) []).replyTravels 5 = false ∧ sTravels.replyTravels 5 = true ∧
    goes (exec (.flitReceive 5 0 true true) sTravels) (fun t => t.reqs.map Req.stage == [.back 5]) = true := by decide +kernel
/-- A walker's read of a descriptor, from die 0. -/
def walk0 : Errand := { agent := 97, kind := 0x0B, seq := 4, ty := 0, op := 0, data := 0, pa := 0x2000, reply := some 8 }
def asked0 (g : ErrandStage) (m : Nat) : AgentReq := { die := 0, errand := walk0, stage := g, via := m }
/-- It is noted in the window of the other die, once; its reply ends it, and until then no acknowledgement goes. -/
theorem test_errand : let s (w : List Window) (d : Nat) (e : Errand) : State := { sLink { flit0 with body := [(.errand e, 1, true)] } id with
      modules := [(5, Module.setDir { Module.reset with state := .active } d { Direction.reset with wire := [{ flit0 with body := [(.errand e, 1, true)] }] })]
      windows := w, errands := [asked0 .sent 5] }
    let j := s0.linkFor (State.agentModule 97)
    State.headerOk (State.errandHeader 0 walk0) = true ∧
    goes (exec (.flitReceive 5 0 true true) (s [] 0 walk0)) (fun t => t.windows.map (fun w => (w.die, w.agent, w.srcDie, w.seq)) == [(1, 97, 0, 4)] &&
      t.errands == [asked0 .known 5] && ((t.module j).dir 1).queue == [(.errand (State.errandReply walk0 8 false), 9)]) = true ∧
    goes (exec (.flitReceive 5 0 true true) { s [] 0 walk0 with memPoison := [(0x2008, 3)] }) (fun t =>
      ((t.module j).dir 1).queue == [(.errand { State.errandReply walk0 8 false with pa := 1 }, 9)]) = true ∧
    goes (exec (.flitReceive 5 1 true true) (s [] 1 (State.errandReply walk0 8 false))) (fun t => t.errands == []) = true ∧
    gives (exec (.windowAcknowledge 1 97 4) (s [] 0 walk0)) (s [] 0 walk0) = true := by decide +kernel
/-- A window that is full keeps an errand, and a decided waiter's reply, at their sources. -/
theorem test_windowFull : let full (a : Nat) (n : Nat) : List Window := (List.range n).map fun i => { win0 1 0 (BitVec.ofNat 16 i) with agent := BitVec.ofNat 7 a }
    let held : State := { s0 with windows := full 97 1024 }.sendErrand 0 97 State.codeWalk 0x2000 0 8
    held.errands.map AgentReq.stage = [.held] ∧ held.releaseErrands.errands.map AgentReq.stage = [.held] ∧
    ({ held with windows := full 97 1023 }.releaseErrands).errands.map AgentReq.stage = [.sent] ∧
    (let w : Req := { req0 (.sigw 0 4 0 5) with stage := .waiter, ok := true, agent := 7 }
     let s : State := { sLink { flit0 with body := [(.ack 9 0 0, 1, true)] } id with reqs := [w], windows := [], arbiters := [(0, { Arbiter.reset 0 with owner := 1 })] }
     State.decided w = true ∧ (s.release w).reqs.map (fun r => match r.stage with
       | .back _ => true
       | _ => false) = [true] ∧ ({ s with windows := full 7 1024 }.release w).reqs.map Req.stage = [.waiter] ∧
     goes (exec (.flitReceive 5 0 true true) s) (fun t => t.reqs.map (fun r => match r.stage with
       | .back _ => true
       | _ => false) == [true]) = true) := by decide +kernel
/-- Two requests of module 5 without a reply, the later one first in the list; an answered one, and one of module 6, stay. -/
theorem test_downAgain : let r (id n m : Nat) (g : Stage) : Req := { req0 (.fill 4) with id := id, seq := BitVec.ofNat 16 n, stage := g, via := some m }
    let s : State := { s0 with
      modules := [(5, { Module.reset with state := .retraining })]
      seqs := [(0, 9)]
      reqs := [r 11 8 5 (.back 5), r 12 6 5 (.out 5), r 13 7 5 .here, r 14 5 6 (.out 6)]
      errands := [{ (asked0 .known 5) with errand := { walk0 with agent := 0, seq := 7 } }, asked0 .held 0] }
    (s.reqs.map Req.id).Nodup ∧ State.carriedOver (s.module 5).d0 = [] ∧
    goes (exec (.moduleRetrainComplete 5 false false) s) (fun t => ((t.module 17).dir 0).queue == [(State.reqMsg 0 (r 12 6 5 (.out 5)), 1), (.errand { walk0 with agent := 0, seq := 7 }, 1), (State.reqMsg 0 (r 11 8 5 (.back 5)), 1)] &&
      t.errands.map AgentReq.via == [17, 0] && t.told == [(3, 5)] &&
      t.reqs.map (fun r => (r.stage, r.via)) == [(.back 17, some 17), (.out 17, some 17), (.here, some 5), (.out 6, some 6)] &&
      (t.register 0x21028).toNat / 2 ^ 16 % 2 ^ 8 == 17) = true := by decide +kernel
/-- With the alternate down the device fails with kind 3. -/
theorem wit_bothDown : let s : State := { sFatal with modules := [(3, { Module.reset with state := .down }), (15, { Module.reset with state := .retraining })] }
    s.phase = 0x05 ∧ (s.module 15).state = .retraining ∧ (s.module ((15 + 12) % 24)).state = .down ∧ (s.module 15).rises = [] ∧
    (s.prod - s.cons).toNat < 2 ^ (s.msgbase.toNat % 32) ∧ (∀ r ∈ s.reqs, r.via ≠ some 15) := by decide +kernel
/-- A link to outside: failing flits each way, and the second protocol error. -/
theorem test_outFails : let again : State := sOutLink fun x => { x with badForm := true }
    let rep (l : Nat) : State := { s0 with links := [(l, { OutLink.reset with out := { Direction.reset with badForm := true, wire := [{ flit0 with replay := true }] } })] }
    goes (exec (.flitReceive 40 0 false true) (sOutLink id)) (fun t => (t.link 16).out.discarding && (t.link 16).out.wire == [] && !(t.link 16).out.badForm) = true ∧
    goes (exec (.flitReceive 40 0 true false) (sOutLink id)) (fun t => (t.link 16).out.badForm && !(t.link 16).down) = true ∧
    goes (exec (.flitReceive 28 0 true false) (rep 4)) (fun t => (t.link 4).down && t.told == [(9, 4)]) = true ∧
    goes (exec (.flitReceive 28 1 true true) ((sOutLink id).onLink 4 fun x => { x with down := true })) (fun t => (t.link 4).expect == OutLink.reset.expect) = true ∧
    goes (exec (.flitReceive 28 1 true false) (again.onLink 4 fun x => { x with badForm := true })) (fun t => (t.link 4).down) = true ∧
    goes (execFlitReceive 40 1 true false again) (fun t => t.phase == 0xF2) = true ∧
    goes (exec (.retryRequest 40 0) (sOutLink fun x => { x with out := { x.out with wire := [], buffer := [flit0], discarding := true } })) (fun t =>
      (t.link 16).out.wire == [{ flit0 with replay := true }]) = true ∧
    goes (exec (.ackTimeout 40 0) (sOutLink fun x => { x with out := { x.out with unacked := 16, expect := 17 } })) (fun t => (t.link 16).out.acks == [17]) = true := by
  decide +kernel
/-- An acknowledge of a window waits for an older reply of its source; a peer's and the host's replies leave receipts. -/
def rcpt (n : Nat) : Receipt := { dest := .peer 2, link := 4, agent := 7, srcDie := 1, seq := BitVec.ofNat 16 n }
theorem test_receipts : let r : Req := { req0 (.fill 4) with agent := 7, seq := 5, via := some 5, stage := .out 5 }
    let away : Req := { r with dest := .peer 2, stage := .away 4, srcDie := 1 }
    gives (exec (.windowAcknowledge 1 7 5) { s0 with reqs := [r] }) { s0 with reqs := [r] } = true ∧
    gives (exec (.windowAcknowledge 7 135 6) { s0 with receipts := [rcpt 6], reqs := [away] }) { s0 with receipts := [rcpt 6], reqs := [away] } = true ∧
    goes (exec (.windowAcknowledge 7 135 6) { s0 with receipts := [rcpt 5, rcpt 6, rcpt 7] }) (fun t => t.receipts == [rcpt 7] &&
      (t.link 4).out.queue == [(.ack 7 1 6, 1)]) = true ∧
    (∀ q ∈ [away], State.before q away = false) ∧
    goes (exec (.reply 5 none) { s0 with reqs := [away] }) (fun t => t.receipts == [rcpt 5]) = true := by decide +kernel
/-- 1 ms without a reply, on the link and outside. -/
theorem wit_peerLate : let s (g : Stage) : State := { s0 with tick := 3 * 600100, reqs := [{ req0 (.fill 4) with dest := .peer 2, stage := g, sent := 100 }] }
    goes (exec (.peerTimeout 5) (s (.link 4))) (fun t => t.reqs.map (fun r => (r.stage, (State.carried r.result).2)) == [(.here, -1)]) = true ∧
    goes (exec (.peerTimeout 5) (s (.away 4))) (fun t => t.reqs.map (fun r => (r.stage, (State.carried r.result).2)) == [(.here, -1)]) = true := by decide +kernel
/-- Requests of peers that change nothing, and a `sigw` that INRD allows. -/
theorem test_peerGate : let w : Instr := .peerRequest 2 ⟨1, 0, 2⟩ 9 0x2000 (.write .b [1])
    let halted : State := { sPeer [] with phase := 0xF2, peers := [(2, 0x1005)] }
    gives (exec w halted) halted = true ∧ goes (exec (.peerRequest 2 ⟨1, 0, 2⟩ 9 0x2000 (.read .b)) { sPeer [] with phase := 0xF2 }) (fun t => t.reqs.length == 1) = true ∧
    gives (exec (.peerRequest 16 ⟨1, 0, 2⟩ 9 0x2000 (.read .b)) (sPeer [])) (sPeer []) = true ∧
    gives (exec (.peerRequest 2 ⟨1, 0, 16⟩ 9 0x2000 (.read .b)) (sPeer [])) (sPeer []) = true ∧
    State.peerAllows 0x1003 0x2000 (.sigw .n32 5) = true ∧ State.peerAllows 0x1009 0x2000 (.sigw .n32 5) = false ∧
    (let s := sPeer [{ reqO 9729 (.sigw .n32 5) with stage := .here, result := [], ok := false }]
     goes (exec (.reply 5 none) s) (fun t => t.outerWindow == [(9729, 9, 2, [])] && t.reqs == [])) = true := by decide +kernel

/-! Knanos: what does not start, and what is still fetched. -/

/-- A more urgent launch of another queue, ready and bindable, is bound first; a context that runs applies no moves. -/
theorem test_order : let s := sLa .ready (rec0.set 0 0x010000000000_05F1) []
    let first : Launch := { launch0 with lrec := 0x6080, queue := 1, state := .ready, started := false, record := (sKn rec0).homeLine 0x6000 }
    let u : State := { s with launches := s.launches ++ [first], queues := s.queues ++ [{ (s.queues.headD default) with ring := 0x6080, next := 1 }] }
    (s.launch? 0x6000).all (fun l => s.nextBound l && !u.nextBound l && u.mayBind l && u.mayStart l) = true ∧ gives (exec (.knanosBind 0x6000 100 2 [5] 0) u) u = true ∧
    (let v := sMoves.onCore 1 fun k => { k with binds := [(0, bind0)] }
     gives (exec (.quiesceMoves 0x6000) v) v = true) := by decide +kernel
/-- An index that a slot of the context still has to fetch from is not free. -/
theorem test_fetches : let s : State := { sKn rec0 with contexts := [(4, { Ctx.reset with registered := true })] }
    let u : State := s.onCore 0 fun k => { k with binds := [(0, { bind0 with ctx := 4 })], slots := [(0, { slot0 with pc := 0x01000010 })] }
    s.fetches 4 1 = false ∧ u.fetches 4 1 = true ∧ u.fetches 4 2 = false ∧ (1 ∈ s.freeObjects 4) ∧ (1 ∉ u.freeObjects 4) ∧ (2 ∈ u.freeObjects 4) := by decide +kernel
/-- `stkown` of a stack that the other die owns asks across a module. -/
theorem test_ownAway : goes (exec (.stkown .always 3 1) { sGive 1 0 with routes := [(2, 1)] }) (fun t => (t.slot 0 0).count .s == 1 &&
      t.reqs.map (fun r => match r.stage with
        | .out m => decide (m < 24)
        | _ => false) == [true]) = true := by decide +kernel

/-! Values that stay open, waits that end, and what outlives a step. -/

/-- A slot that stands at no multiple of 4 traps, whatever its bytes. -/
theorem wit_misaligned : let s := (fetched addWords).onSlot 0 0 fun t => { t with pc := 0x01000012 }
    s.nextBundle 0 0 = some [0] ∧ s.mayIssue 0 0 = true ∧ s.coreDue 0 = false ∧ (s.slot 0 0).pc.toNat % 4 ≠ 0 ∧
      goes (step s) (fun t => (t.slot 0 0).tcause == 1 && (t.slot 0 0).tpc == 0x01000012 && (t.slot 0 0).pc == 0x02000040) = true := by
  decide +kernel
/-- An open of a crew whose floor is 1 and that holds a frame in another register. -/
def sNever : State := (sWait 1 1 0).onCore 0 fun k => { k with
  binds := [(0, { bind0 with floor := 1, pool := 0 })]
  crews := [(0, { Crew.reset with floorUsed := 1, lregs := [(5, { ways := [(0, wayOf (.frame 4))], tags := [] })] })]
  frames := [(4, frame0)] }
theorem wit_neverMet : (sNever.tokenNext 0).any (fun w => w.wid == 6 && sNever.neverMet 0 w && !w.keep && w.lanes == [⟨0, some 0, true⟩]) = true ∧
    sNever.issueDone 0 = true ∧ sNever.coreDue 0 = false ∧ (∀ k, k < 4 → ((sNever.core 0).way 0 2 k).kind = .empty) ∧
    goes (exec (.tokenWaitMet 0 6) sNever) (fun t => (t.core 0).waits == [] && (t.core 0).fires == 0 && ((t.core 0).crew 0).floorUsed == 1 &&
      !(t.slot 0 0).pred 3 && (t.slot 0 0).ostat == 0x2002 && (t.slot 0 0).hold == .free && (t.slot 0 0).pc == 0x0100001C) = true ∧
    ((sWait 2 15 0).tokenNext 0).any (fun w => !(sWait 2 15 0).neverMet 0 w) = true := by decide +kernel
/-- `flush` of a register with a stale way alone, and of a stale, an empty and a home way of an open one. -/
theorem test_flushStale : let s := sLine.onCore 0 fun k => k.setWay 0 6 0 (wayOf .stale)
    let f (la : LineOp) (cause tval : Nat) : Bool := goes (exec (.flush .always la) s) fun t =>
      (t.slot 0 0).tcause == BitVec.ofNat 32 cause && (t.slot 0 0).tval == BitVec.ofNat 64 tval && (t.slot 0 0).masked
    f ⟨6, none⟩ 2 6 = true ∧ f ⟨6, some 0⟩ 2 6 = true ∧ f ⟨2, some 3⟩ 3 0x32 = true ∧
    goes (exec (.flush .always ⟨2, some 1⟩) s) (fun t => (t.slot 0 0).pc == 0x0100001C) = true := by decide +kernel
/-- A seam's `shfl` of a lane that runs no seam: its stored register, and a poisoned one, which parks the reading lane. -/
theorem wit_shflStored : let s (bad : Bool) : State := (sRun run0).setSlot 0 1 { slot0 with regs := [(run0.a.toNat, 99)], poison := [(run0.a.toNat, bad)] }
    ((s true).slot 0 1).seam = none ∧ ((s true).core 0).seamVals = [] ∧ (run0.sel 14 1).toNat = 1 ∧ ((s true).bindOf 0 0).width ≠ 1 ∧
    ((s true).slot 0 1).poisoned run0.a.toNat = true ∧ ((s false).slot 0 1).poisoned run0.a.toNat = false ∧
    goes (exec (.uopShfl .idx 5 8 14 1) (s false)) (fun t => (t.slot 0 0).seam == some { run0 with idx := 3, q := run0.q.set 5 99 }) = true ∧
    goes (exec (.uopShfl .idx 5 8 14 1) (s true)) (fun t => (t.slot 0 0).tcause.toNat % 256 == 0x15 && (t.slot 0 0).tval == BitVec.ofNat 64 run0.a.toNat &&
      (t.slot 0 0).seam == none) = true := by decide +kernel
/-- To the host: a `ste` of a 16-bit element names its bytes, a store that wraps goes in its runs, a load that wraps reads the line. -/
theorem test_hostParts : let way : Way := { wayOf .home with dest := .host, pa := 0x2000, va := 0x2000 }
    let s := sLine.onCore 0 fun k => k.setWay 0 2 1 way
    let sent (i : Instr) (l : List Nat) : Bool := goes (exec i s) fun t => t.reqs.map (fun r => (r.dest, r.pa)) == l.map fun a => (.host, a)
    s.useWay 0 0 ⟨2, some 1⟩ 3 = .ok 1 way ∧ hostElem 0 .fp16 4 = (8, 2) ∧ hostElem 5 .fp32 3 = (35, 1) ∧
    sent (.ste .always .fp16 ⟨2, some 1⟩ 4 2 0) [0x2008] = true ∧
    sent (.st .always .w ⟨2, some 1⟩ 1 2 0) [0x2000, 0x207E] = true ∧ sent (.st .always .w ⟨2, some 1⟩ 4 2 0) [0x2004] = true ∧
    sent (.ld .always .w 10 ⟨2, some 1⟩ 1 0) [0x2000] = true ∧ sent (.ld .always .h 10 ⟨2, some 1⟩ 1 0) [0x207E] = true := by decide +kernel
/-- A request that a hand-over held, and whose source's window to the other die is full, waits at its source. -/
theorem wit_handOverFull : let r : Req := { req0 (.fill 4) with stage := .held, id := 6, agent := 7 }
    let w : List Window := (List.range 1024).map fun i => { win0 1 0 (BitVec.ofNat 16 i) with agent := 7 }
    let s : State := { sHand 5 with reqs := [r], windows := w }
    r.srcDie = (s.arbiter 0).owner ∧ 1024 ≤ (s.controlMessage 0).unacknowledged r.agent r.srcDie ∧
    ({ s with windows := [] }.controlMessage 0).unacknowledged r.agent r.srcDie < 1024 ∧
    goes (exec (.handoverSwitch 0) s) (fun t => t.reqs.map Req.stage == [.source]) = true := by decide +kernel
/-- Reserved bits of STATUS in a record. -/
theorem test_recordStatus : let l : List Nat := rec0.set 15 (2 ^ 16)
    (sKn l).recordFault ((sKn l).queues.headD default) ((sKn l).homeLine 0x6000) = some 2 := by decide +kernel
/-- An object that retires, that the old table named, waits for the launches up to this switch too. -/
theorem wit_restamp : let s : State := { sKn rec0 with
      contexts := [(3, { Ctx.reset with registered := true, switching := true, oldTable := (0xBE0400000, 0) })]
      retiring := [(3, 1, 4), (3, 2, 4)] }
    let s : State := { s with mem := s.mem ++ cells 0xBE0400000 [0x8000000001000000] }
    s.namedObjects 0xBE0400000 0 = [1] ∧ 1 ∉ s.namedObjects (rootImpt (s.codeRoot 3)) (rootImpn (s.codeRoot 3)) ∧
    goes (exec (.importSwitchComplete 3) s) (fun t => t.retiring.filter (fun g => g.2.1 == 1) == [(3, 1, 9)] &&
      t.retiring.filter (fun g => g.2.1 == 2) == [(3, 2, 4)] && !(t.context 3).switching) = true := by decide +kernel
/-- Time waits for a phase whose bound has come. -/
theorem test_phaseBound : let s (n : Nat) : State := { State.reset with phase := 0x03, phaseAt := 7, time := n, turn := .tick }
    goes (step (s (7 + 50 * 1800000))) (fun t => t.time == 7 + 50 * 1800000) = true ∧
    goes (step (s (6 + 50 * 1800000))) (fun t => t.time == 7 + 50 * 1800000) = true := by decide +kernel
/-- A copy's destination goes on at address 0. -/
theorem test_copyWraps : ((sCopyAt (fun o => { copyRead o with dstBase := 2 ^ 56 - 128 }) []).engineOp 0 6).bind
      (fun o => State.copyLine o { wayOf .home with va := 0 }) = some (0x55, nibbleMask 0 1, 0) := by decide +kernel
/-- A write of the host that a fatal error meets is no more; its reads go on. -/
theorem test_fatalCuts : let s : State := { s0 with reqs := [reqO 9729 (.write .b [1]), { reqO 9729 (.read .b) with id := 6 }] }
    goes (execFatalError 1 0 0 s) (fun t => (t.reqs.map Req.id).filter (fun i => i < 9) == [6]) = true := by decide +kernel
/-- A squall reset leaves a vacant slot its registers, and what its last trap saved. -/
theorem test_squallKeeps : let s : State := { sLa .running rec0 (kCore id true) with squalls := [squall0 .asked] }
    let u := s.onSlot 0 160 fun t => { t with regs := [(1, 9)], tpc := 0x01000004, tval := 6, masked := true }
    (let t := resets 3 u
     (t.slot 0 160).reg 1 == 9 && (t.slot 0 160).tpc == 0x01000004 && (t.slot 0 160).tval == 6 && !(t.slot 0 160).masked &&
      !(t.slot 0 160).occupied) = true := by decide +kernel

end Sys2Proof.Tests
end

/-! ## Every step keeps memory canonical and PHASE listed (O49)

`s.Keeps t` says that neither memory nor PHASE differs, `s.KeepsForm t` that memory is still in canonical form and PHASE does
not differ. Every function of the model from states to states has a lemma that says one of the two, or, where it sets PHASE,
that it leads from a safe state to a safe one. The lemmas stand in the order of the model's files, and most are `simp` lemmas:
the one of a function rests on those of the functions that it calls. -/

namespace Sys2Proof.Machine.State

/-! ### Functions that write neither memory nor PHASE -/

/-- `t` has the memory and the PHASE of `s`. -/
abbrev Keeps (s t : State) : Prop := t.mem = s.mem ∧ t.phase = s.phase

@[simp] theorem mem_ite (c : Prop) [Decidable c] (s t : State) :
    (if c then s else t).mem = if c then s.mem else t.mem := apply_ite ..
@[simp] theorem phase_ite (c : Prop) [Decidable c] (s t : State) :
    (if c then s else t).phase = if c then s.phase else t.phase := apply_ite ..

theorem Keeps.refl (s : State) : s.Keeps s := ⟨rfl, rfl⟩
theorem Keeps.trans {s t u : State} (h : s.Keeps t) (k : t.Keeps u) : s.Keeps u := ⟨k.1.trans h.1, k.2.trans h.2⟩

section Folds
variable {α β : Type}

/-- A fold relates the states that `p` finds in what it carries, when each of its steps does. -/
theorem foldl_rel {R : State → State → Prop} (hr : ∀ s, R s s) (ht : ∀ {s t u}, R s t → R t u → R s u)
    (p : β → State) {f : β → α → β} (h : ∀ a x, R (p a) (p (f a x))) (l : List α) (a : β) : R (p a) (p (l.foldl f a)) := by
  induction l generalizing a with
  | nil => exact hr _
  | cons x l ih => exact ht (h a x) (ih _)

theorem foldl_at_keeps (p : β → State) {f : β → α → β} (h : ∀ a x, (p a).Keeps (p (f a x))) (l : List α) (a : β) :
    (p a).Keeps (p (l.foldl f a)) := foldl_rel Keeps.refl Keeps.trans p h l a
@[simp] theorem foldl_keeps {f : State → α → State} (h : ∀ (u : State) x, u.Keeps (f u x)) (l : List α)
    (s : State) : s.Keeps (l.foldl f s) := foldl_at_keeps id h l s
@[simp] theorem foldl_fst_keeps {f : State × β → α → State × β} (h : ∀ (a : State × β) x, a.1.Keeps (f a x).1)
    (l : List α) (a : State × β) : a.1.Keeps (l.foldl f a).1 := foldl_at_keeps Prod.fst h l a
@[simp] theorem foldl_snd_keeps {f : β × State → α → β × State} (h : ∀ (a : β × State) x, a.2.Keeps (f a x).2)
    (l : List α) (a : β × State) : a.2.Keeps (l.foldl f a).2 := foldl_at_keeps Prod.snd h l a

theorem Keeps.foldl {f : State → α → State} {s t : State} {l : List α} (h : s.Keeps t)
    (hf : ∀ (u : State) x, u.Keeps (f u x)) : s.Keeps (l.foldl f t) := h.trans (foldl_keeps hf l t)

theorem foldl_bind_keeps {s : State} {f : α → State → Option State} (hf : ∀ u x, ∀ t ∈ f x u, u.Keeps t) (l : List α)
    (a : Option State) (ha : ∀ u ∈ a, s.Keeps u) : ∀ t ∈ l.foldl (fun a x => a.bind (f x)) a, s.Keeps t := by
  induction l generalizing a with
  | nil => exact ha
  | cons x l ih =>
    refine ih _ fun u hu => ?_
    obtain ⟨v, hv, hu⟩ := Option.bind_eq_some_iff.mp hu
    exact (ha v hv).trans (hf v x u hu)

end Folds

theorem getD_of {p : State → Prop} {o : Option State} {t : State} (h : ∀ u ∈ o, p u) (ht : p t) : p (o.getD t) := by
  cases o with
  | none => exact ht
  | some u => exact h u rfl

section
variable (s : State)

/-! #### Ops -/
@[simp] theorem closeIssue_keeps (c : Nat) : s.Keeps (s.closeIssue c) := by simp [closeIssue, Keeps]
@[simp] theorem fresh_keeps : s.Keeps (s.fresh).2 := by simp [fresh, Keeps]
@[simp] theorem free_keeps : s.Keeps (s.free).2 := by simp [free, Keeps]
@[simp] theorem choice_keeps : s.Keeps (s.choice).2 := by simp [choice, Keeps]
@[simp] theorem askSquall_keeps (q : Squall) : s.Keeps (s.askSquall q) := by simp [askSquall, Keeps]
@[simp] theorem squallOf_keeps (c n cause : Nat) (tpc tcause : W32) (tval : W64) :
    s.Keeps (s.squallOf c n cause tpc tcause tval) := by simp [squallOf, Keeps]
@[simp] theorem enterHandlerAt_keeps (c n ready : Nat) (tpc tcause : W32) (tval : W64) :
    s.Keeps (s.enterHandlerAt c n ready tpc tcause tval) := by
  unfold enterHandlerAt; split <;> simp [Keeps]
@[simp] theorem enterHandler_keeps (c n : Nat) (tpc tcause : W32) (tval : W64) :
    s.Keeps (s.enterHandler c n tpc tcause tval) := by simp [enterHandler, Keeps]
@[simp] theorem park_keeps (c n : Nat) (t : Trap) : s.Keeps (s.park c n t) := by simp [park, Keeps]
@[simp] theorem takeTrap_keeps (c n : Nat) (t : Trap) : s.Keeps (s.takeTrap c n t) := by simp [takeTrap, Keeps]
@[simp] theorem eachLane_keeps {f : State → Nat → Nat → State} (h : ∀ (u : State) c n, u.Keeps (f u c n)) :
    s.Keeps (s.eachLane f) := foldl_keeps (fun u n => h u _ n) _ _
@[simp] theorem laneStep_keeps (g : Guard) (srcs : List Nat) (f : Slot → Slot) (c n : Nat) :
    s.Keeps (s.laneStep g srcs f c n) := by
  simp only [laneStep]; (repeat' split) <;> simp [Keeps]
@[simp] theorem laneWise_keeps (g : Guard) (srcs : List Nat) (f : Slot → Slot) :
    s.Keeps (s.laneWise g srcs f) := by simp [laneWise, Keeps]
@[simp] theorem endHalts_keeps (c n : Nat) : s.Keeps (s.endHalts c n) := by simp [endHalts, Keeps]
@[simp] theorem afterRte_keeps (c n : Nat) (parked : Bool) : s.Keeps (s.afterRte c n parked) := by
  unfold afterRte; split <;> simp [Keeps]
@[simp] theorem rteTo_keeps (c n : Nat) (pc : W32) (retry : Bool) : s.Keeps (s.rteTo c n pc retry) := by simp [rteTo, Keeps]

/-! #### Home -/
@[simp] theorem setReq_keeps (r : Req) : s.Keeps (s.setReq r) := by simp [setReq, Keeps]
@[simp] theorem dropReq_keeps (id : Nat) : s.Keeps (s.dropReq id) := by simp [dropReq, Keeps]
@[simp] theorem queueMsg_keeps (m d : Nat) (msg : Msg) (slots : Nat) :
    s.Keeps (s.queueMsg m d msg slots) := by simp [queueMsg, Keeps]
@[simp] theorem onLink_keeps (l : Nat) (f : OutLink → OutLink) : s.Keeps (s.onLink l f) := by simp [onLink, Keeps]
@[simp] theorem queueOut_keeps (l : Nat) (msg : Msg) (slots : Nat) :
    s.Keeps (s.queueOut l msg slots) := by simp [queueOut, Keeps]
@[simp] theorem launchErrand_keeps (die : Nat) (e : Errand) : s.Keeps (s.launchErrand die e) := by simp [launchErrand, Keeps]
@[simp] theorem sendErrand_keeps (die agent : Nat) (code : Code) (pa data reply : Nat) :
    s.Keeps (s.sendErrand die agent code pa data reply) := by simp [sendErrand, Keeps]
@[simp] theorem releaseErrands_keeps : s.Keeps (s.releaseErrands) := by simp [releaseErrands, Keeps]
@[simp] theorem agentTraffic_keeps (die agent : Nat) (code : Code) (pa data reply : Nat) :
    s.Keeps (s.agentTraffic die agent code pa data reply) := by simp [agentTraffic, Keeps]
@[simp] theorem numbered_keeps (r : Req) : s.Keeps (s.numbered r).2 := by simp [numbered, Keeps]
@[simp] theorem launchReq_keeps (r : Req) : s.Keeps (s.launchReq r) := by
  simp only [launchReq]; (repeat' split) <;> simp [Keeps]
@[simp] theorem newReqOf_keeps (c agent srcDie : Nat) (lanes : List Nat) (kind : ReqKind) (dest : Dest) (pa : Nat)
    (ops : List (Nat × Cls × Nat)) :
    s.Keeps (s.newReqOf c agent srcDie lanes kind dest pa ops).2 := by simp [newReqOf, Keeps]
@[simp] theorem newReq_keeps (c : Nat) (lanes : List Nat) (kind : ReqKind) (dest : Dest) (pa : Nat)
    (ops : List (Nat × Cls × Nat)) :
    s.Keeps (s.newReq c lanes kind dest pa ops).2 := by simp [newReq, Keeps]
@[simp] theorem sendReq_keeps (r : Req) : s.Keeps (s.sendReq r) := by simp [sendReq, Keeps]
theorem sendAll_keeps (l : List Req) : ∀ t ∈ s.sendAll l, s.Keeps t := by
  refine foldl_bind_keeps (fun u r => ?_) l (some s) fun u hu => ?_
  · split <;> simp [Keeps]
  · cases hu; exact .refl s
@[simp] theorem request_keeps (c : Nat) (lanes : List Nat) (kind : ReqKind) (dest : Dest) (pa : Nat)
    (ops : List (Nat × Cls × Nat)) :
    s.Keeps (s.request c lanes kind dest pa ops) := by simp [request, Keeps]
@[simp] theorem sendReply_keeps (q : Req) (die : Nat) : s.Keeps (s.sendReply q die) := by
  unfold sendReply; split <;> simp [Keeps]
@[simp] theorem performed_keeps (r : Req) : s.Keeps (s.performed r) := by simp [performed, Keeps]
@[simp] theorem release_keeps (r : Req) : s.Keeps (s.release r) := by simp [release, Keeps]
@[simp] theorem wakeWaiter_keeps (r : Req) : s.Keeps (s.wakeWaiter r) := by
  unfold wakeWaiter; split <;> simp [Keeps]
@[simp] theorem releaseWaiters_keeps : s.Keeps (s.releaseWaiters) := by simp [releaseWaiters, Keeps]
@[simp] theorem wakeWaiters_keeps (pa : Nat) (mask : Nibbles) :
    s.Keeps (s.wakeWaiters pa mask) := by simp [wakeWaiters, Keeps]
@[simp] theorem counterDown_keeps (c b : Nat) : s.Keeps (s.counterDown c b) := by simp [counterDown, Keeps]
@[simp] theorem completeOp_keeps (c : Nat) (counted : Option Nat) (o : Nat × Cls × Nat) (pred : Option (PredNo × Bool)) :
    s.Keeps (s.completeOp c counted o pred) := by
  simp only [completeOp]; (repeat' split) <;> simp [Keeps]
theorem performFill_keeps (r : Req) : ∀ t ∈ s.performFill r, s.Keeps t := by
  unfold performFill; split <;> simp [Keeps]
@[simp] theorem backDone_keeps (r : Req) : s.Keeps (s.backDone r) := by
  unfold backDone; split <;> simp [Keeps]
@[simp] theorem finishBack_keeps (r : Req) : s.Keeps (s.finishBack r) := by simp [finishBack, Keeps]
theorem performRead_keeps (r : Req) : ∀ t ∈ s.performRead r, s.Keeps t := by
  unfold performRead; split <;> simp [Keeps]
@[simp] theorem sigwRead_keeps (r : Req) (a n : Nat) (least : W64) :
    s.Keeps (s.sigwRead r a n least) := by simp [sigwRead, Keeps]
theorem performSigw_keeps (r : Req) : ∀ t ∈ s.performSigw r, s.Keeps t := by
  unfold performSigw; split <;> simp [Keeps]

/-! #### Translate -/
@[simp] theorem handle_keeps (c b h : Nat) : s.Keeps (s.handle c b h).2 := by
  simp only [handle]; (repeat' split) <;> simp [Keeps]
@[simp] theorem fillL1_keeps (c : Nat) (e : TlbEntry) : s.Keeps (s.fillL1 c e) := by simp [fillL1, Keeps]
@[simp] theorem fillL2_keeps (die : Nat) (e : TlbEntry) : s.Keeps (s.fillL2 die e) := by simp [fillL2, Keeps]
@[simp] theorem keepNodes_keeps (die w : Nat) (asid : BitVec 14) (l : List Nat) :
    s.Keeps (s.keepNodes die w asid l) := by simp [keepNodes, Keeps]
@[simp] theorem walkFill_keeps (c : Nat) (b : Bind) (dest : Dest) (va : Nat) : s.Keeps (s.walkFill c b dest va).2 := by
  simp only [walkFill]; (repeat' split) <;> simp [Keeps]
@[simp] theorem translate_keeps (c b : Nat) (dest : Dest) (va : Nat) : s.Keeps (s.translate c b dest va).2 := by
  simp only [translate]; (repeat' split) <;> simp [Keeps]
@[simp] theorem keepTlb_keeps (f : TlbEntry → Bool) : s.Keeps (s.keepTlb f) := ⟨rfl, rfl⟩
@[simp] theorem checkLine_keeps (c b : Nat) (e : BitVec 256) (rd wr : Bool) (va : Nat) (noSum : Bool) :
    s.Keeps (s.checkLine c b e rd wr va noSum).2 := by
  simp only [checkLine]; (repeat' split) <;> simp [Keeps]

/-! #### Lines -/
@[simp] theorem writeFrame_keeps (c f : Nat) (lanes : List Nat) : s.Keeps (s.writeFrame c f lanes) := by
  simp only [writeFrame]; (repeat' split) <;> simp [Keeps]
@[simp] theorem leaveFrame_keeps (c f : Nat) (lanes : List Nat) (keep : Bool) : s.Keeps (s.leaveFrame c f lanes keep) := by
  unfold leaveFrame; split <;> simp [Keeps]
@[simp] theorem recallWay_keeps (c crew n w : Nat) (lanes : List Nat) : s.Keeps (s.recallWay c crew n w lanes) := by
  simp only [recallWay]; (repeat' split) <;> simp [Keeps]
@[simp] theorem recallReg_keeps (c crew : Nat) (la : LineOp) (lanes : List Nat) :
    s.Keeps (s.recallReg c crew la lanes) := by simp [recallReg, Keeps]
@[simp] theorem crewLanes_keeps (g : Guard) (srcs : List Nat) : s.Keeps (s.crewLanes g srcs).2 := by
  unfold crewLanes
  exact foldl_snd_keeps (fun a n => by split <;> simp [Keeps]) _ ([], s)
@[simp] theorem skipRest_keeps (g : Guard) : s.Keeps (s.skipRest g) := by simp [skipRest, Keeps]
@[simp] theorem advanceAll_keeps (c : Nat) (l : List Nat) : s.Keeps (s.advanceAll c l) := by simp [advanceAll, Keeps]
@[simp] theorem joinFill_keeps (id : Nat) (ops : List (Nat × Cls × Nat)) :
    s.Keeps (s.joinFill id ops) := by simp [joinFill, Keeps]
@[simp] theorem sendFill_keeps (c f : Nat) (lanes : List Nat) (ops : List (Nat × Cls × Nat)) :
    s.Keeps (s.sendFill c f lanes ops) := by
  unfold sendFill; split <;> simp [Keeps]
@[simp] theorem bindLine_keeps (c : Nat) (w : OpenWait) (l : OpenLine) : s.Keeps (bindLine c w s l) := by
  simp only [bindLine]; (repeat' split) <;> simp [Keeps]
@[simp] theorem openDone_keeps (c slot op : Nat) : s.Keeps (s.openDone c slot op) := by simp [openDone, Keeps]
@[simp] theorem openTimed_keeps (c : Nat) (w : OpenWait) : s.Keeps (s.openTimed c w) := by simp [openTimed, Keeps]
@[simp] theorem openTimers_keeps (c : Nat) : s.Keeps (s.openTimers c) := by simp [openTimers, Keeps]
@[simp] theorem openStep_keeps (c : Nat) (w : OpenWait) (slot : Nat) :
    s.Keeps (s.openStep c w slot) := by simp [openStep, Keeps]
@[simp] theorem joinHeld_keeps (c : Nat) (w : OpenWait) (l : OpenLine) : s.Keeps (s.joinHeld c w l) := by
  simp only [joinHeld]; (repeat' split) <;> simp [Keeps]
@[simp] theorem readyWays_keeps (c : Nat) (w : OpenWait) : s.Keeps (s.readyWays c w).2 := by
  unfold readyWays; split <;> simp [Keeps]
@[simp] theorem bindOpen_keeps (c : Nat) (w : OpenWait) : s.Keeps (s.bindOpen c w) := by
  have h : s.Keeps (w.lines.foldl (bindLine c w) s) := foldl_keeps (fun u l => by simp [Keeps]) _ _
  unfold bindOpen
  refine .trans (h.trans (foldl_keeps (fun u l => ?_) _ _)) (openTimed_keeps _ _ _)
  split
  · split <;> simp [Keeps]
  · simp [Keeps]
@[simp] theorem pegwait_keeps (c : Nat) (w : OpenWait) : s.Keeps (s.pegwait c w) := by simp [pegwait, Keeps]
@[simp] theorem bindOrHold_keeps (c : Nat) (w : OpenWait) : s.Keeps (s.bindOrHold c w) := by simp [bindOrHold, Keeps]
@[simp] theorem serveFrames_keeps (c : Nat) : s.Keeps (s.serveFrames c) := by simp [serveFrames, Keeps]
@[simp] theorem openCheck_keeps (c b : Nat) (sp : OpenSpec) (e : Option (BitVec 256)) (line : Nat) :
    s.Keeps (s.openCheck c b sp e line).2 := by
  unfold openCheck; split <;> simp [Keeps]
@[simp] theorem parkedOpen_keeps (c n : Nat) (lreg : BitVec 4) :
    s.Keeps (s.parkedOpen c n lreg) := by simp [parkedOpen, Keeps]
@[simp] theorem lookOpen_keeps (c : Nat) (inst : Instr) (live slots : List Nat) (op : Nat) (retry : Bool) (pcLen : Nat) :
    s.Keeps (s.lookOpen c inst live slots op retry pcLen) := by
  unfold lookOpen
  extract_lets sp crew b he targets named lines checks wid base src s1 held verdict trapOf trapped s2 stay found lanes w0 r
    w s3 k s4
  have h0 : s.Keeps he.2 := by dsimp only [he]; split <;> simp [Keeps]
  have h1 : s.Keeps checks.2 := h0.trans (foldl_snd_keeps (fun a v => by simp [Keeps]) lines (_, he.2))
  have h2 : s.Keeps s2 := Keeps.foldl (show s.Keeps s1 from h1) fun u t => by simp [Keeps]
  have h3 : s.Keeps s3 := h2.trans (readyWays_keeps ..)
  split
  · exact Keeps.foldl (show s.Keeps held from h1) fun u l => by simp [Keeps]
  split
  · exact h3.trans (pegwait_keeps ..)
  split
  · exact .trans (show s.Keeps (s3.onCore c _) from h3) (bindOrHold_keeps ..)
  · exact Keeps.foldl (show s.Keeps s4 from h3) fun u l => by simp [Keeps]
@[simp] theorem openInstr_keeps (inst : Instr) : s.Keeps (openInstr inst s) := by simp [openInstr, Keeps]
@[simp] theorem walkAgain_keeps (c : Nat) (w : OpenWait) (inst : Instr) :
    s.Keeps (s.walkAgain c w inst) := by simp [walkAgain, Keeps]
@[simp] theorem staleWay_keeps (c crew n w : Nat) : s.Keeps (s.staleWay c crew n w) := by
  simp only [staleWay]; (repeat' split) <;> simp [Keeps]
@[simp] theorem fillDone_keeps (c : Nat) (r : Req) : s.Keeps (s.fillDone c r) := by simp [fillDone, Keeps]
@[simp] theorem fillFrame_keeps (c f : Nat) (r : Req) : s.Keeps (s.fillFrame c f r) := by simp [fillFrame, Keeps]
@[simp] theorem recallInstr_keeps (g : Guard) (la : LineOp) : s.Keeps (recallInstr g la s) := by simp [recallInstr, Keeps]
@[simp] theorem flushInstr_keeps (g : Guard) (la : LineOp) : s.Keeps (s.flushInstr g la) := by
  simp only [flushInstr]
  split
  · simp [Keeps]
  split
  · simp [Keeps]
  · refine .trans (foldl_keeps (fun u x => ?_) _ _) (advanceAll_keeps _ _ _)
    split <;> simp [Keeps]
@[simp] theorem pfdInstr_keeps (g : Guard) (h : BitVec 12) (a : Reg) : s.Keeps (s.pfdInstr g h a) := by
  simp only [pfdInstr]
  have h := (crewLanes_keeps s g [a.toNat]).trans (skipRest_keeps _ g)
  refine .trans (h.foldl fun u x => ?_) (advanceAll_keeps ..)
  (repeat' split) <;> simp [Keeps]

/-! #### Access -/
@[simp] theorem storeImage_keeps (c : Nat) (w : Way) (l : Line) (mask : Nibbles) : s.Keeps (s.storeImage c w l mask) := by
  unfold storeImage; split <;> simp [Keeps]
@[simp] theorem sendHome_keeps (c : Nat) (lanes : List HomeLane) (returns : Bool) (inst : Instr)
    (kind : Instr → List HomeLane → Bool → ReqKind) :
    s.Keeps (s.sendHome c lanes returns inst kind) := by simp [sendHome, Keeps]
@[simp] theorem loadLane_keeps (c : Nat) (la : LineOp) (b : Reg) (off : Nat) (inst : Instr)
    (a : State × List HomeLane) (n : Nat) :
    a.1.Keeps (loadLane c la b off inst a n).1 := by
  simp only [loadLane]; (repeat' split) <;> simp [Keeps]
@[simp] theorem loadInstr_keeps (g : Guard) (la : LineOp) (b : Reg) (off : Nat) (inst : Instr) :
    s.Keeps (loadInstr g la b off inst s) := by simp [loadInstr, Keeps]
@[simp] theorem storeLane_keeps (c : Nat) (la : LineOp) (b : Reg) (off : Nat) (inst : Instr)
    (a : State × List HomeLane) (n : Nat) :
    a.1.Keeps (storeLane c la b off inst a n).1 := by
  simp only [storeLane]; (repeat' split) <;> simp [Keeps]
@[simp] theorem storeInstr_keeps (g : Guard) (la : LineOp) (b : Reg) (off : Nat) (inst : Instr) :
    s.Keeps (storeInstr g la b off inst s) := by simp [storeInstr, Keeps]
@[simp] theorem unitInstr_keeps (inst : Instr) : s.Keeps (unitInstr inst s) := by
  unfold unitInstr
  extract_lets sp c looked s1 good till id homes here s2 key s3 s4 s5
  have h1 : s.Keeps s1 := (skipRest_keeps ..).foldl fun u x => by split <;> simp [Keeps]
  have h2 : s.Keeps s2 := Keeps.foldl (show s.Keeps { s1 with nextId := id + 1 } from h1) fun u x => by simp [Keeps]
  have h3 : s.Keeps s3.2 := h2.trans (foldl_snd_keeps (fun a k => by simp [Keeps]) _ (_, s2))
  have h5 : s.Keeps s5 := Keeps.foldl (show s.Keeps s4 from h3) fun u x => by simp [Keeps]
  split
  · exact h1
  · exact h5.trans (advanceAll_keeps ..)
@[simp] theorem unitWord_keeps (c : Nat) (o : LsuOp) (lanes : List (Nat × Way × Nat × W64 × W64)) :
    s.Keeps (unitWord c o s lanes) := by
  simp only [unitWord]; (repeat' split) <;> simp [Keeps]
@[simp] theorem unitLeave_keeps (c : Nat) (o : LsuOp) : s.Keeps (s.unitLeave c o) := by
  refine .foldl (.foldl (.foldl ⟨rfl, rfl⟩ fun u id => ?_) fun u x => ?_) fun u k => unitWord_keeps ..
  · split <;> simp [Keeps]
  · split <;> simp [Keeps]
@[simp] theorem deliver_keeps (r : Req) : s.Keeps (s.deliver r) := by simp [deliver, Keeps]
@[simp] theorem sigwReply_keeps (r : Req) (slot : Nat) : s.Keeps (s.sigwReply r slot) := by
  unfold sigwReply; split <;> simp [Keeps]

/-! #### Team -/
@[simp] theorem eachActive_keeps (g : Guard) (srcs : List Nat) {f : State → Nat → Nat → State}
    (h : ∀ (u : State) c n, u.Keeps (f u c n)) : s.Keeps (s.eachActive g srcs f) := by
  refine eachLane_keeps _ fun u c n => ?_
  (repeat' split) <;> simp [h, Keeps]
@[simp] theorem setTeam_keeps (c k : Nat) (t : Team) : s.Keeps (s.setTeam c k t) := by simp [setTeam, Keeps]
@[simp] theorem phaseCheck_keeps (c k : Nat) : s.Keeps (s.phaseCheck c k) := by
  simp only [phaseCheck]; (repeat' split) <;> simp [Keeps]
@[simp] theorem leaveTeam_keeps (c k n : Nat) : s.Keeps (s.leaveTeam c k n) := by
  unfold leaveTeam; split <;> simp [Keeps]
@[simp] theorem leaveTeams_keeps (c n : Nat) : s.Keeps (s.leaveTeams c n) := by simp [leaveTeams, Keeps]
@[simp] theorem joinLane_keeps (p : PredNo) (b : OpB) (c n : Nat) : s.Keeps (joinLane p b s c n) := by
  simp only [joinLane]; (repeat' split) <;> simp [Keeps]
@[simp] theorem leaveLane_keeps (p : PredNo) (b : OpB) (c n : Nat) :
    s.Keeps (leaveLane p b s c n) := by simp [leaveLane, Keeps]
@[simp] theorem arrive_keeps (c n : Nat) (inst : Instr) (len : Nat) : s.Keeps (s.arrive c n inst len) := by
  simp only [arrive]; (repeat' split) <;> simp [Keeps]
@[simp] theorem collLane_keeps (inst : Instr) (c n : Nat) : s.Keeps (collLane inst s c n) := by
  unfold collLane; split <;> simp [Keeps]

/-! #### Control -/
@[simp] theorem transferLane_keeps (a : Reg) (link : Bool) (c n : Nat) :
    s.Keeps (transferLane a link s c n) := by simp [transferLane, Keeps]
@[simp] theorem relativeLane_keeps (off : W32) (link : Bool) (c n : Nat) :
    s.Keeps (relativeLane off link s c n) := by simp [relativeLane, Keeps]
@[simp] theorem importLane_keeps (entry : BitVec 12) (c n : Nat) : s.Keeps (importLane entry s c n) := by
  unfold importLane; split <;> simp [Keeps]
@[simp] theorem passCounts_keeps (c n : Nat) : s.Keeps (s.passCounts c n) := by simp [passCounts, Keeps]
@[simp] theorem drainSpent_keeps (c e : Nat) : s.Keeps (s.drainSpent c e) := by simp [drainSpent, Keeps]
@[simp] theorem retire_keeps (c n : Nat) : s.Keeps (s.retire c n) := by simp [retire, Keeps]
@[simp] theorem exitLane_keeps (c n : Nat) : s.Keeps (s.exitLane c n) := by simp [exitLane, Keeps]
@[simp] theorem fillSlot_keeps (c b n : Nat) (item : W32) : s.Keeps (s.fillSlot c b n item) := by simp [fillSlot, Keeps]

/-! #### Cross -/
@[simp] theorem crossLane_keeps (act : List Nat × State) (g : Guard) (f : State → List Nat → Nat → Slot → Slot) :
    act.2.Keeps (s.crossLane act g f) := by simp [crossLane, Keeps]
@[simp] theorem crossReg_keeps (g : Guard) (a : Reg) (f : State → List Nat → Nat → Slot → Slot) :
    s.Keeps (s.crossReg g a f) := by simp [crossReg, Keeps]
@[simp] theorem shflInstr_keeps (g : Guard) (mode : ShflMode) (d a : Reg) (b : OpB) (p : PredNo) :
    s.Keeps (shflInstr g mode d a b p s) := by
  refine .trans (foldl_snd_keeps (fun x n => ?_) _ ([], s)) (crossLane_keeps ..)
  split
  · simp [Keeps]
  · split <;> simp [Keeps]
@[simp] theorem voteInstr_keeps (g : Guard) (dst : VoteDst) (a : PredNo) :
    s.Keeps (voteInstr g dst a s) := by simp [voteInstr, Keeps]
@[simp] theorem matchInstr_keeps (g : Guard) (ty : MatchTy) (d a : Reg) :
    s.Keeps (matchInstr g ty d a s) := by simp [matchInstr, Keeps]
@[simp] theorem conflInstr_keeps (g : Guard) (d a : Reg) : s.Keeps (conflInstr g d a s) := by simp [conflInstr, Keeps]
@[simp] theorem credInstr_keeps (g : Guard) (op : CrOp) (d a : Reg) :
    s.Keeps (credInstr g op d a s) := by simp [credInstr, Keeps]
@[simp] theorem cscanInstr_keeps (g : Guard) (op : CrOp) (excl : Bool) (d a : Reg) :
    s.Keeps (cscanInstr g op excl d a s) := by simp [cscanInstr, Keeps]
@[simp] theorem electInstr_keeps (g : Guard) (p : PredNo) : s.Keeps (electInstr g p s) := by simp [electInstr, Keeps]

/-! #### System -/
@[simp] theorem cacheLine_keeps (c key : Nat) (l : CodeLine) : s.Keeps (s.cacheLine c key l) := by simp [cacheLine, Keeps]
@[simp] theorem fetchHome_keeps (c b : Nat) (pc : W32) : s.Keeps (s.fetchHome c b pc).2 := by
  simp only [fetchHome]; (repeat' split) <;> simp [Keeps]
@[simp] theorem fetchCode_keeps (c b : Nat) (pc : W32) (again : Bool) : s.Keeps (s.fetchCode c b pc again).2 := by
  simp only [fetchCode]; (repeat' split) <;> simp [Keeps]
@[simp] theorem waitLane_keeps (w : WaitSet) (c n : Nat) : s.Keeps (waitLane w s c n) := by simp [waitLane, Keeps]
@[simp] theorem sigwLane_keeps (wide : Bool) (la : LineOp) (b d : Reg) (c n : Nat) :
    s.Keeps (sigwLane wide la b d s c n) := by
  simp only [sigwLane]; (repeat' split) <;> simp [Keeps]
@[simp] theorem mfsLane_keeps (d : Reg) (r : SReg) (c n : Nat) : s.Keeps (mfsLane d r s c n) := by simp [mfsLane, Keeps]
@[simp] theorem mtsLane_keeps (r : SReg) (a : Reg) (c n : Nat) : s.Keeps (mtsLane r a s c n) := by
  simp only [mtsLane]; (repeat' split) <;> simp [Keeps]
@[simp] theorem rteSkipLane_keeps (c n : Nat) : s.Keeps (s.rteSkipLane c n) := by
  have h := fetchCode_keeps s c (s.slot c n).bind (s.slot c n).tpc false
  simp only [rteSkipLane]
  split <;> rename_i e <;> rw [e] at h
  · exact h
  · simpa [Keeps] using h
  · split <;> simpa [Keeps] using h
@[simp] theorem rteLane_keeps {f : State → Nat → Nat → State} (h : ∀ (u : State) c n, u.Keeps (f u c n)) (c n : Nat) :
    s.Keeps (rteLane f s c n) := by
  unfold rteLane; split <;> simp [h, Keeps]
@[simp] theorem icinvLane_keeps (a : Reg) (c n : Nat) : s.Keeps (icinvLane a s c n) := by simp [icinvLane, Keeps]
@[simp] theorem pfiLane_keeps (a : Reg) (c n : Nat) : s.Keeps (pfiLane a s c n) := by simp [pfiLane, Keeps]
@[simp] theorem hldLane_keeps (f : HldField) (d : Reg) (h : BitVec 12) (c n : Nat) :
    s.Keeps (hldLane f d h s c n) := by simp [hldLane, Keeps]
@[simp] theorem giveLane_keeps (p : PredNo) (a : Reg) (b : OpB) (c n : Nat) :
    s.Keeps (giveLane p a b s c n) := by simp [giveLane, Keeps]
@[simp] theorem ownLane_keeps (p : PredNo) (a : Reg) (c n : Nat) : s.Keeps (ownLane p a s c n) := by simp [ownLane, Keeps]
@[simp] theorem stopMember_keeps (c n : Nat) (h : Halt) : s.Keeps (s.stopMember c n h) := by simp [stopMember, Keeps]
@[simp] theorem deferMember_keeps (c n : Nat) (h : Halt) : s.Keeps (s.deferMember c n h) := by simp [deferMember, Keeps]
@[simp] theorem pauseLane_keeps (c n : Nat) : s.Keeps (s.pauseLane c n) := by simp [pauseLane, Keeps]
@[simp] theorem fetchSlot_keeps (again : Bool) (c n : Nat) : s.Keeps (fetchSlot again s c n) := by
  have h := fetchCode_keeps s c (s.slot c n).bind (s.slot c n).pc again
  simp only [fetchSlot]
  split <;> rename_i e <;> rw [e] at h <;> simpa [Keeps] using h

/-! #### Engine -/
@[simp] theorem issueOp_keeps (c n : Nat) (k : Cls) (o : EngineOp) : s.Keeps (s.issueOp c n k o) := by simp [issueOp, Keeps]
@[simp] theorem beginOps_keeps (c : Nat) : s.Keeps (s.beginOps c) := by simp [beginOps, Keeps]
@[simp] theorem settle_keeps (c n : Nat) (k : Cls) (i : Issue) (f : Core → Core) : s.Keeps (s.settle c n k i f) := by
  unfold settle; split <;> simp [Keeps]
@[simp] theorem byteCheck_keeps (c b : Nat) (known : List Way) (sd : Side) (wr : Bool) (o : Int) :
    s.Keeps (s.byteCheck c b known sd wr o).2 := by
  simp only [byteCheck]; (repeat' split) <;> simp [Keeps]
@[simp] theorem runTag_keeps (c b : Nat) (sd : Side) (o : Int) : s.Keeps (s.runTag c b sd o).2 := by
  simp only [runTag]; (repeat' split) <;> simp [Keeps]
@[simp] theorem runTags_keeps (c b : Nat) (ss ds : Side) (l : Line) : s.Keeps (s.runTags c b ss ds l).2.2.2 := by
  unfold runTags
  refine foldl_at_keeps (fun x : List (Int × Int × Nat × Nat) × Bool × Bool × State => x.2.2.2) (fun x o => ?_) _
    (_, _, _, s)
  extract_lets rs rd
  have h : x.2.2.2.Keeps rd.2 := (runTag_keeps ..).trans (runTag_keeps ..)
  split <;> exact h
@[simp] theorem checkBytes_keeps (c b : Nat) (ss ds : Side) (bytes : List (Bool × Int)) :
    s.Keeps (s.checkBytes c b ss ds bytes).2 := by
  refine foldl_snd_keeps (fun a x => ?_) bytes (_, s)
  split
  · simp [Keeps]
  · extract_lets known r
    have h : a.2.Keeps r.2 := byteCheck_keeps ..
    split
    · split <;> exact h
    · exact h
@[simp] theorem copyIssue_keeps (c n : Nat) (inst : Instr) (a : Nat) : s.Keeps (s.copyIssue c n inst a).2 := by
  -- the block read from scratch under a name of its own, or the kernel computes with it
  obtain ⟨x, hx⟩ : ∃ x : Line, x = BitVec.ofNat 1024 (s.scratchNum c a 128) := ⟨_, rfl⟩
  rw [copyIssue, ← hx]
  split
  · exact ⟨rfl, rfl⟩
  extract_lets l tiles k hs hd ss ds
  split
  · exact ⟨rfl, rfl⟩
  split
  · exact ⟨rfl, rfl⟩
  have h1 : s.Keeps hs.2 := by dsimp only [hs]; split <;> simp [Keeps]
  have h2 : s.Keeps hd.2 := h1.trans (by dsimp only [hd]; split <;> simp [Keeps])
  have h3 := h2.trans (runTags_keeps hd.2 c (s.slot c n).bind ss ds l)
  split
  rename_i e
  rw [e] at h3
  split
  · exact h3
  split
  · exact h3
  extract_lets r
  have h4 : s.Keeps r.2 := h3.trans (checkBytes_keeps ..)
  split <;> exact h4
@[simp] theorem copyLane_keeps (a : Reg) (inst : Instr) (c n : Nat) :
    s.Keeps (copyLane a inst s c n) := by simp [copyLane, Keeps]
@[simp] theorem mloadLane_keeps (a : Reg) (inst : Instr) (c n : Nat) :
    s.Keeps (mloadLane a inst s c n) := by simp [mloadLane, Keeps]
@[simp] theorem mmaLane_keeps (a : Reg) (inst : Instr) (c n : Nat) :
    s.Keeps (mmaLane a inst s c n) := by simp [mmaLane, Keeps]
@[simp] theorem tallocLane_keeps (t : BitVec 6) (a : Reg) (inst : Instr) (c n : Nat) :
    s.Keeps (tallocLane t a inst s c n) := by simp [tallocLane, Keeps]
@[simp] theorem tfreeLane_keeps (t : BitVec 6) (inst : Instr) (c n : Nat) : s.Keeps (tfreeLane t inst s c n) := by
  simp only [tfreeLane]; (repeat' split) <;> simp [Keeps]
@[simp] theorem tstatLane_keeps (d : Reg) (t : BitVec 6) (c n : Nat) :
    s.Keeps (tstatLane d t s c n) := by simp [tstatLane, Keeps]
@[simp] theorem setOp_keeps (c : Nat) (o : EngineOp) : s.Keeps (s.setOp c o) := by simp [setOp, Keeps]
@[simp] theorem opEnd_keeps (c : Nat) (k : Cls) (o : EngineOp) : s.Keeps (s.opEnd c k o) := by simp [opEnd, Keeps]
@[simp] theorem allocate_keeps (c : Nat) : s.Keeps (s.allocate c) := by simp [allocate, Keeps]
@[simp] theorem opDone_keeps (c : Nat) (k : Cls) (o : EngineOp) : s.Keeps (s.opDone c k o) := by simp [opDone, Keeps]
@[simp] theorem scratchStore_keeps (c a : Nat) (l : Line) (mask poison : Nibbles) :
    s.Keeps (s.scratchStore c a l mask poison) := ⟨rfl, rfl⟩
@[simp] theorem lastWrite_keeps (c : Nat) (o : EngineOp) : s.Keeps (s.lastWrite c o) := by
  unfold lastWrite; split <;> simp [Keeps]
@[simp] theorem noteWritten_keeps (c : Nat) (o : EngineOp) (j : Nat) :
    s.Keeps (s.noteWritten c o j) := by simp [noteWritten, Keeps]
@[simp] theorem macroOpDone_keeps (c : Nat) (o : EngineOp) : s.Keeps (s.macroOpDone c o) := by simp [macroOpDone, Keeps]
@[simp] theorem sendEngWrite_keeps (c id j : Nat) (w : Way) (l : Line × Nibbles × Nibbles) :
    s.Keeps (s.sendEngWrite c id j w l) := by
  unfold sendEngWrite
  split
  · extract_lets made
    have h : s.Keeps made.2 := foldl_snd_keeps (fun a p => by simp [Keeps]) _ ([], s)
    exact getD_of (fun t ht => h.trans (sendAll_keeps _ _ t ht)) h
  · simp [Keeps]

/-! #### Seam -/
@[simp] theorem seamldLane_keeps (a b : Reg) (c n : Nat) : s.Keeps (seamldLane a b s c n) := by
  simp only [seamldLane]; (repeat' split) <;> simp [Keeps]
@[simp] theorem seamldInstr_keeps (g : Guard) (a b : Reg) : s.Keeps (seamldInstr g a b s) := by simp [seamldInstr, Keeps]
@[simp] theorem startSeam_keeps (c n group : Nat) (e : W32) (d a b cc : Reg) (p : PredNo) (imm : W32) :
    s.Keeps (s.startSeam c n group e d a b cc p imm) := by simp [startSeam, Keeps]
@[simp] theorem xseamInstr_keeps (g : Guard) (n : BitVec 6) (d a b cc : Reg) (p : PredNo) (imm : W32) :
    s.Keeps (xseamInstr g n d a b cc p imm s) := by simp [xseamInstr, Keeps]
@[simp] theorem dropGroup_keeps (c group : Nat) : s.Keeps (s.dropGroup c group) := by simp [dropGroup, Keeps]
@[simp] theorem endSeam_keeps (c n : Nat) (r : SeamRun) : s.Keeps (s.endSeam c n r) := by simp [endSeam, Keeps]
@[simp] theorem abandonSeam_keeps (c n : Nat) (r : SeamRun) (e : Trap) :
    s.Keeps (s.abandonSeam c n r e) := by simp [abandonSeam, Keeps]
@[simp] theorem seamGo_keeps (c n : Nat) (r : SeamRun) (next : Nat) : s.Keeps (s.seamGo c n r next) := by simp [seamGo, Keeps]
@[simp] theorem eachSeam_keeps {f : State → Nat → Nat → SeamRun → State} (h : ∀ (u : State) c n r, u.Keeps (f u c n r)) :
    s.Keeps (s.eachSeam f) := by
  refine eachLane_keeps _ fun u c n => ?_
  (repeat' split) <;> simp [h, Keeps]
@[simp] theorem seamWrite_keeps (q : QReg) (f : SeamRun → W32) : s.Keeps (s.seamWrite q f) := by simp [seamWrite, Keeps]
@[simp] theorem seamOp_keeps (q : QReg) (a b : Sel) (k : W32) (f : W32 → W32 → W32) :
    s.Keeps (s.seamOp q a b k f) := by simp [seamOp, Keeps]
@[simp] theorem seamLoad_keeps (q : QReg) (a : Sel) (off : BitVec 7) (la : LineOp) (c n : Nat) (r : SeamRun) :
    s.Keeps (seamLoad q a off la s c n r) := by
  simp only [seamLoad]; (repeat' split) <;> simp [Keeps]
@[simp] theorem seamStore_keeps (a b : Sel) (off : BitVec 7) (la : LineOp) (c n : Nat) (r : SeamRun) :
    s.Keeps (seamStore a b off la s c n r) := by
  simp only [seamStore]; (repeat' split) <;> simp [Keeps]
@[simp] theorem seamShfl_keeps (mode : ShflMode) (q : QReg) (a b : Sel) (k : W32) (c n : Nat) (r : SeamRun) :
    s.Keeps (seamShfl mode q a b k s c n r) := by
  unfold seamShfl; split <;> simp [Keeps]
@[simp] theorem seamCommit_keeps (c n : Nat) (r : SeamRun) : s.Keeps (s.seamCommit c n r) := by
  unfold seamCommit
  split
  · simp [Keeps]
  · extract_lets s1 s2
    have h : s.Keeps s1 := foldl_keeps (fun u b => by split <;> simp [Keeps]) _ _
    exact .trans (show s.Keeps s2 from h) (endSeam_keeps ..)

/-! #### Picker -/
@[simp] theorem countDetector_keeps (c : Nat) : s.Keeps (s.countDetector c) := by simp [countDetector, Keeps]

/-! #### Fatal -/
@[simp] theorem messageReq_keeps (w0 w1 : W64) : s.Keeps (s.messageReq w0 w1).2 := by simp [messageReq, Keeps]
@[simp] theorem writeMessage_keeps (w0 w1 : W64) : s.Keeps (s.writeMessage w0 w1) := by simp [writeMessage, Keeps]
@[simp] theorem fatalMessage_keeps (reason : W64) : s.Keeps (s.fatalMessage reason) := by simp [fatalMessage, Keeps]

/-! #### Link -/
@[simp] theorem sendFlits_keeps : s.Keeps (s.sendFlits) := by simp [sendFlits, Keeps]
@[simp] theorem ackTick_keeps (d : Direction) : s.Keeps (ackTick d s).2 := by
  unfold ackTick; split <;> simp [Keeps]
@[simp] theorem ackTicks_keeps : s.Keeps (s.ackTicks) := by simp [ackTicks, Keeps]
@[simp] theorem sendAnswer_keeps (chan seq status data : Nat) :
    s.Keeps (s.sendAnswer chan seq status data) := by simp [sendAnswer, Keeps]
@[simp] theorem answerAgain_keeps (chan seq : Nat) : s.Keeps (s.answerAgain chan seq) := by
  unfold answerAgain; split <;> simp [Keeps]
@[simp] theorem noteOuter_keeps (chan seq status : Nat) (reply : List Byte) :
    s.Keeps (s.noteOuter chan seq status reply) := by simp [noteOuter, Keeps]
@[simp] theorem replied_keeps (r : Req) : s.Keeps (s.replied r) := by
  simp only [replied]; (repeat' split) <;> simp [Keeps]
@[simp] theorem answered_keeps (r : Req) (answer : Option (List Byte)) : s.Keeps (s.answered r answer) := by
  unfold answered; split <;> simp [Keeps]
@[simp] theorem noteReceipt_keeps (r : Req) (l : Nat) : s.Keeps (s.noteReceipt r l) := by simp [noteReceipt, Keeps]
@[simp] theorem replyAgain_keeps (die : Nat) (w : Window) : s.Keeps (s.replyAgain die w) := by simp [replyAgain, Keeps]
@[simp] theorem enterDie_keeps (die : Nat) (r : Req) : s.Keeps (s.enterDie die r) := by
  simp only [enterDie]; (repeat' split) <;> simp [Keeps]
@[simp] theorem arriveKnown_keeps (die : Nat) (r : Req) (w : Window) : s.Keeps (s.arriveKnown die r w) := by
  unfold arriveKnown; split <;> simp [Keeps]
@[simp] theorem arriveReq_keeps (die id : Nat) : s.Keeps (s.arriveReq die id) := by
  simp only [arriveReq]; (repeat' split) <;> simp [Keeps]
@[simp] theorem arriveErrand_keeps (die : Nat) (e : Errand) (n : Nat) :
    s.Keeps (s.arriveErrand die e n) := by simp [arriveErrand, Keeps]
@[simp] theorem errandDone_keeps (die : Nat) (e : Errand) : s.Keeps (s.errandDone die e) := by simp [errandDone, Keeps]
@[simp] theorem arriveMsg_keeps (die : Nat) (m : Msg) : s.Keeps (s.arriveMsg die m) := by
  simp only [arriveMsg]; (repeat' split) <;> simp [Keeps]
@[simp] theorem leaves_keeps (l : Nat) (m : Msg) : s.Keeps (s.leaves l m) := by
  simp only [leaves]; (repeat' split) <;> simp [Keeps]
@[simp] theorem acknowledgeOut_keeps (l agent die seq : Nat) :
    s.Keeps (s.acknowledgeOut l agent die seq) := by simp [acknowledgeOut, Keeps]

/-! #### HandOver -/
@[simp] theorem giveEnds_keeps (r : Req) (v : Bool) : s.Keeps (s.giveEnds r v) := by
  unfold giveEnds; split <;> simp [Keeps]
@[simp] theorem holdNew_keeps (k : Nat) : s.Keeps (s.holdNew k) := by simp [holdNew, Keeps]
@[simp] theorem decideGive_keeps (k : Nat) : s.Keeps (s.decideGive k) := by
  unfold decideGive; split <;> simp [Keeps]
@[simp] theorem eachFrame_keeps (k : Nat) {f : State → Nat → Nat → State} (h : ∀ (u : State) c n, u.Keeps (f u c n)) :
    s.Keeps (s.eachFrame k f) := foldl_keeps (fun _ _ => foldl_keeps (fun v _ => h v _ _) _ _) _ _
@[simp] theorem closeWay_keeps (c : Nat) (w : Nat × Nat × Nat × Way) : s.Keeps (s.closeWay c w) := by
  simp only [closeWay]; (repeat' split) <;> simp [Keeps]
@[simp] theorem closeStack_keeps (k : Nat) : s.Keeps (s.closeStack k) := by simp [closeStack, Keeps]
@[simp] theorem releaseReplicas_keeps (k : Nat) : s.Keeps (s.releaseReplicas k) :=
  eachFrame_keeps s k fun u c f => by split <;> simp [Keeps]
@[simp] theorem dropRoutes_keeps (k : Nat) : s.Keeps (s.dropRoutes k) := by simp [dropRoutes, Keeps]
@[simp] theorem serveAll_keeps : s.Keeps (s.serveAll) := by simp [serveAll, Keeps]
@[simp] theorem controlMessage_keeps (k : Nat) : s.Keeps (s.controlMessage k) := by simp [controlMessage, Keeps]
@[simp] theorem setStep_keeps (k n : Nat) : s.Keeps (s.setStep k n) := by simp [setStep, Keeps]
@[simp] theorem releaseHeld_keeps (k giving : Nat) : s.Keeps (s.releaseHeld k giving) := by simp [releaseHeld, Keeps]
@[simp] theorem switchStack_keeps (k : Nat) : s.Keeps (s.switchStack k) := by
  simp only [switchStack]; (repeat' split) <;> simp [Keeps]

/-! #### Knanos -/
@[simp] theorem touch_keeps (pa : Nat) (code : Code) (data reply : Nat) :
    s.Keeps (s.touch pa code data reply) := by simp [touch, Keeps]
@[simp] theorem setLaunch_keeps (l : Launch) : s.Keeps (s.setLaunch l) := by simp [setLaunch, Keeps]
@[simp] theorem setQueue_keeps (q : Nat) (x : Queue) : s.Keeps (s.setQueue q x) := by simp [setQueue, Keeps]
@[simp] theorem forget_keeps : s.Keeps (s.forget) := by simp [forget, Keeps]
@[simp] theorem readyNext_keeps (queue : Nat) : s.Keeps (s.readyNext queue) := by
  unfold readyNext; split <;> simp [Keeps]
@[simp] theorem loadImages_keeps (c ctx obj : Nat) : s.Keeps (s.loadImages c ctx obj) := by
  refine foldl_keeps (fun u i => ?_) _ s
  dsimp only
  split
  · simp [Keeps]
  · split <;> simp [Keeps]
@[simp] theorem dropAsid_keeps (asid : BitVec 14) : s.Keeps (s.dropAsid asid) := by simp [dropAsid, Keeps]
@[simp] theorem unhint_keeps (ctx : Nat) : s.Keeps (s.unhint ctx) := by simp [unhint, Keeps]
@[simp] theorem unbindLines_keeps (c e : Nat) : s.Keeps (s.unbindLines c e) := by simp [unbindLines, Keeps]
@[simp] theorem stopLaunch_keeps (l : Launch) : s.Keeps (s.stopLaunch l) := by simp [stopLaunch, Keeps]

/-! #### Reset -/
@[simp] theorem discardLines_keeps (c e : Nat) : s.Keeps (s.discardLines c e) := by simp [discardLines, Keeps]
@[simp] theorem serveCores_keeps (binds : List (Nat × Nat)) : s.Keeps (s.serveCores binds) := by simp [serveCores, Keeps]
@[simp] theorem setSquall_keeps (q : Squall) : s.Keeps (s.setSquall q) := by simp [setSquall, Keeps]
@[simp] theorem squallStart_keeps (q : Squall) : s.Keeps (s.squallStart q) := by simp [squallStart, Keeps]
@[simp] theorem squallLines_keeps (q : Squall) : s.Keeps (s.squallLines q) := by simp [squallLines, Keeps]
@[simp] theorem squallFree_keeps (q : Squall) : s.Keeps (s.squallFree q) := by simp [squallFree, Keeps]

/-! #### Platform -/
@[simp] theorem measureImages_keeps : s.Keeps (s.measureImages) := by simp [measureImages, Keeps]
@[simp] theorem strike_keeps (site : ErrorSite) : s.Keeps (s.strike site) := by
  unfold strike; split <;> simp [Keeps]
@[simp] theorem queueCommand_keeps (v : W64) : s.Keeps (s.queueCommand v) := by simp [queueCommand, Keeps]
@[simp] theorem moveOwners_keeps (moved : BitVec 8) : s.Keeps (s.moveOwners moved) := by simp [moveOwners, Keeps]

/-! #### Commands -/
@[simp] theorem finish_keeps (l : Line) (result value : Nat) (awaits : Option Nat) :
    s.Keeps (s.finish l result value awaits) := by
  unfold finish; split <;> simp [Keeps]

end

/-! ### Functions that write memory -/

/-- `t` has the PHASE of `s`, and a memory in canonical form if `s` has. -/
abbrev KeepsForm (s t : State) : Prop := (Memory.wf s.mem = true → Memory.wf t.mem = true) ∧ t.phase = s.phase

theorem KeepsForm.trans {s t u : State} (h : s.KeepsForm t) (k : t.KeepsForm u) : s.KeepsForm u :=
  ⟨k.1 ∘ h.1, k.2.trans h.2⟩
theorem Keeps.form {s t : State} (h : s.Keeps t) : s.KeepsForm t := ⟨fun w => h.1 ▸ w, h.2⟩
theorem KeepsForm.refl (s : State) : s.KeepsForm s := (Keeps.refl s).form

@[simp] theorem foldl_keepsForm {α : Type} {f : State → α → State} (h : ∀ (u : State) x, u.KeepsForm (f u x)) (l : List α)
    (s : State) : s.KeepsForm (l.foldl f s) := foldl_rel KeepsForm.refl KeepsForm.trans id h l s
@[simp] theorem foldl_fst_keepsForm {α β : Type} {f : State × β → α → State × β}
    (h : ∀ (a : State × β) x, a.1.KeepsForm (f a x).1) (l : List α) (a : State × β) : a.1.KeepsForm (l.foldl f a).1 :=
  foldl_rel KeepsForm.refl KeepsForm.trans Prod.fst h l a

/-- For any `t`: between a memory write and an update of its result the kernel would compare every field. -/
theorem KeepsForm.withSums {s t : State} (h : s.KeepsForm t) (l : List SumRec) : s.KeepsForm { t with sums := l } := h

section
variable (s : State)

/-! #### Home -/
@[simp] theorem putLine_keepsForm (pa : Nat) (mask poison : Nibbles) (data : Line) :
    s.KeepsForm (s.putLine pa mask poison data) :=
  foldl_keepsForm (fun u i => by split <;> simp +contextual [KeepsForm, Memory.wf_set]) _ s
@[simp] theorem foldLine_keepsForm (pa : Nat) : s.KeepsForm (s.foldLine pa) := by
  unfold foldLine
  split
  · exact .refl s
  · exact (putLine_keepsForm ..).withSums _
@[simp] theorem homeStore_keepsForm (pa : Nat) (mask poison : Nibbles) (data : Line) :
    s.KeepsForm (s.homeStore pa mask poison data) := by simp +contextual [homeStore, KeepsForm]
@[simp] theorem homeStoreBytes_keepsForm (a n v : Nat) : s.KeepsForm (s.homeStoreBytes a n v) := homeStore_keepsForm ..
@[simp] theorem homeUpdate_keepsForm (a n : Nat) (f : W64 → W64) : s.KeepsForm (s.homeUpdate a n f) := by
  simp +contextual [homeUpdate, KeepsForm]
@[simp] theorem deliverSum_keepsForm (pa core : Nat) (data : Line) : s.KeepsForm (s.deliverSum pa core data) := by
  unfold deliverSum
  extract_lets a mine s1
  have h : s.KeepsForm s1 := by
    dsimp only [s1]
    split
    · refine getD_of (fun t ht => ?_) (.refl s)
      obtain ⟨r, -, rfl⟩ := Option.map_eq_some_iff.mp ht
      exact foldLine_keepsForm ..
    · exact .refl s
  split
  · exact (KeepsForm.refl s).withSums _
  · exact h.withSums _
theorem performWriteBack_keepsForm (r : Req) : ∀ t ∈ s.performWriteBack r, s.KeepsForm t := by
  unfold performWriteBack; split <;> simp +contextual [KeepsForm]
theorem performWrite_keepsForm (r : Req) : ∀ t ∈ s.performWrite r, s.KeepsForm t := by
  unfold performWrite; split <;> simp +contextual [KeepsForm]
@[simp] theorem atomWord_keepsForm (line n : Nat) (op : AtomOp) (inst : Instr) (a : State × List (Nat × Nat × W32 × Bool))
    (w : Nat × List (Nat × W64 × W64)) : a.1.KeepsForm (atomWord line n op inst a w).1 := by
  simp only [atomWord]; split <;> simp +contextual [KeepsForm]
theorem performAtom_keepsForm (r : Req) : ∀ t ∈ s.performAtom r, s.KeepsForm t := by
  unfold performAtom
  split
  · rintro _ ⟨⟩
    exact (foldl_fst_keepsForm (fun a w => atomWord_keepsForm ..) _ (s, [])).trans (performed_keeps _ _).form
  · simp
@[simp] theorem updateWord_keepsForm (n : Nat) (f : W64 → W64 → W64) (a : Nat) (v : W64) :
    s.KeepsForm (s.updateWord n f a v) := by
  unfold updateWord; split <;> simp +contextual [KeepsForm]
theorem performRed_keepsForm (r : Req) : ∀ t ∈ s.performRed r, s.KeepsForm t := by
  unfold performRed; split <;> simp +contextual [KeepsForm]
theorem performSig_keepsForm (r : Req) : ∀ t ∈ s.performSig r, s.KeepsForm t := by
  unfold performSig; split <;> simp +contextual [KeepsForm]
theorem performSum_keepsForm (r : Req) : ∀ t ∈ s.performSum r, s.KeepsForm t := by
  unfold performSum; split <;> simp +contextual [KeepsForm]
/-! #### Engine -/
@[simp] theorem performEngWrite_keepsForm (c : Nat) (o : EngineOp) (j : Nat) (r : Req) :
    s.KeepsForm (s.performEngWrite c o j r) := by
  unfold performEngWrite; split <;> simp +contextual [KeepsForm]
/-! #### Fatal -/
@[simp] theorem rawBytes_keepsForm (a n v : Nat) : s.KeepsForm (s.rawBytes a n v) := ⟨Memory.wf_write a n v, rfl⟩
@[simp] theorem dumpCore_keepsForm (c : Nat) : s.KeepsForm (s.dumpCore c) :=
  .trans (.trans (foldl_keepsForm (fun _ _ => rawBytes_keepsForm ..) _ s) (rawBytes_keepsForm ..))
    (foldl_keepsForm (fun _ _ => rawBytes_keepsForm ..) _ _)
@[simp] theorem dump_keepsForm (reason : Nat) : s.KeepsForm (s.dump reason) := by
  unfold dump
  extract_lets out s1 s2 s3 s4
  have h1 : s.KeepsForm s1 := ⟨Memory.wf_filter _, rfl⟩
  have h2 : s1.KeepsForm s2 := .trans (.trans (rawBytes_keepsForm ..) (rawBytes_keepsForm ..)) (rawBytes_keepsForm ..)
  have h3 : s2.KeepsForm s3 := foldl_keepsForm (fun u k => rawBytes_keepsForm ..) _ _
  have h4 : s3.KeepsForm s4 := foldl_keepsForm (fun u k => rawBytes_keepsForm ..) _ _
  exact h1.trans <| h2.trans <| h3.trans <| h4.trans <| foldl_keepsForm (fun u k => dumpCore_keepsForm ..) _ _
/-! #### HandOver -/
@[simp] theorem outerPerform_keepsForm (r : Req) (op : OuterOp) : s.KeepsForm (s.outerPerform r op) := by
  unfold outerPerform
  extract_lets
  split
  case h_5 => split <;> simp +contextual [KeepsForm]
  all_goals simp +contextual [KeepsForm]
/-! #### Knanos -/
@[simp] theorem advanceHead_keepsForm (qi fuel : Nat) : s.KeepsForm (s.advanceHead qi fuel) := by
  induction fuel generalizing s with
  | zero => exact .refl s
  | succ fuel ih =>
    unfold advanceHead
    split
    · exact .refl s
    · split
      · exact .trans (by simp +contextual [KeepsForm]) (ih _)
      · exact .refl s
@[simp] theorem poke_keepsForm (a n v : Nat) : s.KeepsForm (s.poke a n v) := homeStoreBytes_keepsForm ..
@[simp] theorem writeStatus_keepsForm (lrec v : Nat) : s.KeepsForm (s.writeStatus lrec v) := by
  simp +contextual [writeStatus, KeepsForm]
@[simp] theorem bindLaunch_keepsForm (l : Launch) (c e : Nat) (crews : BitVec 64) (macros : BitVec 16) :
    s.KeepsForm (s.bindLaunch l c e crews macros) := by
  simp only [bindLaunch]; (repeat' split) <;> simp +contextual [KeepsForm]
theorem wf_foldl_set (f : Host.Cell → Nat) (l : List Host.Cell) {m : Memory} (h : Memory.wf m = true) :
    Memory.wf (l.foldl (fun m x => Memory.set m (f x) x.2) m) = true := by
  induction l generalizing m with
  | nil => exact h
  | cons x l ih => exact ih (Memory.wf_set _ _ h)
@[simp] theorem copyRange_keepsForm (from_ to_ n : Nat) : s.KeepsForm (s.copyRange from_ to_ n) :=
  ⟨fun h => wf_foldl_set _ _ (Memory.wf_filter _ h), rfl⟩
@[simp] theorem applyHint_keepsForm (x h : Nat) : s.KeepsForm (s.applyHint x h) := by
  unfold applyHint
  extract_lets va cls owner stack apply
  split
  · simp [KeepsForm]
  split
  · simp [KeepsForm]
  extract_lets size base s1 place move src s2 e1 e2 s3
  have h1 : s.KeepsForm s1 := foldl_keepsForm (fun u r => foldLine_keepsForm ..) _ s
  have hm : s1.KeepsForm src := copyRange_keepsForm ..
  have h2 : s1.KeepsForm s2 := by
    dsimp only [s2]
    split
    · simpa [KeepsForm] using hm
    · exact .refl _
  exact (h1.trans h2).trans <| (homeStore_keepsForm ..).trans (keepTlb_keeps ..).form
@[simp] theorem applyHints_keepsForm (x : Nat) (l : Line) : s.KeepsForm (s.applyHints x l) :=
  foldl_keepsForm (fun u i => by split <;> simp +contextual [KeepsForm]) _ s
@[simp] theorem setObject_keepsForm (x i st : Nat) : s.KeepsForm (s.setObject x i st) := poke_keepsForm ..
/-! #### Reset -/
@[simp] theorem pokeBytes_keepsForm (a : Nat) (l : List Byte) : s.KeepsForm (s.pokeBytes a l) :=
  foldl_keepsForm (fun _ _ => poke_keepsForm ..) _ s
/-! #### Platform -/
@[simp] theorem zeroMemory_keepsForm : s.KeepsForm s.zeroMemory := ⟨Memory.wf_filter _, rfl⟩
/-! #### Commands -/
@[simp] theorem setRoot_keepsForm (ctx v : Nat) : s.KeepsForm (s.setRoot ctx v) := rawBytes_keepsForm ..
@[simp] theorem createRoot_keepsForm (ctx handler : Nat) : s.KeepsForm (s.createRoot ctx handler) :=
  .trans (.trans (rawBytes_keepsForm ..) (rawBytes_keepsForm ..)) (setRoot_keepsForm ..)
theorem beginSwitch_keepsForm {f : State → Nat → State} (h : ∀ (u : State) n, u.KeepsForm (f u n)) (ctx table impn : Nat) :
    s.KeepsForm (s.beginSwitch ctx table impn f) := by
  unfold beginSwitch
  extract_lets r place s1 s2
  have h2 : s.KeepsForm s2 := .trans (.trans (copyRange_keepsForm ..) (h _ _)) (setRoot_keepsForm ..)
  exact ⟨by simpa using h2.1, by simpa using h2.2⟩
@[simp] theorem registerCtx_keepsForm (l : Line) : s.KeepsForm (s.registerCtx l) := by
  unfold registerCtx
  extract_lets ctx handler again s1 r
  have h1 : s.KeepsForm s1 := by simp [s1, KeepsForm]
  clear_value s1
  split
  · exact h1.trans <| (beginSwitch_keepsForm _ (fun u n => rawBytes_keepsForm ..) _ _ _).trans (finish_keeps ..).form
  · exact h1.trans <| (createRoot_keepsForm ..).trans (finish_keeps ..).form
@[simp] theorem installObj_keepsForm (l : Line) (images : List (Nat × List W64)) : s.KeepsForm (s.installObj l images) := by
  simp +contextual [installObj, KeepsForm]
@[simp] theorem respond_keepsForm (l : Line) (response : List Byte) : s.KeepsForm (s.respond l response) := by
  simp +contextual [respond, KeepsForm]

end

/-! ### Functions that set PHASE -/

theorem KeepsForm.safe {s t : State} (h : s.KeepsForm t) (hs : s.Safe) : t.Safe := ⟨h.1 hs.1, h.2 ▸ hs.2⟩
theorem Keeps.safe {s t : State} (h : s.Keeps t) (hs : s.Safe) : t.Safe := h.form.safe hs
/-- Setting PHASE to one that is listed. -/
theorem Safe.withPhase {s t : State} (hs : s.Safe) (p : BitVec 8)
    (hp : p ∈ [0x00#8, 0x01, 0x02, 0x03, 0x04, 0x05, 0xF0, 0xF1, 0xF2, 0xF3]) (hm : t.mem = s.mem)
    (ht : t.phase = p) : t.Safe := ⟨hm ▸ hs.1, ht ▸ hp⟩

theorem foldl_safe {α : Type} {f : State → α → State} (h : ∀ (u : State) x, u.Safe → (f u x).Safe) (l : List α)
    {s : State} (hs : s.Safe) : (l.foldl f s).Safe :=
  @foldl_rel α State (fun s t => s.Safe → t.Safe) (fun _ => id) (fun f g => g ∘ f) id f h l s hs

section
variable {s : State} (hs : s.Safe)
include hs

/-! #### Fatal -/
theorem fatal_safe (kind die part : Nat) : (s.fatal kind die part).Safe := by
  unfold fatal
  extract_lets reason s1
  have h1 : s1.Safe := hs.withPhase fatalPhase (by decide) rfl rfl
  exact (fatalMessage_keeps ..).safe ((dump_keepsForm ..).safe h1)
/-! #### Link -/
theorem moduleDown_safe (m : Nat) : (s.moduleDown m).Safe := by
  unfold moduleDown
  extract_lets x s1 alt s2 s3 s4 s5
  have h1 : s.Keeps s1 := ⟨onModule_mem .., onModule_phase ..⟩
  have h2 : s.Keeps s2 := h1.trans (foldl_keeps (fun _ _ => queueMsg_keeps ..) _ _)
  have h3 : s2.Keeps s3 := foldl_keeps (fun _ _ => queueMsg_keeps ..) _ _
  have h4 : s3.Keeps s4 := foldl_keeps (fun _ _ => queueMsg_keeps ..) _ _
  have h5 : s5.Safe := Keeps.safe ⟨tell_mem .., tell_phase ..⟩ (((h2.trans h3).trans h4).safe hs)
  split
  · exact fatal_safe h5 ..
  · exact h5
theorem linkDown_safe (l : Nat) : (s.linkDown l).Safe := by
  unfold linkDown
  extract_lets s1
  have h1 : s1.Safe := Keeps.safe ⟨tell_mem .., tell_phase ..⟩ hs
  split
  · exact (onLink_keeps ..).safe h1
  split
  · exact fatal_safe h1 ..
  · exact h1
theorem receiveFlit_safe (m d : Nat) (crcOk formOk : Bool) : (s.receiveFlit m d crcOk formOk).Safe := by
  have hm (f : Module → Module) : s.Keeps (s.onModule m f) := ⟨onModule_mem .., onModule_phase ..⟩
  unfold receiveFlit
  extract_lets x
  split
  · exact (hm _).safe hs
  extract_lets form r src s1
  have h1 : s1.Safe := (hm _).safe hs
  split
  · exact ((hm _).foldl fun _ _ => arriveMsg_keeps ..).safe hs
  split
  · exact h1
  split
  · exact moduleDown_safe h1 m
  · exact Keeps.safe ⟨onModule_mem .., onModule_phase ..⟩ h1
theorem receiveOut_safe (l : Nat) (crcOk formOk : Bool) : (s.receiveOut l crcOk formOk).Safe := by
  unfold receiveOut
  extract_lets x
  split
  · exact (onLink_keeps ..).safe hs
  extract_lets form r src s1
  have h1 : s1.Safe := (onLink_keeps ..).safe hs
  split
  · exact ((onLink_keeps ..).foldl fun _ _ => leaves_keeps ..).safe hs
  split
  · exact linkDown_safe h1 l
  · exact h1
theorem receiveIn_safe (l : Nat) (crcOk formOk : Bool) : (s.receiveIn l crcOk formOk).Safe := by
  unfold receiveIn
  extract_lets x
  split
  · exact hs
  split
  · exact (onLink_keeps ..).safe hs
  split
  · exact linkDown_safe hs l
  · exact (onLink_keeps ..).safe hs
theorem trainModule_safe (m : Nat) (lowOk highOk : Bool) : (s.trainModule m lowOk highOk).Safe := by
  have hm (f : Module → Module) : s.Keeps (s.onModule m f) := ⟨onModule_mem .., onModule_phase ..⟩
  unfold trainModule
  extract_lets x up count
  split
  · exact moduleDown_safe ((hm _).safe hs) m
  · exact (hm _).safe hs
/-! #### Platform -/
theorem restart_safe (reason : BitVec 8) : (s.restart reason).Safe := hs.withPhase 0 (by decide) rfl rfl
end

end Sys2Proof.Machine.State

namespace Sys2Proof.Machine
open State

/-! ### Results -/

/-- The state that a result goes on with, if any, is one that `p` holds of. -/
def Result.Ensures (p : State → Prop) : Result → Prop
  | .next t => p t
  | _ => True

@[simp] theorem Result.ensures_next (p : State → Prop) (t : State) : Result.Ensures p (.next t) = p t := rfl
@[simp] theorem Result.ensures_ite {p : State → Prop} (c : Prop) [Decidable c] (r q : Result) :
    Result.Ensures p (if c then r else q) = if c then Result.Ensures p r else Result.Ensures p q := apply_ite ..

theorem Result.Ensures.mono {p q : State → Prop} {r : Result} (h : Result.Ensures p r) (hpq : ∀ t, p t → q t) :
    Result.Ensures q r := by
  cases r with
  | next t => exact hpq t h
  | fault _ => trivial
  | refused _ => trivial

/-! ### Device steps -/

section
variable {s : State}

theorem Result.Ensures.safe_of_form {r : Result} (h : Result.Ensures s.KeepsForm r) (hs : s.Safe) :
    Result.Ensures State.Safe r :=
  h.mono fun _ k => k.safe hs
theorem Result.Ensures.safe_of_keeps {r : Result} (h : Result.Ensures s.Keeps r) (hs : s.Safe) :
    Result.Ensures State.Safe r :=
  h.mono fun _ k => k.safe hs

/-! #### Home -/
theorem State.performReq_ensures {p : State → Prop} {f : Req → Option State} (h : ∀ r, ∀ t ∈ f r, p t) (hs : p s)
    (id : Nat) : Result.Ensures p (s.performReq id f) := by
  unfold performReq
  split
  · exact hs
  split
  · exact getD_of (h _) hs
  · exact hs
theorem execRequestEntryFree_keeps (id : Nat) : Result.Ensures s.Keeps (execRequestEntryFree id s) := by
  unfold execRequestEntryFree
  split
  · split
    · exact getD_of (sendAll_keeps _ _) ⟨rfl, rfl⟩
    · exact .refl s
  · exact .refl s
theorem execSigwResend_keeps (id : Nat) : Result.Ensures s.Keeps (execSigwResend id s) := by
  simp only [execSigwResend]; (repeat' split) <;> simp [Keeps]

/-! #### Lines -/
theorem execFillArrives_keeps (c f : Nat) : Result.Ensures s.Keeps (execFillArrives c f s) := by
  simp only [execFillArrives]; (repeat' split) <;> simp [Keeps]
theorem execAbandonedFillArrives_keeps (c f : Nat) : Result.Ensures s.Keeps (execAbandonedFillArrives c f s) := by
  simp only [execAbandonedFillArrives]; (repeat' split) <;> simp [Keeps]
theorem execWalkRead_keeps (c wid : Nat) : Result.Ensures s.Keeps (execWalkRead c wid s) := by
  simp only [execWalkRead]; (repeat' split) <;> simp [Keeps]

/-! #### Control -/
theorem execExitRetire_keeps (c n : Nat) : Result.Ensures s.Keeps (execExitRetire c n s) := by
  simp only [execExitRetire]; (repeat' split) <;> simp [Keeps]

/-! #### System -/
theorem execParkedHandlerEntry_keeps (c n : Nat) : Result.Ensures s.Keeps (execParkedHandlerEntry c n s) := by
  simp only [execParkedHandlerEntry]; (repeat' split) <;> simp [Keeps]
theorem execHaltReachesMember_keeps (c parked member : Nat) :
    Result.Ensures s.Keeps (execHaltReachesMember c parked member s) := by
  simp only [execHaltReachesMember]; (repeat' split) <;> simp [Keeps]
theorem execTimerTrap_keeps (c n : Nat) : Result.Ensures s.Keeps (execTimerTrap c n s) := by
  simp only [execTimerTrap]; (repeat' split) <;> simp [Keeps]
theorem execPauseExpiry_keeps (c n : Nat) : Result.Ensures s.Keeps (execPauseExpiry c n s) := by
  simp only [execPauseExpiry]; (repeat' split) <;> simp [Keeps]
theorem execInstructionFetch_keeps (c n : Nat) (again : Bool) :
    Result.Ensures s.Keeps (execInstructionFetch c n again s) := by
  simp only [execInstructionFetch]; (repeat' split) <;> simp [Keeps]

/-! #### Engine -/
theorem execEngineLineRead_keeps (c id i : Nat) : Result.Ensures s.Keeps (execEngineLineRead c id i s) := by
  simp only [execEngineLineRead]; (repeat' split) <;> simp [Keeps]
theorem execEngineLineWrite_keepsForm (c id j : Nat) : Result.Ensures s.KeepsForm (execEngineLineWrite c id j s) := by
  simp only [execEngineLineWrite]; (repeat' split) <;> simp +contextual [KeepsForm]
theorem execCopyComplete_keeps (c id : Nat) : Result.Ensures s.Keeps (execCopyComplete c id s) := by
  simp only [execCopyComplete]; (repeat' split) <;> simp [Keeps]
theorem execMmaComplete_keeps (c id : Nat) : Result.Ensures s.Keeps (execMmaComplete c id s) := by
  simp only [execMmaComplete]; (repeat' split) <;> simp [Keeps]
theorem execMloadComplete_keeps (c id : Nat) : Result.Ensures s.Keeps (execMloadComplete c id s) := by
  simp only [execMloadComplete]; (repeat' split) <;> simp [Keeps]
theorem execTfreeEffect_keeps (c id : Nat) : Result.Ensures s.Keeps (execTfreeEffect c id s) := by
  simp only [execTfreeEffect]; (repeat' split) <;> simp [Keeps]
theorem execMacroSelfTest_keeps (c mac : Nat) (good : Bool) : Result.Ensures s.Keeps (execMacroSelfTest c mac good s) := by
  simp only [execMacroSelfTest]; (repeat' split) <;> simp [Keeps]
theorem execMacroFenceClear_keeps (c mac : Nat) : Result.Ensures s.Keeps (execMacroFenceClear c mac s) := by
  simp only [execMacroFenceClear]; (repeat' split) <;> simp [Keeps]

/-! #### Picker -/
theorem execTokenWaitMet_keeps (c wid : Nat) : Result.Ensures s.Keeps (execTokenWaitMet c wid s) := by
  simp only [execTokenWaitMet]; (repeat' split) <;> simp [Keeps]
theorem execDetectorFire_keeps (c : Nat) : Result.Ensures s.Keeps (execDetectorFire c s) := by
  simp only [execDetectorFire]; (repeat' split) <;> simp [Keeps]
theorem execCombinedRequestLeaves_keeps (c q : Nat) : Result.Ensures s.Keeps (execCombinedRequestLeaves c q s) := by
  simp only [execCombinedRequestLeaves]; (repeat' split) <;> simp [Keeps]

/-! #### Link -/
theorem execFlitReceive_safe (hs : s.Safe) (m dir : Nat) (crcOk formOk : Bool) :
    Result.Ensures State.Safe (execFlitReceive m dir crcOk formOk s) := by
  simp only [execFlitReceive]
  (repeat' split) <;> simp [hs, receiveFlit_safe, receiveOut_safe, receiveIn_safe]
theorem execModuleRetrainComplete_safe (hs : s.Safe) (m : Nat) (lowOk highOk : Bool) :
    Result.Ensures State.Safe (execModuleRetrainComplete m lowOk highOk s) := by
  unfold execModuleRetrainComplete; split <;> simp [hs, trainModule_safe]
theorem execReply_keeps (id : Nat) (outer : Option (List Byte)) : Result.Ensures s.Keeps (execReply id outer s) := by
  simp only [execReply]; (repeat' split) <;> simp [Keeps]
theorem execPeerTimeout_keeps (id : Nat) : Result.Ensures s.Keeps (execPeerTimeout id s) := by
  simp only [execPeerTimeout]; (repeat' split) <;> simp [Keeps]
theorem execWindowAcknowledge_keeps (die agent seq : Nat) :
    Result.Ensures s.Keeps (execWindowAcknowledge die agent seq s) := by
  simp only [execWindowAcknowledge]; (repeat' split) <;> simp [Keeps]
theorem execRetryRequest_keeps (m dir : Nat) : Result.Ensures s.Keeps (execRetryRequest m dir s) := by
  simp only [execRetryRequest]; (repeat' split) <;> simp [Keeps]
theorem execAckTimeout_keeps (m dir : Nat) : Result.Ensures s.Keeps (execAckTimeout m dir s) := by
  simp only [execAckTimeout]; (repeat' split) <;> simp [Keeps]

/-! #### HandOver -/
theorem State.outerAccess_keeps (chan seq agent die pa : Nat) (op : OuterOp) {answer : Option State}
    (h : ∀ t ∈ answer, s.Keeps t) : s.Keeps (s.outerAccess chan seq agent die pa op answer) := by
  unfold outerAccess
  extract_lets dup r
  split
  · simp [Keeps]
  split
  · exact .refl s
  split
  · exact h _ rfl
  · exact (newReqOf_keeps ..).trans (sendReq_keeps ..)
theorem State.outerStep_keepsForm (chan seq : Nat) {r : Result} (h : Result.Ensures s.Keeps r) :
    Result.Ensures s.KeepsForm (s.outerStep chan seq r) := by
  unfold outerStep
  split
  · split <;> simp +contextual [KeepsForm]
  · exact h.mono fun _ k => k.form
theorem execPeerRequest_keepsForm (peer : Nat) (src : PeerSource) (seq pa : Nat) (op : OuterOp) :
    Result.Ensures s.KeepsForm (execPeerRequest peer src seq pa op s) := by
  refine outerStep_keepsForm _ _ ?_
  split
  · exact .refl s
  extract_lets answer
  split
  · trivial
  · refine outerAccess_keeps _ _ _ _ _ _ ?_
    dsimp only [answer]
    split <;> simp [Keeps]
theorem State.crossing_keeps (chan seq pa : Nat) (op : OuterOp) {answer : Option State} (h : ∀ t ∈ answer, s.Keeps t) :
    ∀ t ∈ (if State.crosses pa op then some (s.noteOuter chan seq 2 []) else answer), s.Keeps t := by
  split
  · simp [Keeps]
  · exact h
theorem execHostMemoryRead_keepsForm (chan seq pa : Nat) (op : OuterOp) :
    Result.Ensures s.KeepsForm (execHostMemoryRead chan seq pa op s) := by
  refine outerStep_keepsForm _ _ ?_
  split
  · exact .refl s
  extract_lets zeros
  have h : ∀ t ∈ zeros, s.Keeps t := by dsimp only [zeros]; split <;> simp [Keeps]
  split
  · exact outerAccess_keeps _ _ _ _ _ _ (crossing_keeps _ _ _ _ h)
  · exact outerAccess_keeps _ _ _ _ _ _ h
  · exact .refl s
theorem execHostMemoryWrite_keepsForm (chan seq pa : Nat) (op : OuterOp) :
    Result.Ensures s.KeepsForm (execHostMemoryWrite chan seq pa op s) := by
  refine outerStep_keepsForm _ _ ?_
  split
  · exact .refl s
  extract_lets dropped
  have h : ∀ t ∈ dropped, s.Keeps t := by dsimp only [dropped]; split <;> simp [Keeps]
  split
  · exact outerAccess_keeps _ _ _ _ _ _ (crossing_keeps _ _ _ _ h)
  · exact outerAccess_keeps _ _ _ _ _ _ h
  · exact .refl s
theorem execHandOverControl_keeps (stack : Nat) : Result.Ensures s.Keeps (execHandOverControl stack s) := by
  simp only [execHandOverControl]; (repeat' split) <;> simp [Keeps]
theorem execHandoverDrain_keeps (stack : Nat) : Result.Ensures s.Keeps (execHandoverDrain stack s) := by
  simp only [execHandoverDrain]; (repeat' split) <;> simp [Keeps]
theorem execHandoverClose_keeps (stack : Nat) : Result.Ensures s.Keeps (execHandoverClose stack s) := by
  simp only [execHandoverClose]; (repeat' split) <;> simp [Keeps]
theorem execHandoverSwitch_keeps (stack : Nat) : Result.Ensures s.Keeps (execHandoverSwitch stack s) := by
  simp only [execHandoverSwitch]; (repeat' split) <;> simp [Keeps]

/-! #### Knanos -/
theorem execLaunchQueuePoll_keeps (queue : Nat) : Result.Ensures s.Keeps (execLaunchQueuePoll queue s) := by
  unfold execLaunchQueuePoll
  split
  · exact .refl s
  split
  · exact .refl s
  · refine .foldl ((setQueue_keeps ..).trans (touch_keeps ..)) fun u l => ?_
    dsimp only
    (repeat' split) <;> simp [Keeps]
theorem execCompletionWordAdd_keepsForm (lrec : Nat) : Result.Ensures s.KeepsForm (execCompletionWordAdd lrec s) := by
  unfold execCompletionWordAdd
  split
  · extract_lets next
    have h (u : State) (hu : s.KeepsForm u) : Result.Ensures s.KeepsForm (next u) := hu.trans (setLaunch_keeps ..).form
    split
    · exact h s (.refl s)
    split
    · exact .refl s
    · exact h _ (by simp [KeepsForm])
    · extract_lets a
      split
      · exact .refl s
      · exact h _ (by simp +contextual [KeepsForm])
  · exact .refl s
theorem execLaunchRecordRead_keeps (queue : Nat) : Result.Ensures s.Keeps (execLaunchRecordRead queue s) := by
  simp only [execLaunchRecordRead]; (repeat' split) <;> simp [Keeps]
theorem execQuiesceMoves_keepsForm (lrec : Nat) : Result.Ensures s.KeepsForm (execQuiesceMoves lrec s) := by
  simp only [execQuiesceMoves]; (repeat' split) <;> simp +contextual [KeepsForm]
theorem execKnanosBind_keepsForm (lrec c e : Nat) (crews : List Nat) (macros : BitVec 16) :
    Result.Ensures s.KeepsForm (execKnanosBind lrec c e crews macros s) := by
  simp only [execKnanosBind]; (repeat' split) <;> simp +contextual [KeepsForm]
theorem execBindSetupDone_keeps (c e : Nat) : Result.Ensures s.Keeps (execBindSetupDone c e s) := by
  simp only [execBindSetupDone]; (repeat' split) <;> simp [Keeps]
theorem execPowerThermalReading_keeps (power energy temp0 temp1 : Nat) :
    Result.Ensures s.Keeps (execPowerThermalReading power energy temp0 temp1 s) := by
  simp only [execPowerThermalReading]; (repeat' split) <;> simp [Keeps]
theorem execClaim_keeps (c : Nat) : Result.Ensures s.Keeps (execClaim c s) := by
  simp only [execClaim]; (repeat' split) <;> simp [Keeps]
theorem execClaimPerform_keepsForm (c e : Nat) : Result.Ensures s.KeepsForm (execClaimPerform c e s) := by
  simp only [execClaimPerform]; (repeat' split) <;> simp +contextual [KeepsForm]
theorem execClaimReply_keeps (c e : Nat) : Result.Ensures s.Keeps (execClaimReply c e s) := by
  simp only [execClaimReply]; (repeat' split) <;> simp [Keeps]
theorem execPreEmption_keeps (lrec : Nat) : Result.Ensures s.Keeps (execPreEmption lrec s) := by
  simp only [execPreEmption]; (repeat' split) <;> simp [Keeps]
theorem execDeadlineExpiry_keeps (lrec : Nat) : Result.Ensures s.Keeps (execDeadlineExpiry lrec s) := by
  simp only [execDeadlineExpiry]; (repeat' split) <;> simp [Keeps]
theorem execUnbind_keeps (c e : Nat) : Result.Ensures s.Keeps (execUnbind c e s) := by
  simp only [execUnbind]; (repeat' split) <;> simp [Keeps]
theorem execLaunchCounterZero_keeps (c e : Nat) : Result.Ensures s.Keeps (execLaunchCounterZero c e s) := by
  simp only [execLaunchCounterZero]; (repeat' split) <;> simp [Keeps]
theorem execPreEmptionSave_keepsForm (lrec : Nat) : Result.Ensures s.KeepsForm (execPreEmptionSave lrec s) := by
  simp only [execPreEmptionSave]; (repeat' split) <;> simp +contextual [KeepsForm]
theorem execLaunchCompletion_keepsForm (lrec : Nat) : Result.Ensures s.KeepsForm (execLaunchCompletion lrec s) := by
  simp only [execLaunchCompletion]; (repeat' split) <;> simp +contextual [KeepsForm]
theorem execCompletionMessage_keeps (lrec : Nat) : Result.Ensures s.Keeps (execCompletionMessage lrec s) := by
  simp only [execCompletionMessage]; (repeat' split) <;> simp [Keeps]
theorem execImportAdopt_keeps (c ctx : Nat) : Result.Ensures s.Keeps (execImportAdopt c ctx s) := by
  simp only [execImportAdopt]; (repeat' split) <;> simp [Keeps]
theorem execImportSwitchComplete_keepsForm (ctx : Nat) : Result.Ensures s.KeepsForm (execImportSwitchComplete ctx s) := by
  simp only [execImportSwitchComplete]; (repeat' split) <;> simp +contextual [KeepsForm]
theorem execObjectFree_keepsForm (ctx idx : Nat) : Result.Ensures s.KeepsForm (execObjectFree ctx idx s) := by
  simp only [execObjectFree]; (repeat' split) <;> simp +contextual [KeepsForm]

/-! #### Reset -/
theorem execResetRecordWrite_keepsForm (ctx : Nat) : Result.Ensures s.KeepsForm (execResetRecordWrite ctx s) := by
  unfold execResetRecordWrite
  split
  · extract_lets x record s0 s1 s2
    have h0 : s.KeepsForm s0 := (foldl_keeps (fun _ _ => touch_keeps ..) _ s).form
    have h1 : s0.KeepsForm s1 := (pokeBytes_keepsForm ..).trans (poke_keepsForm ..)
    have h2 : s1.KeepsForm s2 := by simp [s2, KeepsForm]
    have h3 := (h0.trans h1).trans h2
    clear_value s2
    split
    · exact h3
    · exact .refl s
  · exact .refl s
theorem execSquallReset_keeps (ctx : Nat) : Result.Ensures s.Keeps (execSquallReset ctx s) := by
  simp only [execSquallReset]; (repeat' split) <;> simp [Keeps]

/-! #### Platform -/
theorem State.registerAccess_keeps {f : State → State × List Byte} (h : ∀ u : State, u.Keeps (f u).1) (chan seq : Nat) :
    Result.Ensures s.Keeps (s.registerAccess chan seq f) := by
  unfold registerAccess
  (repeat' split) <;> simp [Keeps, h]
theorem State.registerWrite_keeps {f : State → State} (h : ∀ u : State, u.Keeps (f u)) (w : RegWrite) :
    Result.Ensures s.Keeps (s.registerWrite w f) :=
  registerAccess_keeps (fun u => by split <;> simp [Keeps, h]) _ _
theorem execHostRegisterRead_keeps (chan seq off : Nat) : Result.Ensures s.Keeps (execHostRegisterRead chan seq off s) :=
  registerAccess_keeps Keeps.refl _ _
theorem execHostRegisterWrite_keeps (off : Nat) (v : RegWrite) : Result.Ensures s.Keeps (execHostRegisterWrite off v s) := by
  unfold execHostRegisterWrite
  split
  · exact .refl s
  · exact registerWrite_keeps Keeps.refl _
theorem execMsgbaseWrite_keeps (v : RegWrite) : Result.Ensures s.Keeps (execMsgbaseWrite v s) :=
  registerWrite_keeps (by exact fun _ => ⟨rfl, rfl⟩) v
theorem execMsgidxConsWrite_keeps (v : RegWrite) : Result.Ensures s.Keeps (execMsgidxConsWrite v s) :=
  registerWrite_keeps (by exact fun _ => ⟨rfl, rfl⟩) v
theorem execPlimWrite_keeps (v : RegWrite) : Result.Ensures s.Keeps (execPlimWrite v s) :=
  registerWrite_keeps (by exact fun _ => ⟨rfl, rfl⟩) v
theorem execTlimWrite_keeps (v : RegWrite) : Result.Ensures s.Keeps (execTlimWrite v s) :=
  registerWrite_keeps (by exact fun _ => ⟨rfl, rfl⟩) v
theorem execDlineWrite_keeps (v : RegWrite) : Result.Ensures s.Keeps (execDlineWrite v s) :=
  registerWrite_keeps (by exact fun _ => ⟨rfl, rfl⟩) v
theorem execCmdpaWrite_keeps (v : RegWrite) : Result.Ensures s.Keeps (execCmdpaWrite v s) :=
  registerWrite_keeps (fun _ => queueCommand_keeps ..) _
theorem execDeviceReset_safe (hs : s.Safe) (v : RegWrite) : Result.Ensures State.Safe (execDeviceReset v s) := by
  unfold execDeviceReset
  split
  · split
    · exact hs
    · exact restart_safe hs 1
  · exact (registerWrite_keeps Keeps.refl _).safe_of_keeps hs
theorem execPowerOn_safe (hs : s.Safe) : Result.Ensures State.Safe (execPowerOn s) := by
  unfold execPowerOn
  split
  · exact hs.withPhase 0x01 (by decide) rfl rfl
  split
  · split
    · exact hs.withPhase 0xF0 (by decide) rfl rfl
    · exact hs.withPhase 0x02 (by decide) rfl rfl
  · exact hs
theorem execStackTraining_safe (hs : s.Safe) (failed : Option Nat) :
    Result.Ensures State.Safe (execStackTraining failed s) := by
  unfold execStackTraining
  split
  · split
    · split
      · exact hs.withPhase 0xF1 (by decide) rfl rfl
      · exact hs
    · exact ((zeroMemory_keepsForm s).safe hs).withPhase 0x03 (by decide) rfl rfl
  · exact hs
theorem execD2dTraining_safe (hs : s.Safe) (lowBad highBad : List Nat) :
    Result.Ensures State.Safe (execD2dTraining lowBad highBad s) := by
  unfold execD2dTraining
  split
  · extract_lets s1
    have h1 : s1.Safe := foldl_safe (fun _ _ h => trainModule_safe h ..) _ hs
    split
    · exact h1.withPhase 0xF3 (by decide) rfl rfl
    · exact h1.withPhase 0x04 (by decide) rfl rfl
  · exact hs
theorem execKnanosStart_safe (hs : s.Safe) (moved : Option (BitVec 8)) :
    Result.Ensures State.Safe (execKnanosStart moved s) := by
  unfold execKnanosStart
  split
  · split
    · exact (moveOwners_keeps ..).safe (hs.withPhase readyPhase (by decide) rfl rfl)
    · exact hs.withPhase 0xF0 (by decide) rfl rfl
  · exact hs
theorem execThermalTrip_safe (hs : s.Safe) (die : Nat) : Result.Ensures State.Safe (execThermalTrip die s) := by
  unfold execThermalTrip; split <;> simp [hs, restart_safe]
theorem execFatalError_safe (hs : s.Safe) (kind die part : Nat) :
    Result.Ensures State.Safe (execFatalError kind die part s) := by
  unfold execFatalError; split <;> simp [hs, fatal_safe]
theorem execDclLinkLoss_safe (hs : s.Safe) : Result.Ensures State.Safe (execDclLinkLoss s) := by
  unfold execDclLinkLoss; split <;> simp [hs, fatal_safe]
theorem execManagementCoreTimeout_safe (hs : s.Safe) (die : Nat) :
    Result.Ensures State.Safe (execManagementCoreTimeout die s) := by
  unfold execManagementCoreTimeout; split <;> simp [hs, fatal_safe]
theorem execUncorrectableError_keeps (site : ErrorSite) : Result.Ensures s.Keeps (execUncorrectableError site s) := by
  exact strike_keeps ..
theorem execDclRecovery_keeps (x8 : Bool) : Result.Ensures s.Keeps (execDclRecovery x8 s) := by
  exact ⟨rfl, rfl⟩
theorem execMessageWrite_keeps : Result.Ensures s.Keeps (execMessageWrite s) := by
  simp only [execMessageWrite]; (repeat' split) <;> simp [Keeps]

/-! #### Commands -/
theorem State.conclude_safe (hs : s.Safe) (l : Line) (paramsOk stateOk : Bool) {f : State → State} (hf : (f s).Safe) :
    Result.Ensures State.Safe (s.conclude l paramsOk stateOk f) := by
  have h (result : Nat) : (s.finish l result 0 none).Safe := (finish_keeps ..).safe hs
  unfold conclude
  split
  · exact h 1
  split
  · exact h 2
  · exact hf
theorem execRegisterLaunchQueue_safe (hs : s.Safe) : Result.Ensures State.Safe (execRegisterLaunchQueue s) := by
  unfold execRegisterLaunchQueue
  split
  · exact hs
  · exact conclude_safe hs _ _ _ ((finish_keeps ..).safe hs)
theorem execRegisterContext_safe (hs : s.Safe) : Result.Ensures State.Safe (execRegisterContext s) := by
  unfold execRegisterContext
  split
  · exact hs
  · exact conclude_safe hs _ _ _ ((registerCtx_keepsForm ..).safe hs)
theorem execPreEmpt_safe (hs : s.Safe) : Result.Ensures State.Safe (execPreEmpt s) := by
  unfold execPreEmpt
  split
  · exact hs
  · refine conclude_safe hs _ _ _ (Keeps.safe ?_ hs)
    split
    · split <;> simp [Keeps]
    · exact .refl s
theorem execSquallResetCommand_safe (hs : s.Safe) : Result.Ensures State.Safe (execSquallResetCommand s) := by
  unfold execSquallResetCommand
  split
  · exact hs
  · exact conclude_safe hs _ _ _ (((askSquall_keeps ..).trans (finish_keeps ..)).safe hs)
theorem execInstallObject_safe (hs : s.Safe) (images : List (Nat × List W64)) :
    Result.Ensures State.Safe (execInstallObject images s) := by
  unfold execInstallObject
  split
  · exact hs
  · exact conclude_safe hs _ _ _ ((installObj_keepsForm ..).safe hs)
theorem execImportSwitch_safe (hs : s.Safe) : Result.Ensures State.Safe (execImportSwitch s) := by
  unfold execImportSwitch
  split
  · exact hs
  · exact conclude_safe hs _ _ _
      ((finish_keeps ..).safe ((beginSwitch_keepsForm _ (fun u _ => .refl u) _ _ _).safe hs))
theorem execWriteDomainTable_safe (hs : s.Safe) : Result.Ensures State.Safe (execWriteDomainTable s) := by
  unfold execWriteDomainTable
  split
  · exact hs
  · exact conclude_safe hs _ _ _ ((finish_keeps ..).safe hs)
theorem execModuleUp_safe (hs : s.Safe) (lowOk highOk : Bool) : Result.Ensures State.Safe (execModuleUp lowOk highOk s) := by
  unfold execModuleUp
  split
  · exact hs
  · refine conclude_safe hs _ _ _ ((finish_keeps ..).safe ?_)
    split
    · exact trainModule_safe (Keeps.safe ⟨onModule_mem .., onModule_phase ..⟩ hs) ..
    · exact hs
theorem State.answer_keepsForm (code : Nat) {f : State → Line → List Byte → State} (h : ∀ l r, s.KeepsForm (f s l r)) :
    Result.Ensures s.KeepsForm (s.answer code f) := by
  unfold answer
  split
  · (repeat' split) <;> simp +contextual [KeepsForm, h]
  · exact .refl s
theorem execGetCapabilities_keepsForm : Result.Ensures s.KeepsForm (execGetCapabilities s) :=
  answer_keepsForm _ fun l r => by simp +contextual [KeepsForm]
theorem execNegotiateAlgorithms_keepsForm : Result.Ensures s.KeepsForm (execNegotiateAlgorithms s) :=
  answer_keepsForm _ fun l r => by split <;> simp +contextual [KeepsForm]
theorem execGetDigests_keepsForm : Result.Ensures s.KeepsForm (execGetDigests s) :=
  answer_keepsForm _ fun l r => by simp +contextual [KeepsForm]
theorem execGetCertificate_keepsForm : Result.Ensures s.KeepsForm (execGetCertificate s) :=
  answer_keepsForm _ fun l r => by split <;> simp +contextual [KeepsForm]
theorem execChallenge_keepsForm : Result.Ensures s.KeepsForm (execChallenge s) :=
  answer_keepsForm _ fun l r => by split <;> simp +contextual [KeepsForm]
theorem execGetMeasurements_keepsForm : Result.Ensures s.KeepsForm (execGetMeasurements s) :=
  answer_keepsForm _ fun l r => by
    dsimp only
    split
    · simp +contextual [KeepsForm]
    · split <;> simp +contextual [KeepsForm]
theorem execCommandUnknown_keeps : Result.Ensures s.Keeps (execCommandUnknown s) := by
  simp only [execCommandUnknown]; (repeat' split) <;> simp [Keeps]
theorem execCommandReply_keeps : Result.Ensures s.Keeps (execCommandReply s) := by
  simp only [execCommandReply]; (repeat' split) <;> simp [Keeps]
theorem execGetVersion_keepsForm : Result.Ensures s.KeepsForm (execGetVersion s) := by
  simp only [execGetVersion]; (repeat' split) <;> simp +contextual [KeepsForm]
theorem execSpdmUnsupportedRequest_keepsForm : Result.Ensures s.KeepsForm (execSpdmUnsupportedRequest s) := by
  simp only [execSpdmUnsupportedRequest]; (repeat' split) <;> simp +contextual [KeepsForm]

end

/-! ### Steps -/

/-- Every instruction, micro-op and device step leads from a safe state to a safe one. -/
theorem exec_safe {s : State} (hs : s.Safe) (i : Instr) : Result.Ensures State.Safe (exec i s) := by
  cases i with
  | ldBC | ldHC | ldWC | ldDC | ld | lde => exact (loadInstr_keeps ..).safe hs
  | stBC | stHC | stWC | stDC | st | ste => exact (storeInstr_keeps ..).safe hs
  | recallC | recallLine => exact (recallInstr_keeps ..).safe hs
  | flushC | flush => exact (flushInstr_keeps ..).safe hs
  | exitC | retC | mfsC | pauseC | bra | call | callImport | callx | jmpx | ret | exit | join | leave | tbar | tred
  | tbcast | mma | mload | talloc | tfree | tstat | copy | wait | sigw | stkgive | stkown | tmset | trap | bkpt
  | rteRetry | rteSkip | rteExit | mfs | mts | icinv | pfi | pause | hld =>
    exact (eachActive_keeps s _ _ (by simp [Keeps])).safe hs
  | voteAnyC | voteAllC | voteBallC | vote => exact (voteInstr_keeps ..).safe hs
  | electC | elect => exact (electInstr_keeps ..).safe hs
  | shflIdxC | shflXorC | shfl => exact (shflInstr_keeps ..).safe hs
  | illegalInstruction => exact (eachLane_keeps s (by simp [Keeps])).safe hs
  | openLine | sopen => exact (openInstr_keeps ..).safe hs
  | atom | red | sig => exact (unitInstr_keeps ..).safe hs
  | pfd => exact (pfdInstr_keeps ..).safe hs
  | matchLanes => exact (matchInstr_keeps ..).safe hs
  | confl => exact (conflInstr_keeps ..).safe hs
  | cred => exact (credInstr_keeps ..).safe hs
  | cscan => exact (cscanInstr_keeps ..).safe hs
  | seamld => exact (seamldInstr_keeps ..).safe hs
  | xseam => exact (xseamInstr_keeps ..).safe hs
  | uopEnd | uopLld | uopLst | uopShfl | uopBrf | uopLoop | uopWr => exact (eachSeam_keeps s (by simp [Keeps])).safe hs
  | uopAdd | uopSub | uopMul | uopAnd | uopOr | uopXor | uopShl | uopShr | uopCmp | uopFadd | uopFmul | uopFmin
  | uopFmax | uopLmul | uopCvt | uopPack => exact (seamOp_keeps ..).safe hs
  | uopMad | uopSel | uopFma | uopLtab => exact (seamWrite_keeps ..).safe hs
  | parkedHandlerEntry => exact (execParkedHandlerEntry_keeps ..).safe_of_keeps hs
  | haltReachesMember => exact (execHaltReachesMember_keeps ..).safe_of_keeps hs
  | timerTrap => exact (execTimerTrap_keeps ..).safe_of_keeps hs
  | pauseExpiry => exact (execPauseExpiry_keeps ..).safe_of_keeps hs
  | exitRetire => exact (execExitRetire_keeps ..).safe_of_keeps hs
  | fillArrives => exact (execFillArrives_keeps ..).safe_of_keeps hs
  | abandonedFillArrives => exact (execAbandonedFillArrives_keeps ..).safe_of_keeps hs
  | tokenWaitMet => exact (execTokenWaitMet_keeps ..).safe_of_keeps hs
  | detectorFire => exact (execDetectorFire_keeps ..).safe_of_keeps hs
  | instructionFetch => exact (execInstructionFetch_keeps ..).safe_of_keeps hs
  | fillRead => exact (performReq_ensures (performFill_keeps s) (.refl s) _).safe_of_keeps hs
  | writeBack => exact (performReq_ensures (performWriteBack_keepsForm s) (.refl s) _).safe_of_form hs
  | homeRead => exact (performReq_ensures (performRead_keeps s) (.refl s) _).safe_of_keeps hs
  | homeWrite => exact (performReq_ensures (performWrite_keepsForm s) (.refl s) _).safe_of_form hs
  | atomicRequest => exact (performReq_ensures (performAtom_keepsForm s) (.refl s) _).safe_of_form hs
  | reductionRequest => exact (performReq_ensures (performRed_keepsForm s) (.refl s) _).safe_of_form hs
  | sigRequest => exact (performReq_ensures (performSig_keepsForm s) (.refl s) _).safe_of_form hs
  | sigwRead => exact (performReq_ensures (performSigw_keeps s) (.refl s) _).safe_of_keeps hs
  | sigwResend => exact (execSigwResend_keeps ..).safe_of_keeps hs
  | engineLineRead => exact (execEngineLineRead_keeps ..).safe_of_keeps hs
  | engineLineWrite => exact (execEngineLineWrite_keepsForm ..).safe_of_form hs
  | walkRead => exact (execWalkRead_keeps ..).safe_of_keeps hs
  | sumDelivery => exact (performReq_ensures (performSum_keepsForm s) (.refl s) _).safe_of_form hs
  | requestEntryFree => exact (execRequestEntryFree_keeps ..).safe_of_keeps hs
  | reply => exact (execReply_keeps ..).safe_of_keeps hs
  | windowAcknowledge => exact (execWindowAcknowledge_keeps ..).safe_of_keeps hs
  | flitReceive => exact execFlitReceive_safe hs ..
  | retryRequest => exact (execRetryRequest_keeps ..).safe_of_keeps hs
  | ackTimeout => exact (execAckTimeout_keeps ..).safe_of_keeps hs
  | moduleRetrainComplete => exact execModuleRetrainComplete_safe hs ..
  | handOverControl => exact (execHandOverControl_keeps ..).safe_of_keeps hs
  | handoverDrain => exact (execHandoverDrain_keeps ..).safe_of_keeps hs
  | handoverClose => exact (execHandoverClose_keeps ..).safe_of_keeps hs
  | handoverSwitch => exact (execHandoverSwitch_keeps ..).safe_of_keeps hs
  | peerRequest => exact (execPeerRequest_keepsForm ..).safe_of_form hs
  | peerTimeout => exact (execPeerTimeout_keeps ..).safe_of_keeps hs
  | hostMemoryRead => exact (execHostMemoryRead_keepsForm ..).safe_of_form hs
  | hostMemoryWrite => exact (execHostMemoryWrite_keepsForm ..).safe_of_form hs
  | hostRegisterRead => exact (execHostRegisterRead_keeps ..).safe_of_keeps hs
  | hostRegisterWrite => exact (execHostRegisterWrite_keeps ..).safe_of_keeps hs
  | dclLinkLoss => exact execDclLinkLoss_safe hs
  | deviceReset => exact execDeviceReset_safe hs ..
  | msgbaseWrite => exact (execMsgbaseWrite_keeps ..).safe_of_keeps hs
  | msgidxConsWrite => exact (execMsgidxConsWrite_keeps ..).safe_of_keeps hs
  | plimWrite => exact (execPlimWrite_keeps ..).safe_of_keeps hs
  | tlimWrite => exact (execTlimWrite_keeps ..).safe_of_keeps hs
  | dlineWrite => exact (execDlineWrite_keeps ..).safe_of_keeps hs
  | powerOn => exact execPowerOn_safe hs
  | stackTraining => exact execStackTraining_safe hs ..
  | d2dTraining => exact execD2dTraining_safe hs ..
  | knanosStart => exact execKnanosStart_safe hs ..
  | thermalTrip => exact execThermalTrip_safe hs ..
  | fatalError => exact execFatalError_safe hs ..
  | managementCoreTimeout => exact execManagementCoreTimeout_safe hs ..
  | registerLaunchQueue => exact execRegisterLaunchQueue_safe hs
  | registerContext => exact execRegisterContext_safe hs
  | preEmpt => exact execPreEmpt_safe hs
  | squallResetCommand => exact execSquallResetCommand_safe hs
  | installObject => exact execInstallObject_safe hs ..
  | importSwitch => exact execImportSwitch_safe hs
  | writeDomainTable => exact execWriteDomainTable_safe hs
  | moduleUp => exact execModuleUp_safe hs ..
  | getVersion => exact execGetVersion_keepsForm.safe_of_form hs
  | getCapabilities => exact execGetCapabilities_keepsForm.safe_of_form hs
  | negotiateAlgorithms => exact execNegotiateAlgorithms_keepsForm.safe_of_form hs
  | getDigests => exact execGetDigests_keepsForm.safe_of_form hs
  | getCertificate => exact execGetCertificate_keepsForm.safe_of_form hs
  | challenge => exact execChallenge_keepsForm.safe_of_form hs
  | getMeasurements => exact execGetMeasurements_keepsForm.safe_of_form hs
  | spdmUnsupportedRequest => exact execSpdmUnsupportedRequest_keepsForm.safe_of_form hs
  | commandUnknown => exact execCommandUnknown_keeps.safe_of_keeps hs
  | commandReply => exact execCommandReply_keeps.safe_of_keeps hs
  | messageWrite => exact execMessageWrite_keeps.safe_of_keeps hs
  | launchQueuePoll => exact (execLaunchQueuePoll_keeps ..).safe_of_keeps hs
  | launchRecordRead => exact (execLaunchRecordRead_keeps ..).safe_of_keeps hs
  | quiesceMoves => exact (execQuiesceMoves_keepsForm ..).safe_of_form hs
  | knanosBind => exact (execKnanosBind_keepsForm ..).safe_of_form hs
  | bindSetupDone => exact (execBindSetupDone_keeps ..).safe_of_keeps hs
  | powerThermalReading => exact (execPowerThermalReading_keeps ..).safe_of_keeps hs
  | claim => exact (execClaim_keeps ..).safe_of_keeps hs
  | claimPerform => exact (execClaimPerform_keepsForm ..).safe_of_form hs
  | claimReply => exact (execClaimReply_keeps ..).safe_of_keeps hs
  | preEmption => exact (execPreEmption_keeps ..).safe_of_keeps hs
  | deadlineExpiry => exact (execDeadlineExpiry_keeps ..).safe_of_keeps hs
  | unbind => exact (execUnbind_keeps ..).safe_of_keeps hs
  | launchCounterZero => exact (execLaunchCounterZero_keeps ..).safe_of_keeps hs
  | preEmptionSave => exact (execPreEmptionSave_keepsForm ..).safe_of_form hs
  | launchCompletion => exact (execLaunchCompletion_keepsForm ..).safe_of_form hs
  | completionWordAdd => exact (execCompletionWordAdd_keepsForm ..).safe_of_form hs
  | completionMessage => exact (execCompletionMessage_keeps ..).safe_of_keeps hs
  | squallReset => exact (execSquallReset_keeps ..).safe_of_keeps hs
  | resetRecordWrite => exact (execResetRecordWrite_keepsForm ..).safe_of_form hs
  | copyComplete => exact (execCopyComplete_keeps ..).safe_of_keeps hs
  | mloadComplete => exact (execMloadComplete_keeps ..).safe_of_keeps hs
  | mmaComplete => exact (execMmaComplete_keeps ..).safe_of_keeps hs
  | tfreeEffect => exact (execTfreeEffect_keeps ..).safe_of_keeps hs
  | macroSelfTest => exact (execMacroSelfTest_keeps ..).safe_of_keeps hs
  | importAdopt => exact (execImportAdopt_keeps ..).safe_of_keeps hs
  | importSwitchComplete => exact (execImportSwitchComplete_keepsForm ..).safe_of_form hs
  | objectFree => exact (execObjectFree_keepsForm ..).safe_of_form hs
  | cmdpaWrite => exact (execCmdpaWrite_keeps ..).safe_of_keeps hs
  | combinedRequestLeaves => exact (execCombinedRequestLeaves_keeps ..).safe_of_keeps hs
  | uncorrectableError => exact (execUncorrectableError_keeps ..).safe_of_keeps hs
  | macroFenceClear => exact (execMacroFenceClear_keeps ..).safe_of_keeps hs
  | dclRecovery => exact (execDclRecovery_keeps ..).safe_of_keeps hs
  -- the others are lane-wise
  | _ => exact (laneWise_keeps ..).safe hs

theorem Result.Ensures.andThen {p : State → Prop} {r : Result} {f : State → Result} (h : Result.Ensures p r)
    (hf : ∀ t, p t → Result.Ensures p (f t)) : Result.Ensures p (r.andThen f) := by
  cases r with
  | next t => exact hf t h
  | fault _ => trivial
  | refused _ => trivial

namespace State

@[simp] theorem noteIssue_keeps (s : State) (c q : Nat) (slots : List Nat) (i : Instr) (pair : Bool) :
    s.Keeps (s.noteIssue c q slots i pair) := by simp [noteIssue, Keeps]
@[simp] theorem fabricTick_keeps (s : State) : s.Keeps s.fabricTick := by simp [fabricTick, Keeps]
@[simp] theorem coreCycle_keeps (s : State) (c : Nat) : s.Keeps (s.coreCycle c) := by simp [coreCycle, Keeps]

section
variable {s : State} (hs : s.Safe)
include hs

theorem runBundle_safe (b : Bundle) (i : Instr) : Result.Ensures State.Safe (s.runBundle b i) := by
  unfold runBundle
  split
  · exact hs
  · exact exec_safe (show State.Safe { s with cur := some b } from hs) i

/-- First the lanes that pass the decode checks, then those that fail each of them. -/
theorem runLanes_safe (b : Bundle) (i : Instr) : Result.Ensures State.Safe (s.runLanes b i) := by
  have step (l : List (Detail × List Nat)) (r : Result) (h : Result.Ensures State.Safe r) :
      Result.Ensures State.Safe (l.foldl (fun (r : Result) x =>
        r.andThen fun u => u.runBundle { b with slots := x.2 } (.illegalInstruction x.1)) r) := by
    induction l generalizing r with
    | nil => exact h
    | cons x l ih => exact ih _ (h.andThen fun _ ht => runBundle_safe ht ..)
  exact step _ _ (runBundle_safe hs ..)

theorem issueTurn_safe (c q : Nat) : Result.Ensures State.Safe (s.issueTurn c q) := by
  unfold issueTurn
  split
  · split
    · exact runLanes_safe ((noteIssue_keeps ..).safe hs) ..
    · exact hs
  · exact hs

theorem uopTurn_safe (c n : Nat) : Result.Ensures State.Safe (s.uopTurn c n) := by
  unfold uopTurn
  split
  · exact hs
  split
  · exact runBundle_safe hs ..
  · exact hs

theorem tickTurn_safe : Result.Ensures State.Safe s.tickTurn := by
  suffices h : Result.Ensures s.Keeps s.tickTurn from h.safe_of_keeps hs
  unfold tickTurn
  (repeat' split) <;> simp [Keeps]

theorem runTurn_safe (t : Turn) : Result.Ensures State.Safe (s.runTurn t) := by
  cases t with
  | issue c q => exact issueTurn_safe hs c q
  | uop c n => exact uopTurn_safe hs c n
  | event i =>
    rw [runTurn]
    split
    · exact exec_safe hs i
    · exact hs
  | tick => exact tickTurn_safe hs

end
end State

theorem step_safe {s : State} (hs : s.Safe) : Result.Ensures State.Safe (step s) :=
  (State.runTurn_safe hs s.turn).andThen fun _ ht => State.Keeps.safe ⟨rfl, rfl⟩ ht

/-- Settles O49: every part of a step keeps what it does not write, writes memory by `Memory.set`, `write` and `filter`, which
keep the canonical form, and sets PHASE to phases that R319 lists. -/
theorem stepKeepsSafe : Obligations.StepKeepsSafe := by
  unfold Obligations.StepKeepsSafe
  intro s t hs hstep
  have h := step_safe hs
  rw [hstep] at h
  exact h

end Sys2Proof.Machine
